-- ==== Sys2Proof/Word.lean ====
section
/-! DEFINITION. The data widths of the manual (R3, R6): byte, word (a 64-bit double of R6), the 256-byte operand. -/

namespace Sys2Proof

/-- One byte. -/
abbrev Byte := BitVec 8

/-- The 64-bit word of records, registers and instruction words (R6). -/
abbrev Word := BitVec 64

/-- A 256-byte vector operand, latch or queue entry (R43, R164): byte n is bits 8n+7:8n. -/
abbrev Vec := BitVec 2048

/-- A byte-lane mask of the execute processor: one bit a byte (R39). -/
abbrev Mask := BitVec 256

end Sys2Proof
end

