-- ==== Sys2Proof/Syntax.lean ====
section
/-! DEFINITION. The steps of the part as syntax: the body formats of the instruction word (R28), the frames of the
fabric (R386), the host's messages (R399), and Instr, one constructor for each row of the table of operations. -/

namespace Sys2Proof

/-- S, N and PRED of the word header (R28, R30). -/
structure Hdr where
  s    : Bool
  n    : Bool
  pred : BitVec 3
  deriving DecidableEq, Repr

/-- Format F3 (R28): three register fields and D, an element type and a rounding mode. -/
structure F3 where
  d  : BitVec 10
  a  : BitVec 10
  b  : BitVec 10
  c  : BitVec 10
  ty : BitVec 3
  rm : BitVec 2
  deriving DecidableEq, Repr

/-- Format FI (R28): D, A and a 25-bit immediate. -/
structure FI where
  d   : BitVec 10
  a   : BitVec 10
  imm : BitVec 25
  deriving DecidableEq, Repr

/-- Format FL (R28): D and a 35-bit immediate. -/
structure FL where
  d   : BitVec 10
  imm : BitVec 35
  deriving DecidableEq, Repr

/-- Format FB (R28): D, the field 34:25 that must be zero, and a word offset. -/
structure FB where
  d   : BitVec 10
  z   : BitVec 10
  off : BitVec 25
  deriving DecidableEq, Repr

/-- Format FM (R28, R35): D, A, B, the size SZ, V and OFF12. -/
structure FM where
  d   : BitVec 10
  a   : BitVec 10
  b   : BitVec 10
  sz  : BitVec 2
  v   : BitVec 1
  off : BitVec 12
  deriving DecidableEq, Repr

/-- Format FE (R28, R37): the produced token, three consumed tokens, a bound, X and CH. -/
structure FE where
  kp  : BitVec 6
  kc1 : BitVec 6
  kc2 : BitVec 6
  kc3 : BitVec 6
  bnd : BitVec 8
  x   : BitVec 10
  ch  : BitVec 3
  deriving DecidableEq, Repr

/-- Format FW (R28, R38): the predicate PD, ALL, WMASK, TIMEOUT, and the field 16:0 that must be zero. -/
structure FW where
  pd      : BitVec 3
  all     : BitVec 1
  wmask   : BitVec 4
  timeout : BitVec 20
  z       : BitVec 17
  deriving DecidableEq, Repr

/-- Format FS (R28, R35): D, A and NUM. -/
structure FS where
  d   : BitVec 10
  a   : BitVec 10
  num : BitVec 25
  deriving DecidableEq, Repr

/-- The four kinds of program counter of the device: a control core, the two processors of a core (R29), a courier
(R158). Dies and cores are logical (R21). -/
inductive Proc where
  | cc (die : Nat)
  | ap (die core : Nat)
  | xp (die core : Nat)
  | courier (die core : Nat)
  deriving DecidableEq, Repr

/-- A unit that holds results still to land (R102, R372): a control core or a core. -/
inductive Agent where
  | ctl (die : Nat)
  | core (die core : Nat)
  deriving DecidableEq, Repr

/-- A unit that is tested (R410, R428), by its physical name (R11): those with a suspicion score; and, which only the power-on self-test
covers, a bank of a pool (bank 64 + g is the parity bank of group g), a host port, a control pair. -/
inductive HwUnit where
  | plot (die core plot : Nat)
  | core (die core : Nat)
  | poolGroup (die grp : Nat)
  | pch (hub ch : Nat)
  | link (die hub : Nat)
  | fport (hub port : Nat)
  | bank (die bank : Nat)
  | hport (port : Nat)
  | pair (die : Nat)
  deriving DecidableEq, Repr

/-- What a read of a protected word finds (R408, R409). -/
inductive Finding where
  | clean
  | corrected
  | uncorrectable
  deriving DecidableEq, Repr

/-- How the stream of a checkpoint ends (R419, R427). -/
inductive CkptEnd where
  | complete
  | unreachable
  | writeFailed
  | portsLost
  deriving DecidableEq, Repr

/-- A frame of the Umanen Fabric Transport: the header of R386, its payload, the fabric port it came in on, and whether a switch put the
CE mark into its Traffic Class (R383). -/
structure Frame where
  epoch   : BitVec 16
  asid    : BitVec 8
  dst     : BitVec 12
  src     : BitVec 12
  type    : BitVec 8
  retry   : Bool
  ece     : Bool
  version : BitVec 4
  len     : BitVec 13
  opid    : BitVec 48
  aux     : BitVec 8
  va      : BitVec 56
  aux2    : BitVec 32
  psn     : BitVec 32
  payload : List Byte
  port    : Nat
  ce      : Bool
  deriving DecidableEq, Repr

/-- A message of the host (R399, and R424 for the boot-stage commands): the 32-byte header's fields, the data, the host port it came in on
(0 for hub0.hport, 1 for hub2.hport), whether it came to UDP port 19,803, and whether MACsec protects its frame (R398). -/
structure HostMsg where
  op     : BitVec 8
  status : BitVec 8
  tag    : BitVec 32
  asid   : BitVec 8
  addr   : BitVec 56
  len    : BitVec 13
  data   : List Byte
  port   : Nat
  boot   : Bool
  safe   : Bool
  deriving DecidableEq, Repr

/-- Why a word is not an instruction: the trap of the first check of R53 that fails. -/
inductive DecodeError where
  | illegalEng
  | illegalOp
  | reservedField
  deriving DecidableEq, Repr

/-- One whole step of the part: an instruction word of a core or of the courier, or one event or command of the table
of operations (spec/opcode_table.json), one constructor a row; the events stand first. -/
inductive Instr where
  /-- RESULT_LAND (R372): A register, predicate, mask or latch result lands at its issue cycle plus latency. -/
  | resultLand (u : Agent)
  /-- AQ_ENTRY_LAND (R137): A queue load's data lands, making the entry poppable and setting residency mask bits. -/
  | aqEntryLand (die core q id : Nat)
  /-- WAIT_REREAD (R378): A waiting memory condition is re-read every 64 cycles and may end the wait. -/
  | waitReread (p : Proc)
  /-- WAIT_TIMEOUT (R378): A WAIT reaches its timeout and ends with PD = 0. -/
  | waitTimeout (p : Proc)
  /-- TWAIT_TIMEOUT (R121): A TWAIT reaches its timeout and sets its predicate to 0. -/
  | twaitTimeout (die ctx : Nat)
  /-- CHECKER_MATCH (R103): The checker produces the matching outward action, which takes effect and captures a shadow. -/
  | checkerMatch (die : Nat) (same : Bool)
  /-- CONTEXT_QUANTUM_SWITCH (R96): A context reaching 65,536 instructions yields to another RUNNABLE context. -/
  | contextQuantumSwitch (die : Nat)
  /-- MONITOR_EVENT (R97): A host command, error record or launch completion enters monitor mode or is held. -/
  | monitorEvent (die code : Nat)
  /-- OVERLAP_CHECK_COMPLETE (R256): A record's scoreboard check completes, setting edges, renames and its next state. -/
  | overlapCheckComplete (die serial : Nat)
  /-- DISPATCH_PLACE (R264): Each cycle the dispatcher places the head of the ready order on an idle or soon-free core. -/
  | dispatchPlace (die : Nat)
  /-- GANG_FAIRNESS_TIMEOUT (R268): A gang ready for 2^20 cycles stops placement of lower-priority single tasks. -/
  | gangFairnessTimeout (die serial : Nat)
  /-- STEAL (R274): An idle die takes one shard of the busiest die's ready head. -/
  | steal (die : Nat)
  /-- PRELOAD_COMPLETE (R265): A preloaded task's descriptor, loop entry and text have been read. -/
  | preloadComplete (die serial shard : Nat)
  /-- SHADOW_FILL_COMPLETE (R242): The shadow copier finishes filling a task's shadow. -/
  | shadowFillComplete (die serial : Nat)
  /-- TASK_START (R260): A DISPATCHED task with preload and fills done starts RUNNING on its free core. -/
  | taskStart (die serial shard : Nat)
  /-- DISCARD_COMPLETE (R261): A discard completes 16 cycles after it starts, freeing the core and returning the task to READY. -/
  | discardComplete (die serial shard : Nat)
  /-- TASK_HALTED (R266): The halt lines of all shards raise the task to HALTED. -/
  | taskHalted (die serial : Nat)
  /-- COPY_BACK_START (R243): The copier starts writing a renamed region home once every renamed-against record is final. -/
  | copyBackStart (die serial : Nat)
  /-- COPY_BACK_COMPLETE (R246): A copy-back or home copy becomes visible at device scope and the completion record is written. -/
  | copyBackComplete (die serial : Nat)
  /-- TASK_RETIRE (R260): A task's completion record is visible, so it retires, releases edges, notifies and frees its entry. -/
  | taskRetire (die serial : Nat)
  /-- CANCEL_PROPAGATE (R275): A FAULTED or CANCELLED task cancels its dependants, gang and notify targets one cycle later. -/
  | cancelPropagate (die serial : Nat)
  /-- ENGINE_COMMAND_START (R150): A queued engine command at its queue head with tokens satisfied starts. -/
  | engineCommandStart (die core id : Nat)
  /-- ENGINE_UNIT_LAND (R153): A 256-byte unit lands, advancing the write pointer and decrementing a named barrier. -/
  | engineUnitLand (die core id : Nat)
  /-- ENGINE_COMMAND_COMPLETE (R150): An engine command completes and its producer leaves its token. -/
  | engineCommandComplete (die core id : Nat)
  /-- BOUND_OVERRUN (R206): A command incomplete at start plus bound traps BOUND_OVERRUN. -/
  | boundOverrun (die core id : Nat)
  /-- TRELLIS_COMMAND_START (R206): A queued trellis command at its head with tokens and start condition met starts. -/
  | trellisCommandStart (die core id : Nat)
  /-- WLOAD_COMPLETE (R209): A weight load completes with its checksum row sums formed. -/
  | wloadComplete (die core id : Nat)
  /-- STREAM_ROW_ENTER (R339): A stream row receives its last AB grant and enters the plots. -/
  | streamRowEnter (die core id : Nat)
  /-- STREAM_ROW_LAND (R216): An output row lands in CB, accumulating, setting flags and comparing checksums. -/
  | streamRowLand (die core id : Nat)
  /-- MVSTREAM_COLUMN_LAND (R215): A matrix-vector column's V results land in CB. -/
  | mvstreamColumnLand (die core id : Nat)
  /-- RELEASE_DRAIN_END (R204): A RELEASE's drain ends, discarding banks and freeing the plots. -/
  | releaseDrainEnd (die core claim : Nat)
  /-- PHASE_RESTART (R225): After reissued copies and bank reloads complete, both processors restart at the phase start. -/
  | phaseRestart (die core : Nat)
  /-- TLB_WALK_COMPLETE (R292): A page walk completes, installing a translation or trapping. -/
  | tlbWalkComplete (die core asid vint va : Nat)
  /-- SHOOTDOWN_COMPLETE (R295): Every pin of an old translation is released and the shootdown completes. -/
  | shootdownComplete (id : Nat)
  /-- CELL_READY (R303): A materialised cell is filled and its directory slot written, and waiting writes proceed. -/
  | cellReady (id : Nat)
  /-- CELL_WAIT_TIMEOUT (R305): A writer waiting for a free cell reaches the store timeout and gets VINTAGE_SPACE. -/
  | cellWaitTimeout (id : Nat)
  /-- VINTAGE_FREE (R306): A RETIRING vintage with no live records has its cells freed and becomes FREE. -/
  | vintageFree (asid vint : Nat)
  /-- FOLD_TASK_START (R307): A READY fold task starts copying the vintage's cells into the base. -/
  | foldTaskStart (die serial : Nat)
  /-- FOLD_TASK_RETIRE (R307): A fold task's copies are visible, so it retires and the vintage is freed. -/
  | foldTaskRetire (die serial : Nat)
  /-- PATROL_SCRUB (R409): The scrubber reads the next word, correcting it or poisoning it. -/
  | patrolScrub (pa : Nat) (found : Finding)
  /-- SCORE_HALVE (R410): Every suspicion score halves when CYCLE reaches a multiple of 2^30. -/
  | scoreHalve
  /-- TARGETED_TEST_START (R404): A withdrawn unit, once empty, starts its targeted test. -/
  | targetedTestStart (u : HwUnit)
  /-- TARGETED_TEST_END (R404): A targeted test ends, writing TESTREC and either returning or fencing the unit. -/
  | targetedTestEnd (u : HwUnit) (bad : Bool)
  /-- POWER_REPORT (R14): A power report updates the mean and sets or releases the dispatch hold. -/
  | powerReport (watts : Nat)
  /-- TEMPERATURE_SAMPLE (R430): A temperature sample sets or releases the dispatch hold or powers the module off. -/
  | temperatureSample (die10 inlet10 : Nat)
  /-- EVENT_RESEND (R400): An unacknowledged device-to-host event is sent again after 10,000 ticks. -/
  | eventResend (number : Nat)
  /-- UFT_PUT (R392): A PUT frame's bytes are checked and performed at the target. -/
  | uftPut (f : Frame)
  /-- UFT_END (R392): An END frame writes the flag as a release and answers once all bytes are visible. -/
  | uftEnd (f : Frame)
  /-- UFT_GET (R392): A GET frame reads bytes and answers with GETDATA. -/
  | uftGet (f : Frame)
  /-- UFT_GETDATA (R387): GETDATA bytes arrive and land at the requester. -/
  | uftGetdata (f : Frame)
  /-- UFT_AMO (R392): An AMO frame is performed once at the home, or answered from the answer table. -/
  | uftAmo (f : Frame)
  /-- UFT_POST (R252): A remote post arrives and is accepted into the window or letterbox or refused. -/
  | uftPost (f : Frame)
  /-- UFT_NOTIFY (R248): A remote notification arrives and lowers the target's PRED. -/
  | uftNotify (f : Frame)
  /-- UFT_CANCEL (R275): A remote cancel arrives and acts as CANCEL on the named task. -/
  | uftCancel (f : Frame)
  /-- UFT_MCAST (R379): A member checks and performs a multicast line and flag, then answers. -/
  | uftMcast (f : Frame)
  /-- UFT_RESULT (R392): A RESULT arrives and completes or traps the requesting operation. -/
  | uftResult (f : Frame)
  /-- UFT_ACK (R388): An ACK acknowledges frames, reports marks, holds or brings a route up. -/
  | uftAck (f : Frame)
  /-- UFT_RESET (R395): A RESET discards flow state, takes the route down and is answered by an ACK. -/
  | uftReset (f : Frame)
  /-- FRAME_DISCARD (R383): A frame of unknown type, address, PAUSE, PFC or without protection is discarded and counted. -/
  | frameDiscard (port : Nat)
  /-- ACK_TIMER (R388): The receiver sends an ACK within 2,400 cycles of an accepted frame. -/
  | ackTimer (peer : Nat)
  /-- RETRANSMIT_TIMEOUT (R389): An unacknowledged frame is resent on its schedule or, at the bound, takes the route down. -/
  | retransmitTimeout (peer psn : Nat)
  /-- RATE_INCREASE_TIMER (R391): Every 4,800 cycles without ECE the flow rate rises by 8 Gb/s. -/
  | rateIncreaseTimer (peer : Nat)
  /-- RESET_RESEND (R395): A device with a down route sends a RESET every 100,000 ticks. -/
  | resetResend (peer : Nat)
  /-- MCAST_RECEIPT_WRITE (R380): Once every member's result is known the sender writes the return receipt. -/
  | mcastReceiptWrite (op : Nat)
  /-- PORT_LINK_UP (R382): A port completes link training and comes into service. -/
  | portLinkUp (port : Nat)
  /-- PORT_LINK_DOWN (R385): A port loses its link and flows move to the next port. -/
  | portLinkDown (port : Nat)
  /-- MEMREAD (R399): Host reads bytes at a VA in vintage 0. -/
  | memread (m : HostMsg)
  /-- MEMWRITE (R399): Host writes bytes at a VA. -/
  | memwrite (m : HostMsg)
  /-- PMEMREAD (R399): Host reads bytes at a physical address. -/
  | pmemread (m : HostMsg)
  /-- PMEMWRITE (R399): Host writes bytes at a physical address. -/
  | pmemwrite (m : HostMsg)
  /-- LAUNCH (R52): Host submits a launch record, which is refused or started. -/
  | launch (m : HostMsg)
  /-- PTROOT (R399): Host sets the page-table root of an ASID. -/
  | ptroot (m : HostMsg)
  /-- INVAL (R399): Host shoots down a VA range, answered at completion. -/
  | inval (m : HostMsg)
  /-- MIGRATE (R299): Host migrates a page to the host. -/
  | migrate (m : HostMsg)
  /-- PAGEIN (R401): Host answers a FAULT with a frame or failure, and the pager merges and completes. -/
  | pagein (m : HostMsg)
  /-- SETID (R384): Host sets the device's domain index and prefix. -/
  | setid (m : HostMsg)
  /-- LISTSET (R396): Host writes a mailing-list entry. -/
  | listset (m : HostMsg)
  /-- AMOQUERY (R399): Host asks whether a remote atomic was performed. -/
  | amoquery (m : HostMsg)
  /-- EVENTACK (R400): Host acknowledges an event, stopping its resends. -/
  | eventack (m : HostMsg)
  /-- UCT_BAD_OP (R399): An unknown UCT OP is answered with STATUS 0x01 and no effect. -/
  | uctBadOp (m : HostMsg)
  /-- HELLO (R424): Boot-stage command returning identity key, boot state, SVNF and self-test summary. -/
  | hello (m : HostMsg)
  /-- KEYX (R424): Boot-stage key exchange returning a ciphertext and attestation report. -/
  | keyx (m : HostMsg)
  /-- BOOT (R424): Boot-stage command naming the image source to boot. -/
  | boot (m : HostMsg)
  /-- FWWRITE (R424): Boot-stage write of firmware bytes into a slot. -/
  | fwwrite (m : HostMsg)
  /-- OWNERSET (R424): Boot-stage write of a new owner area. -/
  | ownerset (m : HostMsg)
  /-- RESUME (R427): Restores a cellar image and resumes its launch. -/
  | resume (m : HostMsg)
  /-- POWER_ON (R421): Power arrives and the power-on sequence runs. -/
  | powerOn
  /-- BOOT_STEP_TIMEOUT (R421): A boot step exceeds its bound, ending the boot. -/
  | bootStepTimeout
  /-- HANDOFF_TIMEOUT (R425): One port has held keys for 1,000,000 ticks while the other has no link, so handoff occurs. -/
  | handoffTimeout
  /-- BOARD_RESET (R429): A write of CTRL bit 0 resets the module. -/
  | boardReset
  /-- BOARD_RECOV_REQUEST (R429): A write of CTRL bit 1 requests recovery boot at the next reset. -/
  | boardRecovRequest
  /-- CKPT_STREAM_START (R418): Once tasks are quiesced the device streams the image to the cellar. -/
  | ckptStreamStart
  /-- CKPT_STREAM_END (R418): The image stream ends, dispatch resumes and c[D] receives the result. -/
  | ckptStreamEnd (outcome : CkptEnd)
  /-- ENCODING_NOT_INSTRUCTION (R55): A program counter reaches a word with an illegal engine tag or an unassigned MAJOR or MINOR, which traps ILLEGAL_ENG or ILLEGAL_OP. -/
  | encodingNotInstruction (p : Proc) (why : DecodeError)
  /-- COURIER_ILLEGAL_WORD (R64): The courier meets a courier word with OPC 6 to 15 and stops, writing ILLEGAL_OP to its flag. -/
  | courierIllegalWord (w : BitVec 32)
  /-- WINDOW_RECORDS_COMMITTED (R223): The window records a waiting COMMIT, T + 24 unloaded or once the records it waits for are final, making the task COMMITTED. -/
  | windowRecordsCommitted (die serial shard : Nat)
  /-- WRITE_PERFORMED_AT_HOME (R312): A store, AMO or engine write is performed at its home, becoming visible at device scope, and may complete a waiting fence or materialise a cell. -/
  | writePerformedAtHome (id : Nat)
  /-- ANSWER_TABLE_EXPIRY (R392): An answer-table entry older than 100 ms and beyond the last 256 of its requester ages out, so AMOQUERY and a retry no longer find it. -/
  | answerTableExpiry (peer opid : Nat)
  /-- POWER_LOSS (R424): The module's supply is lost, for example during a firmware update, and all state is lost. -/
  | powerLoss
  /-- CC_ADD (R106): Control core writes A + B modulo 2^64 to D. -/
  | ccAdd (h : Hdr) (f : F3)
  /-- CC_SUB (R106): Control core writes A − B modulo 2^64 to D. -/
  | ccSub (h : Hdr) (f : F3)
  /-- CC_AND (R106): Control core writes the bitwise AND of A and B to D. -/
  | ccAnd (h : Hdr) (f : F3)
  /-- CC_OR (R106): Control core writes the bitwise OR of A and B to D. -/
  | ccOr (h : Hdr) (f : F3)
  /-- CC_XOR (R106): Control core writes the bitwise XOR of A and B to D. -/
  | ccXor (h : Hdr) (f : F3)
  /-- CC_SHL (R106): Control core shifts A left by B[5:0]. -/
  | ccShl (h : Hdr) (f : F3)
  /-- CC_SHR (R106): Control core shifts A right with zero fill by B[5:0]. -/
  | ccShr (h : Hdr) (f : F3)
  /-- CC_SAR (R106): Control core shifts A right with sign fill by B[5:0]. -/
  | ccSar (h : Hdr) (f : F3)
  /-- CC_MUL (R106): Control core writes the low 64 bits of A·B, landing after 3 cycles. -/
  | ccMul (h : Hdr) (f : F3)
  /-- CC_MULH (R106): Control core writes bits 127:64 of the signed product. -/
  | ccMulh (h : Hdr) (f : F3)
  /-- CC_DIV (R106): Control core signed division with the non-trapping Divide rules. -/
  | ccDiv (h : Hdr) (f : F3)
  /-- CC_DIVU (R106): Control core unsigned division with the non-trapping Divide rules. -/
  | ccDivu (h : Hdr) (f : F3)
  /-- CC_REM (R106): Control core signed remainder with the dividend's sign. -/
  | ccRem (h : Hdr) (f : F3)
  /-- CC_REMU (R106): Control core unsigned remainder. -/
  | ccRemu (h : Hdr) (f : F3)
  /-- CC_MIN (R106): Control core signed minimum. -/
  | ccMin (h : Hdr) (f : F3)
  /-- CC_MAX (R106): Control core signed maximum. -/
  | ccMax (h : Hdr) (f : F3)
  /-- CC_MINU (R106): Control core unsigned minimum. -/
  | ccMinu (h : Hdr) (f : F3)
  /-- CC_MAXU (R106): Control core unsigned maximum. -/
  | ccMaxu (h : Hdr) (f : F3)
  /-- CC_SEL (R106): Control core writes A if p[C] is 1, else B. -/
  | ccSel (h : Hdr) (f : F3)
  /-- CC_ADDI (R107): Control core adds the sign-extended IMM25 to A. -/
  | ccAddi (h : Hdr) (f : FI)
  /-- CC_ANDI (R107): Control core ANDs A with the zero-extended IMM25. -/
  | ccAndi (h : Hdr) (f : FI)
  /-- CC_ORI (R107): Control core ORs A with the zero-extended IMM25. -/
  | ccOri (h : Hdr) (f : FI)
  /-- CC_XORI (R107): Control core XORs A with the zero-extended IMM25. -/
  | ccXori (h : Hdr) (f : FI)
  /-- CC_SHLI (R107): Control core shifts A left by IMM25[5:0]. -/
  | ccShli (h : Hdr) (f : FI)
  /-- CC_SHRI (R107): Control core shifts A right with zero fill by IMM25[5:0]. -/
  | ccShri (h : Hdr) (f : FI)
  /-- CC_SARI (R107): Control core shifts A right with sign fill by IMM25[5:0]. -/
  | ccSari (h : Hdr) (f : FI)
  /-- CC_MULI (R107): Control core multiplies A by the sign-extended IMM25. -/
  | ccMuli (h : Hdr) (f : FI)
  /-- CC_LUI (R107): Control core writes SExt(IMM25) << 25. -/
  | ccLui (h : Hdr) (f : FI)
  /-- CC_CMP_EQ (R108): Control core sets p[D] when A equals B. -/
  | ccCmpEq (h : Hdr) (f : F3)
  /-- CC_CMP_NE (R108): Control core sets p[D] when A differs from B. -/
  | ccCmpNe (h : Hdr) (f : F3)
  /-- CC_CMP_LT (R108): Control core sets p[D] when A < B signed. -/
  | ccCmpLt (h : Hdr) (f : F3)
  /-- CC_CMP_LE (R108): Control core sets p[D] when A ≤ B signed. -/
  | ccCmpLe (h : Hdr) (f : F3)
  /-- CC_CMP_LTU (R108): Control core sets p[D] when A < B unsigned. -/
  | ccCmpLtu (h : Hdr) (f : F3)
  /-- CC_CMP_LEU (R108): Control core sets p[D] when A ≤ B unsigned. -/
  | ccCmpLeu (h : Hdr) (f : F3)
  /-- CC_CMPI_EQ (R108): Control core sets p[D] when A equals SExt(IMM25). -/
  | ccCmpiEq (h : Hdr) (f : FI)
  /-- CC_CMPI_NE (R108): Control core sets p[D] when A differs from SExt(IMM25). -/
  | ccCmpiNe (h : Hdr) (f : FI)
  /-- CC_CMPI_LT (R108): Control core sets p[D] when A < SExt(IMM25) signed. -/
  | ccCmpiLt (h : Hdr) (f : FI)
  /-- CC_CMPI_LE (R108): Control core sets p[D] when A ≤ SExt(IMM25) signed. -/
  | ccCmpiLe (h : Hdr) (f : FI)
  /-- CC_CMPI_LTU (R108): Control core sets p[D] when A < SExt(IMM25) unsigned. -/
  | ccCmpiLtu (h : Hdr) (f : FI)
  /-- CC_CMPI_LEU (R108): Control core sets p[D] when A ≤ SExt(IMM25) unsigned. -/
  | ccCmpiLeu (h : Hdr) (f : FI)
  /-- CC_PAND (R108): Control core writes p[A] AND p[B] to p[D]. -/
  | ccPand (h : Hdr) (f : F3)
  /-- CC_POR (R108): Control core writes p[A] OR p[B] to p[D]. -/
  | ccPor (h : Hdr) (f : F3)
  /-- CC_PXOR (R108): Control core writes p[A] XOR p[B] to p[D]. -/
  | ccPxor (h : Hdr) (f : F3)
  /-- CC_PNOT (R108): Control core writes the complement of p[A] to p[D]. -/
  | ccPnot (h : Hdr) (f : F3)
  /-- CC_BR (R109): Control core branches PC-relative when the predicate holds. -/
  | ccBr (h : Hdr) (f : FB)
  /-- CC_JMP (R109): Control core jumps PC-relative unconditionally. -/
  | ccJmp (h : Hdr) (f : FB)
  /-- CC_JMPR (R109): Control core jumps to the address in c[D]. -/
  | ccJmpr (h : Hdr) (f : FB)
  /-- CC_CALL (R109): Control core calls PC-relative, linking PC + 8 into c31. -/
  | ccCall (h : Hdr) (f : FB)
  /-- CC_CALLR (R109): Control core calls the address in c[D], linking into c31. -/
  | ccCallr (h : Hdr) (f : FB)
  /-- CC_RET (R109): Control core returns to the address in c31. -/
  | ccRet (h : Hdr) (f : FB)
  /-- CC_LD (R110): Control core loads and zero-extends a value in vintage 0, blocking until it lands. -/
  | ccLd (h : Hdr) (f : FM)
  /-- CC_LDS (R110): Control core loads and sign-extends a value in vintage 0. -/
  | ccLds (h : Hdr) (f : FM)
  /-- CC_ST (R110): Control core stores a value, taking effect at the checker match. -/
  | ccSt (h : Hdr) (f : FM)
  /-- CC_LDA (R110): Control core load with acquire at device scope. -/
  | ccLda (h : Hdr) (f : FM)
  /-- CC_STL (R110): Control core store with release at device scope. -/
  | ccStl (h : Hdr) (f : FM)
  /-- CC_AMO_ADD (R112): Control core atomic add at the home, returning the old value. -/
  | ccAmoAdd (h : Hdr) (f : FM)
  /-- CC_AMO_AND (R112): Control core atomic AND at the home. -/
  | ccAmoAnd (h : Hdr) (f : FM)
  /-- CC_AMO_OR (R112): Control core atomic OR at the home. -/
  | ccAmoOr (h : Hdr) (f : FM)
  /-- CC_AMO_XOR (R112): Control core atomic XOR at the home. -/
  | ccAmoXor (h : Hdr) (f : FM)
  /-- CC_AMO_MIN (R112): Control core atomic signed minimum. -/
  | ccAmoMin (h : Hdr) (f : FM)
  /-- CC_AMO_MAX (R112): Control core atomic signed maximum. -/
  | ccAmoMax (h : Hdr) (f : FM)
  /-- CC_AMO_MINU (R112): Control core atomic unsigned minimum. -/
  | ccAmoMinu (h : Hdr) (f : FM)
  /-- CC_AMO_MAXU (R112): Control core atomic unsigned maximum. -/
  | ccAmoMaxu (h : Hdr) (f : FM)
  /-- CC_AMO_SWAP (R112): Control core atomic swap. -/
  | ccAmoSwap (h : Hdr) (f : FM)
  /-- CC_AMO_CAS (R112): Control core atomic compare-and-swap against c[D]. -/
  | ccAmoCas (h : Hdr) (f : FM)
  /-- CC_FENCE_CORE (R113): Control core waits for the checker to match every earlier outward action. -/
  | ccFenceCore (h : Hdr) (f : FS)
  /-- CC_FENCE_DIE (R113): Control core waits until earlier stores and AMOs are visible at die scope. -/
  | ccFenceDie (h : Hdr) (f : FS)
  /-- CC_FENCE_DEV (R113): Control core waits until earlier stores and AMOs are visible at device scope. -/
  | ccFenceDev (h : Hdr) (f : FS)
  /-- CC_FENCE_DOM (R113): Control core waits until earlier stores and AMOs are visible at domain scope. -/
  | ccFenceDom (h : Hdr) (f : FS)
  /-- POST (R115): Reads, checks and posts one task record into the die's window, stalling while it is full. -/
  | post (h : Hdr) (f : FS)
  /-- POST_NB (R114): Posts one task record, or reports a full window without stalling. -/
  | postNb (h : Hdr) (f : FS)
  /-- POST_G (R114): Posts two to four gang records together with consecutive serials. -/
  | postG (h : Hdr) (f : FS)
  /-- RPOST (R119): Posts a record to another device's or die's window and blocks for the answer. -/
  | rpost (h : Hdr) (f : FS)
  /-- CANCEL (R120): Cancels a task by serial in a local or remote window and returns a code. -/
  | cancel (h : Hdr) (f : FS)
  /-- TWAIT (R121): Waits until a serial of the own window reaches a final state, with an optional timeout. -/
  | twait (h : Hdr) (f : FS)
  /-- WINCFG_DISPATCH_HOLD (R117): Monitor holds or releases the dispatch of READY tasks on the die. -/
  | wincfgDispatchHold (h : Hdr) (f : FS)
  /-- WINCFG_LETTERBOX_ACCEPT (R117): Monitor enables or disables acceptance of remote posts into the letterbox. -/
  | wincfgLetterboxAccept (h : Hdr) (f : FS)
  /-- WINCFG_PRIORITY_CEILING (R117): Sets the priority ceiling of a graph context. -/
  | wincfgPriorityCeiling (h : Hdr) (f : FS)
  /-- WINQ_LIVE_ENTRIES (R118): Returns the number of live window entries. -/
  | winqLiveEntries (h : Hdr) (f : FS)
  /-- WINQ_FREE_ENTRIES (R118): Returns the number of free window entries. -/
  | winqFreeEntries (h : Hdr) (f : FS)
  /-- WINQ_LETTERBOX (R118): Returns the letterbox occupancy. -/
  | winqLetterbox (h : Hdr) (f : FS)
  /-- WINQ_NEXT_SERIAL (R118): Returns the serial the next accepted post receives. -/
  | winqNextSerial (h : Hdr) (f : FS)
  /-- WINQ_LOWEST_LIVE (R118): Returns the lowest live serial of a posted record. -/
  | winqLowestLive (h : Hdr) (f : FS)
  /-- WINQ_FREE_RENAME (R118): Returns the free rename area in 4 KiB units. -/
  | winqFreeRename (h : Hdr) (f : FS)
  /-- WINQ_TASK_STATE (R118): Returns the state code of the task with a given serial. -/
  | winqTaskState (h : Hdr) (f : FS)
  /-- VALLOC (R123): Allocates the lowest FREE vintage, stalling while none is available under VLIM. -/
  | valloc (h : Hdr) (f : FS)
  /-- VALLOC_NB (R123): Allocates a vintage if one is available, else reports failure without stalling. -/
  | vallocNb (h : Hdr) (f : FS)
  /-- VRET (R123): Makes a vintage RETIRING until no live record names it. -/
  | vret (h : Hdr) (f : FS)
  /-- VFOLD (R307): Posts a fold task that copies a vintage's cells into the base and makes the vintage FOLDING. -/
  | vfold (h : Hdr) (f : FS)
  /-- VQUERY_STATE (R123): Returns a vintage's state and materialised cell count. -/
  | vqueryState (h : Hdr) (f : FS)
  /-- VQUERY_AVAILABLE (R123): Returns the number of vintages VALLOC could take now. -/
  | vqueryAvailable (h : Hdr) (f : FS)
  /-- CC_WAIT_ANY (R125): Context waits until any selected w-condition holds or the timeout passes. -/
  | ccWaitAny (h : Hdr) (f : FW)
  /-- CC_WAIT_ALL (R125): Context waits until all selected w-conditions hold at one re-read or the timeout passes. -/
  | ccWaitAll (h : Hdr) (f : FW)
  /-- TRAP (R97): Enters monitor mode with cause 0x00 and EINFO = N. -/
  | trap (h : Hdr) (f : FS)
  /-- ERET (R98): Returns from monitor mode to the interrupted mode and context, taking any held event first. -/
  | eret (h : Hdr) (f : FS)
  /-- SYSR (R99): Reads a system register into c[D]. -/
  | sysr (h : Hdr) (f : FS)
  /-- SYSW (R99): Writes a system register without behaviour of its own, as an outward action. -/
  | sysw (h : Hdr) (f : FS)
  /-- SYSW_VLIM (R99): Sets the number of vintages allocatable at once, stalling VALLOC if below current use. -/
  | syswVlim (h : Hdr) (f : FS)
  /-- SYSW_CTXST (R98): Monitor sets graph-context states, such as marking a context DONE. -/
  | syswCtxst (h : Hdr) (f : FS)
  /-- SYSR_CHKCNT (R99): Reads and clears the count of checker mismatches. -/
  | sysrChkcnt (h : Hdr) (f : FS)
  /-- SYSW_INJ (R403): Arms or disarms a checksum-mismatch injection on a plot. -/
  | syswInj (h : Hdr) (f : FS)
  /-- SYSW_INJMEM (R416): Arms an injected corrected, uncorrectable or poison error on the next read of a structure. -/
  | syswInjmem (h : Hdr) (f : FS)
  /-- CC_HALT (R126): In graph mode makes the context DONE; in monitor mode idles until a monitor event. -/
  | ccHalt (h : Hdr) (f : FS)
  /-- NOP (R126): Does nothing for one cycle. -/
  | nop (h : Hdr) (f : FS)
  /-- CTXSW (R96): Yields the control core to the next RUNNABLE graph context. -/
  | ctxsw (h : Hdr) (f : FS)
  /-- CKPT (R418): Starts or joins a checkpoint that quiesces the device and streams it to the cellar. -/
  | ckpt (h : Hdr) (f : FS)
  /-- AP_ADD (R132): AP adds two registers modulo 2^64. -/
  | apAdd (h : Hdr) (f : F3)
  /-- AP_SUB (R132): AP subtracts two registers modulo 2^64. -/
  | apSub (h : Hdr) (f : F3)
  /-- AP_AND (R132): AP bitwise AND. -/
  | apAnd (h : Hdr) (f : F3)
  /-- AP_OR (R132): AP bitwise OR. -/
  | apOr (h : Hdr) (f : F3)
  /-- AP_XOR (R132): AP bitwise XOR. -/
  | apXor (h : Hdr) (f : F3)
  /-- AP_SHL (R132): AP shift left by B[5:0]. -/
  | apShl (h : Hdr) (f : F3)
  /-- AP_SHR (R132): AP shift right with zero fill by B[5:0]. -/
  | apShr (h : Hdr) (f : F3)
  /-- AP_MUL (R132): AP low 64 bits of A·B, landing after 3 cycles. -/
  | apMul (h : Hdr) (f : F3)
  /-- AP_MADD (R132): AP low 64 bits of A·B + C. -/
  | apMadd (h : Hdr) (f : F3)
  /-- AP_MIN (R132): AP signed minimum. -/
  | apMin (h : Hdr) (f : F3)
  /-- AP_MAX (R132): AP signed maximum. -/
  | apMax (h : Hdr) (f : F3)
  /-- AP_SEL (R132): AP selects A if p[C] is 1, else B. -/
  | apSel (h : Hdr) (f : F3)
  /-- AP_ADDI (R132): AP adds SExt(IMM25). -/
  | apAddi (h : Hdr) (f : FI)
  /-- AP_ANDI (R132): AP ANDs with ZExt(IMM25). -/
  | apAndi (h : Hdr) (f : FI)
  /-- AP_ORI (R132): AP ORs with ZExt(IMM25). -/
  | apOri (h : Hdr) (f : FI)
  /-- AP_SHLI (R132): AP shifts left by IMM25[5:0]. -/
  | apShli (h : Hdr) (f : FI)
  /-- AP_SHRI (R132): AP shifts right with zero fill by IMM25[5:0]. -/
  | apShri (h : Hdr) (f : FI)
  /-- AP_MULI (R132): AP multiplies by SExt(IMM25). -/
  | apMuli (h : Hdr) (f : FI)
  /-- AP_LUI (R132): AP writes SExt(IMM25) << 25. -/
  | apLui (h : Hdr) (f : FI)
  /-- AP_CMP_EQ (R133): AP sets p[D] when A equals B. -/
  | apCmpEq (h : Hdr) (f : F3)
  /-- AP_CMP_NE (R133): AP sets p[D] when A differs from B. -/
  | apCmpNe (h : Hdr) (f : F3)
  /-- AP_CMP_LT (R133): AP sets p[D] when A < B signed. -/
  | apCmpLt (h : Hdr) (f : F3)
  /-- AP_CMP_LE (R133): AP sets p[D] when A ≤ B signed. -/
  | apCmpLe (h : Hdr) (f : F3)
  /-- AP_CMP_LTU (R133): AP sets p[D] when A < B unsigned. -/
  | apCmpLtu (h : Hdr) (f : F3)
  /-- AP_CMP_LEU (R133): AP sets p[D] when A ≤ B unsigned. -/
  | apCmpLeu (h : Hdr) (f : F3)
  /-- AP_CMPI_EQ (R133): AP sets p[D] when A equals SExt(IMM25). -/
  | apCmpiEq (h : Hdr) (f : FI)
  /-- AP_CMPI_NE (R133): AP sets p[D] when A differs from SExt(IMM25). -/
  | apCmpiNe (h : Hdr) (f : FI)
  /-- AP_CMPI_LT (R133): AP sets p[D] when A < SExt(IMM25) signed. -/
  | apCmpiLt (h : Hdr) (f : FI)
  /-- AP_CMPI_LE (R133): AP sets p[D] when A ≤ SExt(IMM25) signed. -/
  | apCmpiLe (h : Hdr) (f : FI)
  /-- AP_CMPI_LTU (R133): AP sets p[D] when A < SExt(IMM25) unsigned. -/
  | apCmpiLtu (h : Hdr) (f : FI)
  /-- AP_CMPI_LEU (R133): AP sets p[D] when A ≤ SExt(IMM25) unsigned. -/
  | apCmpiLeu (h : Hdr) (f : FI)
  /-- AP_PAND (R133): AP predicate AND. -/
  | apPand (h : Hdr) (f : F3)
  /-- AP_POR (R133): AP predicate OR. -/
  | apPor (h : Hdr) (f : F3)
  /-- AP_PNOT (R133): AP predicate complement. -/
  | apPnot (h : Hdr) (f : F3)
  /-- AP_BR (R134): AP branches when its predicate holds. -/
  | apBr (h : Hdr) (f : FB)
  /-- AP_JMP (R134): AP jumps unconditionally. -/
  | apJmp (h : Hdr) (f : FB)
  /-- BRQ (R134): AP pushes its condition bit into bq and branches when it is 1, stalling while bq is full. -/
  | brq (h : Hdr) (f : FB)
  /-- LDQ (R136): Reserves an aq entry and loads 256 bytes, raw or decoded, into it. -/
  | ldq (h : Hdr) (f : FM)
  /-- LDQ_V (R135): Queue load from a named vintage. -/
  | ldqV (h : Hdr) (f : FM)
  /-- GATHQ (R138): Pops an xq index entry and gathers elements into a new aq entry. -/
  | gathq (h : Hdr) (f : FM)
  /-- AP_LDS (R135): AP loads and sign-extends a value into a register. -/
  | apLds (h : Hdr) (f : FM)
  /-- AP_LDS_V (R135): AP scalar load from a named vintage. -/
  | apLdsV (h : Hdr) (f : FM)
  /-- STS (R139): AP stores a register value to memory. -/
  | sts (h : Hdr) (f : FM)
  /-- STQ (R139): Pops an xq entry and stores its 256 bytes, encoding block-scaled pages. -/
  | stq (h : Hdr) (f : FM)
  /-- STQ_M (R139): Pops an xq entry and stores only its masked bytes at any byte address. -/
  | stqM (h : Hdr) (f : FM)
  /-- SCATQ (R140): Pops data and index entries and scatters the masked elements. -/
  | scatq (h : Hdr) (f : FM)
  /-- MTEST (R141): Tests an element mask into a predicate, optionally clearing it. -/
  | mtest (h : Hdr) (f : FS)
  /-- PGREQ (R141): Requests residency of a page, stalling when 16 requests are in flight. -/
  | pgreq (h : Hdr) (f : FS)
  /-- PGQUERY (R141): Returns the residency state code of a page. -/
  | pgquery (h : Hdr) (f : FS)
  /-- AP_AMO_ADD (R142): AP atomic add, after COMMIT only. -/
  | apAmoAdd (h : Hdr) (f : FM)
  /-- AP_AMO_AND (R142): AP atomic AND. -/
  | apAmoAnd (h : Hdr) (f : FM)
  /-- AP_AMO_OR (R142): AP atomic OR. -/
  | apAmoOr (h : Hdr) (f : FM)
  /-- AP_AMO_XOR (R142): AP atomic XOR. -/
  | apAmoXor (h : Hdr) (f : FM)
  /-- AP_AMO_MIN (R142): AP atomic signed minimum. -/
  | apAmoMin (h : Hdr) (f : FM)
  /-- AP_AMO_MAX (R142): AP atomic signed maximum. -/
  | apAmoMax (h : Hdr) (f : FM)
  /-- AP_AMO_MINU (R142): AP atomic unsigned minimum. -/
  | apAmoMinu (h : Hdr) (f : FM)
  /-- AP_AMO_MAXU (R142): AP atomic unsigned maximum. -/
  | apAmoMaxu (h : Hdr) (f : FM)
  /-- AP_AMO_SWAP (R142): AP atomic swap. -/
  | apAmoSwap (h : Hdr) (f : FM)
  /-- AP_AMO_CAS (R142): AP atomic compare-and-swap against a[D]. -/
  | apAmoCas (h : Hdr) (f : FM)
  /-- FADD (R142): AP atomic floating-point add, trapping NONDETERMINISTIC under strict rules. -/
  | fadd (h : Hdr) (f : FM)
  /-- AP_LDA (R143): AP load with acquire at device scope, holding the AP until it lands. -/
  | apLda (h : Hdr) (f : FM)
  /-- AP_STL (R143): AP store with release at device scope. -/
  | apStl (h : Hdr) (f : FM)
  /-- AP_FENCE_CORE (R143): AP waits until earlier AP accesses are visible to the core's engines. -/
  | apFenceCore (h : Hdr) (f : FS)
  /-- AP_FENCE_DIE (R143): AP waits until earlier AP accesses are visible at die scope. -/
  | apFenceDie (h : Hdr) (f : FS)
  /-- AP_FENCE_DEV (R143): AP waits until earlier AP accesses are visible at device scope. -/
  | apFenceDev (h : Hdr) (f : FS)
  /-- AP_FENCE_DOM (R143): AP waits until earlier AP accesses are visible at domain scope. -/
  | apFenceDom (h : Hdr) (f : FS)
  /-- BARINIT (R145): Initialises a barrier object's phase, counts and expected bytes. -/
  | barinit (h : Hdr) (f : FM)
  /-- BAREXP (R145): Adds an expected byte count to a barrier's PENDING. -/
  | barexp (h : Hdr) (f : FM)
  /-- BARARR (R145): Arrives at a barrier as a release, possibly completing its phase. -/
  | bararr (h : Hdr) (f : FM)
  /-- BARQ (R145): Reads a barrier's word 0 as an acquire. -/
  | barq (h : Hdr) (f : FM)
  /-- SEAL (R147): Sets the seal bit on a page range and waits for the shootdown. -/
  | seal (h : Hdr) (f : FS)
  /-- UNSEAL (R147): Invalidates replicas and clears the seal bit on a page range. -/
  | unseal (h : Hdr) (f : FS)
  /-- AP_WAIT_ANY (R148): AP waits for any selected condition or the timeout. -/
  | apWaitAny (h : Hdr) (f : FW)
  /-- AP_WAIT_ALL (R148): AP waits for all selected conditions or the timeout. -/
  | apWaitAll (h : Hdr) (f : FW)
  /-- WPRD (R148): Reads a channel's write pointer into an a-register. -/
  | wprd (h : Hdr) (f : FS)
  /-- TKCLR (R149): Makes a token satisfied at once. -/
  | tkclr (h : Hdr) (f : FS)
  /-- TKTEST (R149): Sets a predicate from a token's state. -/
  | tktest (h : Hdr) (f : FS)
  /-- EC_COPY (R153): Queues a strided copy, converting between formats, on a copy channel. -/
  | ecCopy (h : Hdr) (f : FE)
  /-- EC_COPY_V (R153): Queues a copy that reads a named source vintage. -/
  | ecCopyV (h : Hdr) (f : FE)
  /-- EC_FILL (R153): Queues a fill of a destination with an 8-byte pattern. -/
  | ecFill (h : Hdr) (f : FE)
  /-- GATHER (R155): Queues a gather of table rows by an index list into a buffer. -/
  | gather (h : Hdr) (f : FE)
  /-- SCATTER (R155): Queues a scatter of buffer rows into table rows by an index list. -/
  | scatter (h : Hdr) (f : FE)
  /-- CSTREAM (R156): Queues a stream of rows into an aq or a claim's weight-stream port. -/
  | cstream (h : Hdr) (f : FE)
  /-- ROUTE (R360): Queues a routing pass that selects experts, applies capacity and writes slot maps. -/
  | route (h : Hdr) (f : FE)
  /-- RCSNAP (R364): Queues a write of the routing counters followed by their clear. -/
  | rcsnap (h : Hdr) (f : FE)
  /-- RCREAD (R362): Queues a write of the routing counters without clearing them. -/
  | rcread (h : Hdr) (f : FE)
  /-- COURIER (R158): Queues a courier program run over the copy channels. -/
  | courier (h : Hdr) (f : FE)
  /-- SPAWN (R160): Queues the capture of a child task record after COMMIT. -/
  | spawn (h : Hdr) (f : FE)
  /-- RPUT (R161): Queues a remote put of bytes and a flag to another device. -/
  | rput (h : Hdr) (f : FE)
  /-- RGET (R161): Queues a remote get of bytes from another device. -/
  | rget (h : Hdr) (f : FE)
  /-- RAMO (R161): Queues a remote atomic performed exactly once at the target. -/
  | ramo (h : Hdr) (f : FE)
  /-- MCAST (R161): Queues a multicast of a line to a mailing list with a return receipt. -/
  | mcast (h : Hdr) (f : FE)
  /-- CW_COPY (R158): Courier issues a COPY from a descriptor, offset by OFS. -/
  | cwCopy (c : BitVec 4) (n : BitVec 24)
  /-- CW_WAIT (R158): Courier waits until a channel's write pointer passes a threshold. -/
  | cwWait (c : BitVec 4) (n : BitVec 24)
  /-- CW_FLAG (R158): Courier writes its flag with STATE 1 and a value. -/
  | cwFlag (v : BitVec 24)
  /-- CW_LOOP (R158): Courier counts a loop and branches back while the count is non-zero. -/
  | cwLoop (cnt back : BitVec 12)
  /-- CW_ADD (R158): Courier adds 64·SExt(d) to its offset register. -/
  | cwAdd (d : BitVec 24)
  /-- CW_END (R158): Courier waits for its copies, writes the flag with STATE 2 and stops. -/
  | cwEnd
  /-- XP_ADD (R167): XP scalar add. -/
  | xpAdd (h : Hdr) (f : F3)
  /-- XP_SUB (R167): XP scalar subtract. -/
  | xpSub (h : Hdr) (f : F3)
  /-- XP_MUL (R167): XP scalar multiply, landing after 3 cycles. -/
  | xpMul (h : Hdr) (f : F3)
  /-- XP_AND (R167): XP scalar AND. -/
  | xpAnd (h : Hdr) (f : F3)
  /-- XP_OR (R167): XP scalar OR. -/
  | xpOr (h : Hdr) (f : F3)
  /-- XP_XOR (R167): XP scalar XOR. -/
  | xpXor (h : Hdr) (f : F3)
  /-- XP_SHL (R167): XP scalar shift left. -/
  | xpShl (h : Hdr) (f : F3)
  /-- XP_SHR (R167): XP scalar shift right with zero fill. -/
  | xpShr (h : Hdr) (f : F3)
  /-- XP_SEL (R167): XP scalar select by predicate. -/
  | xpSel (h : Hdr) (f : F3)
  /-- XP_ADDI (R167): XP scalar add of SExt(IMM25). -/
  | xpAddi (h : Hdr) (f : FI)
  /-- XP_MOVI (R167): XP writes SExt(IMM25) to a scalar. -/
  | xpMovi (h : Hdr) (f : FI)
  /-- XP_SHLI (R167): XP scalar shift left by IMM25[5:0]. -/
  | xpShli (h : Hdr) (f : FI)
  /-- XP_CMP_EQ (R168): XP sets p[D] when scalars are equal. -/
  | xpCmpEq (h : Hdr) (f : F3)
  /-- XP_CMP_NE (R168): XP sets p[D] when scalars differ. -/
  | xpCmpNe (h : Hdr) (f : F3)
  /-- XP_CMP_LT (R168): XP signed less-than compare. -/
  | xpCmpLt (h : Hdr) (f : F3)
  /-- XP_CMP_LE (R168): XP signed less-or-equal compare. -/
  | xpCmpLe (h : Hdr) (f : F3)
  /-- XP_CMP_LTU (R168): XP unsigned less-than compare. -/
  | xpCmpLtu (h : Hdr) (f : F3)
  /-- XP_CMP_LEU (R168): XP unsigned less-or-equal compare. -/
  | xpCmpLeu (h : Hdr) (f : F3)
  /-- XP_PAND (R168): XP predicate AND. -/
  | xpPand (h : Hdr) (f : F3)
  /-- XP_POR (R168): XP predicate OR. -/
  | xpPor (h : Hdr) (f : F3)
  /-- XP_PNOT (R168): XP predicate complement. -/
  | xpPnot (h : Hdr) (f : F3)
  /-- XP_BR (R169): XP branches when its predicate holds. -/
  | xpBr (h : Hdr) (f : FB)
  /-- XP_JMP (R169): XP jumps unconditionally. -/
  | xpJmp (h : Hdr) (f : FB)
  /-- BRB (R169): XP pops a bq bit and branches when it and the predicate are 1. -/
  | brb (h : Hdr) (f : FB)
  /-- VADD (R170): Vector integer add under an integer rounding mode. -/
  | vadd (h : Hdr) (f : F3)
  /-- VSUB (R170): Vector integer subtract. -/
  | vsub (h : Hdr) (f : F3)
  /-- VMUL (R170): Vector integer multiply. -/
  | vmul (h : Hdr) (f : F3)
  /-- VMULH (R170): Vector high half of the signed product. -/
  | vmulh (h : Hdr) (f : F3)
  /-- VMIN (R170): Vector signed minimum. -/
  | vmin (h : Hdr) (f : F3)
  /-- VMAX (R170): Vector signed maximum. -/
  | vmax (h : Hdr) (f : F3)
  /-- VMINU (R170): Vector unsigned minimum. -/
  | vminu (h : Hdr) (f : F3)
  /-- VMAXU (R170): Vector unsigned maximum. -/
  | vmaxu (h : Hdr) (f : F3)
  /-- VAND (R170): Vector bitwise AND. -/
  | vand (h : Hdr) (f : F3)
  /-- VOR (R170): Vector bitwise OR. -/
  | vor (h : Hdr) (f : F3)
  /-- VXOR (R170): Vector bitwise XOR. -/
  | vxor (h : Hdr) (f : F3)
  /-- VABSD (R170): Vector absolute difference. -/
  | vabsd (h : Hdr) (f : F3)
  /-- VSHL (R171): Vector shift left under an integer rounding mode. -/
  | vshl (h : Hdr) (f : F3)
  /-- VSHR (R171): Vector logical shift right. -/
  | vshr (h : Hdr) (f : F3)
  /-- VSAR (R171): Vector arithmetic shift right. -/
  | vsar (h : Hdr) (f : F3)
  /-- VFSHL (R171): Vector funnel shift left. -/
  | vfshl (h : Hdr) (f : F3)
  /-- VFSHR (R171): Vector funnel shift right. -/
  | vfshr (h : Hdr) (f : F3)
  /-- VCLZ (R171): Vector count of leading zeros. -/
  | vclz (h : Hdr) (f : F3)
  /-- VPOPC (R171): Vector population count. -/
  | vpopc (h : Hdr) (f : F3)
  /-- VCMP_EQ (R172): Vector equal compare into a byte mask. -/
  | vcmpEq (h : Hdr) (f : F3)
  /-- VCMP_NE (R172): Vector not-equal compare into a byte mask. -/
  | vcmpNe (h : Hdr) (f : F3)
  /-- VCMP_LT (R172): Vector less-than compare. -/
  | vcmpLt (h : Hdr) (f : F3)
  /-- VCMP_LE (R172): Vector less-or-equal compare. -/
  | vcmpLe (h : Hdr) (f : F3)
  /-- VCMP_LTU (R172): Vector unsigned or unordered less-than compare. -/
  | vcmpLtu (h : Hdr) (f : F3)
  /-- VCMP_LEU (R172): Vector unsigned or unordered less-or-equal compare. -/
  | vcmpLeu (h : Hdr) (f : F3)
  /-- VSEL (R173): Vector byte-wise select by mask. -/
  | vsel (h : Hdr) (f : F3)
  /-- MAND (R173): Mask AND. -/
  | mand (h : Hdr) (f : F3)
  /-- MOR (R173): Mask OR. -/
  | mor (h : Hdr) (f : F3)
  /-- MNOT (R173): Mask complement. -/
  | mnot (h : Hdr) (f : F3)
  /-- MPOPC (R173): Counts the lanes a mask selects into a scalar. -/
  | mpopc (h : Hdr) (f : F3)
  /-- VFADD (R174): Vector floating-point add, rounded once. -/
  | vfadd (h : Hdr) (f : F3)
  /-- VFSUB (R174): Vector floating-point subtract. -/
  | vfsub (h : Hdr) (f : F3)
  /-- VFMUL (R174): Vector floating-point multiply. -/
  | vfmul (h : Hdr) (f : F3)
  /-- VFMA (R174): Vector fused multiply-add. -/
  | vfma (h : Hdr) (f : F3)
  /-- VFMS (R174): Vector fused multiply-subtract. -/
  | vfms (h : Hdr) (f : F3)
  /-- VFMIN (R174): Vector floating-point minimum. -/
  | vfmin (h : Hdr) (f : F3)
  /-- VFMAX (R174): Vector floating-point maximum. -/
  | vfmax (h : Hdr) (f : F3)
  /-- VFABS (R174): Vector floating-point absolute value. -/
  | vfabs (h : Hdr) (f : F3)
  /-- VFNEG (R174): Vector floating-point negation. -/
  | vfneg (h : Hdr) (f : F3)
  /-- VFRCP (R175): Vector correctly rounded f32 reciprocal. -/
  | vfrcp (h : Hdr) (f : F3)
  /-- VFRSQ (R175): Vector correctly rounded reciprocal square root. -/
  | vfrsq (h : Hdr) (f : F3)
  /-- VFEXP2 (R175): Vector correctly rounded 2^x. -/
  | vfexp2 (h : Hdr) (f : F3)
  /-- VFLOG2 (R175): Vector correctly rounded log2. -/
  | vflog2 (h : Hdr) (f : F3)
  /-- VFSQRT (R175): Vector correctly rounded square root. -/
  | vfsqrt (h : Hdr) (f : F3)
  /-- VFDIV (R175): Vector correctly rounded division. -/
  | vfdiv (h : Hdr) (f : F3)
  /-- VCVT (R176): Vector type conversion, widening or narrowing by part. -/
  | vcvt (h : Hdr) (f : F3)
  /-- VSRND (R177): Rounds f32 lanes to another type's grid, kept as f32. -/
  | vsrnd (h : Hdr) (f : F3)
  /-- VQUANT (R178): Encodes f32 lanes as block-scaled elements and scale bytes. -/
  | vquant (h : Hdr) (f : F3)
  /-- VDEQ (R178): Decodes block-scaled elements to f32 lanes. -/
  | vdeq (h : Hdr) (f : F3)
  /-- VPLANE (R179): Converts i8 lanes into an eight-plane bpi block. -/
  | vplane (h : Hdr) (f : F3)
  /-- VUNPLANE (R179): Converts a bpi block back into i8 lanes over P planes. -/
  | vunplane (h : Hdr) (f : F3)
  /-- VRSUM (R180): Reduces lanes to a sum by the fixed tree. -/
  | vrsum (h : Hdr) (f : F3)
  /-- VRMAX (R180): Reduces lanes to their maximum. -/
  | vrmax (h : Hdr) (f : F3)
  /-- VRMIN (R180): Reduces lanes to their minimum. -/
  | vrmin (h : Hdr) (f : F3)
  /-- VRMAXI (R180): Returns the lane index of the maximum. -/
  | vrmaxi (h : Hdr) (f : F3)
  /-- VPSUM (R181): Forms an inclusive prefix sum of the lanes. -/
  | vpsum (h : Hdr) (f : F3)
  /-- VGMAX (R181): Reduces each lane group to its maximum. -/
  | vgmax (h : Hdr) (f : F3)
  /-- VGSUM (R181): Reduces each lane group to its sum. -/
  | vgsum (h : Hdr) (f : F3)
  /-- VPERM (R182): Permutes lanes by an index vector. -/
  | vperm (h : Hdr) (f : F3)
  /-- VBCAST (R182): Broadcasts a scalar into every lane. -/
  | vbcast (h : Hdr) (f : F3)
  /-- VSLIDE (R182): Slides lanes across two vectors by K. -/
  | vslide (h : Hdr) (f : F3)
  /-- VCOMP (R182): Compresses selected lanes to the bottom. -/
  | vcomp (h : Hdr) (f : F3)
  /-- VEXP (R182): Expands consecutive lanes into selected positions. -/
  | vexp (h : Hdr) (f : F3)
  /-- VMOVI (R183): Writes SExt(IMM25) into every 32-bit lane. -/
  | vmovi (h : Hdr) (f : FI)
  /-- QPOP (R184): Waits for and pops an aq entry into a vector register. -/
  | qpop (h : Hdr) (f : F3)
  /-- QPOPM (R184): Pops an aq entry into the masked bytes of a vector register. -/
  | qpopm (h : Hdr) (f : F3)
  /-- QPUSH (R184): Pushes a vector with an all-ones mask into an xq. -/
  | qpush (h : Hdr) (f : F3)
  /-- QPUSHM (R184): Pushes a vector with a byte mask into an xq. -/
  | qpushm (h : Hdr) (f : F3)
  /-- QCNT (R185): Returns a queue or pigeonhole count. -/
  | qcnt (h : Hdr) (f : F3)
  /-- VLDB (R186): Loads a vector, tile or accumulator from AB or CB. -/
  | vldb (h : Hdr) (f : FM)
  /-- VSTB (R186): Stores a vector, tile or accumulator into AB or CB. -/
  | vstb (h : Hdr) (f : FM)
  /-- VSTBM (R186): Stores the masked bytes of an operand into AB or CB. -/
  | vstbm (h : Hdr) (f : FM)
  /-- LOOP (R188): Starts a loop-table entry on both processors. -/
  | loop (h : Hdr) (f : FL)
  /-- LBRK (R191): Pops a bq bit and ends the loop after the current pass when it is 1. -/
  | lbrk (h : Hdr) (f : FS)
  /-- OSET (R192): Sets an offset register. -/
  | oset (h : Hdr) (f : FI)
  /-- OADD (R192): Adds to an offset register. -/
  | oadd (h : Hdr) (f : FI)
  /-- DEFER (R193): Appends selected lanes to the pigeonhole under a path. -/
  | defer (h : Hdr) (f : F3)
  /-- DEFCNT (R194): Returns a path's entry count and OVF, clearing OVF for path 15. -/
  | defcnt (h : Hdr) (f : F3)
  /-- DEFTAKE (R195): Removes a batch of pigeonhole entries into three vectors. -/
  | deftake (h : Hdr) (f : F3)
  /-- XPOSE (R197): Queues a transpose between WB and AB. -/
  | xpose (h : Hdr) (f : FE)
  /-- XPOSE_P (R197): Queues a transpose that writes bit-plane blocks. -/
  | xposeP (h : Hdr) (f : FE)
  /-- SPILL (R198): Queues a copy of a register-space range to memory. -/
  | spill (h : Hdr) (f : FE)
  /-- XP_FILL (R198): Queues a fill of a register-space range from memory. -/
  | xpFill (h : Hdr) (f : FE)
  /-- VIEW (R199): Writes a view register after the checks of R42. -/
  | view (h : Hdr) (f : FS)
  /-- XP_WAIT_ANY (R200): XP waits on the AP's w copy for any condition. -/
  | xpWaitAny (h : Hdr) (f : FW)
  /-- XP_WAIT_ALL (R200): XP waits on the AP's w copy for all conditions. -/
  | xpWaitAll (h : Hdr) (f : FW)
  /-- CLAIM (R203): Claims a rectangle of plots with a shape, origin and priority. -/
  | claim (h : Hdr) (f : FE)
  /-- RELEASE (R204): Drains a claim, holding the XP, then frees its plots. -/
  | release (h : Hdr) (f : FE)
  /-- TPRI (R205): Sets a claim's arbitration priority. -/
  | tpri (h : Hdr) (f : FE)
  /-- WLOAD (R208): Queues a weight load into the claim's active bank. -/
  | wload (h : Hdr) (f : FE)
  /-- WLOADP (R208): Queues a weight load into the claim's shadow bank. -/
  | wloadp (h : Hdr) (f : FE)
  /-- MSTREAM (R210): Queues a weight-stationary stream of A rows, possibly opening or joining a batch. -/
  | mstream (h : Hdr) (f : FE)
  /-- MSTREAMP (R213): Queues a bit-plane stream against i8 weights. -/
  | mstreamp (h : Hdr) (f : FE)
  /-- MVSTREAM (R215): Queues a matrix-vector stream fed through the weight-stream port. -/
  | mvstream (h : Hdr) (f : FE)
  /-- TEOB (R214): Queues the close of a ragged batch. -/
  | teob (h : Hdr) (f : FE)
  /-- TDRAIN (R218): Queues a command that completes with the claim's earlier commands. -/
  | tdrain (h : Hdr) (f : FE)
  /-- TACS (R220): Reads a claim's status flags. -/
  | tacs (h : Hdr) (f : FS)
  /-- TACS_CLR (R220): Reads and clears a claim's status flags. -/
  | tacsClr (h : Hdr) (f : FS)
  /-- TCHK (R221): Reads a claim's checksum state. -/
  | tchk (h : Hdr) (f : FS)
  /-- TCHK_CLR (R221): Reads and clears a claim's checksum state. -/
  | tchkClr (h : Hdr) (f : FS)
  /-- SWAP (R223): Both processors meet, wait for every command, toggle phase halves and capture a phase. -/
  | swap (h : Hdr) (f : FS)
  /-- COMMIT (R223): Both processors meet and wait until the window records the task COMMITTED. -/
  | commit (h : Hdr) (f : FS)
  /-- HALT (R223): Both processors meet, drain, commit implicitly and raise the shard's halt line. -/
  | halt (h : Hdr) (f : FS)
  /-- SLIP (R223): Both processors meet and set the slip window. -/
  | slip (h : Hdr) (f : FS)
  /-- MARK (R223): Both processors meet, publish XP buffer writes and set the mark value. -/
  | mark (h : Hdr) (f : FS)
  deriving DecidableEq, Repr

end Sys2Proof
end

