-- ==== Sys2Proof/Config.lean ====
section
/-! DEFINITION. What the manual leaves to each device or to an outside standard: constants without a body, so that no proof
can rest on a value of theirs. -/

namespace Sys2Proof.Config

/-- The free values of allowed outcomes, by the number of the draw (entry 11). -/
opaque freeWord : Nat → BitVec 64

/-- The EPOCH drawn at each reset (R390, entry 20). -/
opaque epochDraw : Nat → BitVec 16

/-- The cycles that a step of the boot takes, by the number of the draw (R421, entry 22). -/
opaque bootCycles : Nat → Nat

/-- The byte that the board's master drives at a write of CTRL, by the number of the draw (R429, entry 104). -/
opaque boardByte : Nat → BitVec 8

/-- The units that fail the power-on self-test, by the number of the draw (R428, entry 22). -/
opaque selfTestFails : Nat → List HwUnit

/-- SHA-256 (R422 to R426, entry 8). -/
opaque sha256 : List Byte → BitVec 256

/-- SLH-DSA-SHA2-192s verification: key, message, signature (R422, entry 8). -/
opaque slhVerify : List Byte → List Byte → List Byte → Bool

/-- The SLH-DSA-SHA2-192s signature that the device identity key makes of a message (R426, entry 8). -/
opaque identitySign : List Byte → List Byte

/-- ML-KEM-768 encapsulation to a key, with the number of the draw: ciphertext and shared secret (R424, entry 8). -/
opaque mlkemEncap : Nat → List Byte → List Byte × BitVec 256

/-- HKDF-SHA-256 of a shared secret with a salt and a label (R425, entry 8). -/
opaque hkdf : BitVec 256 → List Byte → List Byte → BitVec 256

/-- The SHA-256 of the Aelpin firmware key in the mask ROM (R422). -/
opaque aelpinKeyHash : BitVec 256

/-- The Aelpin firmware key itself (R422). -/
opaque aelpinKey : List Byte

/-- The digest of the mask ROM (R423). -/
opaque romDigest : BitVec 256

end Sys2Proof.Config
end

