-- ==== Sys2Proof/WellFormed.lean ====
section
/-! DEFINITION. The encoding checks of a word's fields: steps 5 and 6 of R53. A word that fails traps RESERVED_FIELD. -/

namespace Sys2Proof

/-- A field names an index below a limit; bit 9 is then 0. -/
def below (x : BitVec 10) (n : Nat) : Bool := decide (x.toNat < n)

/-- c0 to c31 (R105). -/
def ccReg (x : BitVec 10) : Bool := below x 32

/-- c0 to c31 or w0 to w3, as INT3 and INTI of the control core allow (R34, R105). -/
def ccRegW (x : BitVec 10) : Bool := below x 36

/-- a0 to a63 (R128). -/
def apReg (x : BitVec 10) : Bool := below x 64

/-- a0 to a63, vt or w0 to w3 as a source (R34, R128). -/
def apSrc (x : BitVec 10) : Bool := below x 69

/-- a0 to a63 or w0 to w3 as a destination; vt as a destination traps (R34). -/
def apDst (x : BitVec 10) : Bool := below x 69 && x != 64

/-- Bit 9 of a source selects a latch; bits 8:4 are then zero (R34). -/
def latchSel (x : BitVec 10) : Bool := decide (512 ≤ x.toNat ∧ x.toNat < 528)

/-- A scalar source: s0 to s63 or a latch (R34, R163). -/
def sSrc (x : BitVec 10) : Bool := below x 64 || latchSel x

/-- A vector source: v0 to v511 or a latch (R34, R163). -/
def vSrc (x : BitVec 10) : Bool := below x 512 || latchSel x

/-- A scalar destination; bit 9 is WS (R34). -/
def sDst (x : BitVec 10) : Bool := decide (x.toNat % 512 < 64)

/-- TY and RM are zero (R36, R56). -/
def plain (f : F3) : Bool := f.ty == 0 && f.rm == 0

/-- An integer element type (R36). -/
def intTy (ty : BitVec 3) : Bool := decide (ty.toNat < 4)

/-- The element size in bytes of a type (R36, R164). -/
def sizeOfTy (ty : BitVec 3) : Nat :=
  match ty.toNat with
  | 0 => 1 | 1 => 2 | 2 => 4 | 3 => 8 | 4 => 2 | 5 => 2 | 6 => 4 | _ => 1

/-- The lanes of a 256-byte operand of a type (R164). -/
def lanesOf (ty : BitVec 3) : Nat := 256 / sizeOfTy ty

/-- log2 of the lanes of a type. -/
def lanesLog (ty : BitVec 3) : Nat :=
  match sizeOfTy ty with
  | 1 => 8 | 2 => 7 | 4 => 6 | _ => 5

/-- RM 11 is legal only for a floating-point result (R63, R73). -/
def roundOk (f : F3) : Bool := f.rm != 3 || !intTy f.ty

/-- IMM25[24:6] is zero in an immediate shift (R107, R132, R167). -/
def shiftImm (imm : BitVec 25) : Bool := decide (imm.toNat < 64)

/-- SZ is word or double and OFF12 is zero in an AMO (R56, R57). -/
def wide (f : FM) : Bool := decide (2 ≤ f.sz.toNat) && f.off == 0

/-- The body of an FS word is zero. -/
def empty (f : FS) : Bool := f.d == 0 && f.a == 0 && f.num == 0

/-- NUM[5:0] names c0 to c31 (R105, R114). -/
def numReg (num : BitVec 25) : Bool := decide (num.toNat % 64 < 32)

/-- The FW rules of R38 but for ALL. -/
def waits (f : FW) : Bool := f.wmask != 0 && f.z == 0

/-- The run of n parameter registers from X stays inside its file of 64 (R37). -/
def run (f : FE) (n : Nat) : Bool := decide (f.x.toNat + n ≤ 64)

/-- KP, KC1 to KC3 and BND are zero (R203 to R205). -/
def unqueued (f : FE) : Bool := f.kp == 0 && f.kc1 == 0 && f.kc2 == 0 && f.kc3 == 0 && f.bnd == 0

/-- The immediate C of VCVT: ST in C[2:0], PART in C[5:3], XFL in C[6] (R176). -/
def cvtFields (f : F3) : Bool :=
  let st : BitVec 3 := f.c.extractLsb' 0 3
  let part := f.c.toNat / 8 % 8
  let zs := sizeOfTy st
  let zd := sizeOfTy f.ty
  decide (f.c.toNat < 128) && decide (part < max zs zd / min zs zd) && (decide (f.c.toNat / 64 % 2 = 0) || st == 7)

/-- The immediate C of VGSUM and VGMAX: the mask in C[2:0], G in C[6:3] (R181). -/
def groupFields (f : F3) : Bool :=
  let g := f.c.toNat / 8 % 16
  decide (f.c.toNat < 128) && decide (1 ≤ g) && decide (g ≤ lanesLog f.ty)

/-- The selector B of a BUF word (R186): the buffer in B[1:0], the mask in B[4:2], the class in B[6:5]. -/
def bufFields (f : FM) (masked : Bool) : Bool :=
  let b := f.b.toNat
  below f.a 8 && f.v == 0 && decide (b < 128) && decide (b % 4 ≠ 0) && decide (b / 32 ≠ 3) && (masked || decide (b / 4 % 8 = 0))

/-- D of a VLDB by its class: a vector may carry WS, a tile or accumulator may not (R186). -/
def bufDst (f : FM) : Bool :=
  match f.b.toNat / 32 % 4 with
  | 0 => true
  | 1 => below f.d 128
  | _ => below f.d 32

/-- D of a VSTB or VSTBM by its class: a vector may select a latch (R186). -/
def bufSrc (f : FM) : Bool :=
  match f.b.toNat / 32 % 4 with
  | 0 => vSrc f.d
  | 1 => below f.d 128
  | _ => below f.d 32

/-- PRED and N are zero, where the opcode map fixes them (R30, R56 to R62). -/
def Hdr.free (h : Hdr) : Bool := !h.n && h.pred == 0

/-- The system-register numbers that R99, R402 and R415 list. -/
def sysListed (n : Nat) : Bool :=
  decide (n ≤ 5) || decide (0x10 ≤ n ∧ n ≤ 0x16) || n == 0x20
  || decide (0x100000 ≤ n ∧ n ≤ 0x103FFF)
  || decide (0x200000 ≤ n ∧ n < 0x200200 ∧ n % 16 < 12)
  || n == 0x210000 || n == 0x220000 || n == 0x220001 || n == 0x230000 || n == 0x240000
  || decide (0x240100 ≤ n ∧ n < 0x240200)
  || decide (0x250000 ≤ n ∧ n < 0x250020) || decide (0x250100 ≤ n ∧ n < 0x250110) || decide (0x250200 ≤ n ∧ n < 0x250204)
  || decide (0x260000 ≤ n ∧ n < 0x260800 ∧ n % 512 < 288) || decide (0x261000 ≤ n ∧ n < 0x261010)
  || n == 0x270000

/-- The header of a frame that is accepted as UFT: VERSION 1 and a payload of the stated length (R386). -/
def frameOk (f : Frame) : Bool := f.version == 1 && decide (f.len.toNat = f.payload.length)

/-- The checks of steps 2, 5 and 6 of R53 on a word whose opcode is assigned: S of the control core, JN predicates (R30), register fields (R34, R105,
R128, R163), TY and RM (R63), fixed, unused and reserved fields (R35, R36, R56 to R62), FW rules (R38), system-register
numbers (R99, R402, R415). They depend only on the word's bits. An event has no encoding to check but a frame its header. -/
def Instr.wf : Instr → Bool
  | .ccAdd h f => h.s && ccRegW f.d && ccRegW f.a && ccRegW f.b && plain f && f.c == 0
  | .ccSub h f => h.s && ccRegW f.d && ccRegW f.a && ccRegW f.b && plain f && f.c == 0
  | .ccAnd h f => h.s && ccRegW f.d && ccRegW f.a && ccRegW f.b && plain f && f.c == 0
  | .ccOr h f => h.s && ccRegW f.d && ccRegW f.a && ccRegW f.b && plain f && f.c == 0
  | .ccXor h f => h.s && ccRegW f.d && ccRegW f.a && ccRegW f.b && plain f && f.c == 0
  | .ccShl h f => h.s && ccRegW f.d && ccRegW f.a && ccRegW f.b && plain f && f.c == 0
  | .ccShr h f => h.s && ccRegW f.d && ccRegW f.a && ccRegW f.b && plain f && f.c == 0
  | .ccSar h f => h.s && ccRegW f.d && ccRegW f.a && ccRegW f.b && plain f && f.c == 0
  | .ccMul h f => h.s && ccRegW f.d && ccRegW f.a && ccRegW f.b && plain f && f.c == 0
  | .ccMulh h f => h.s && ccRegW f.d && ccRegW f.a && ccRegW f.b && plain f && f.c == 0
  | .ccDiv h f => h.s && ccRegW f.d && ccRegW f.a && ccRegW f.b && plain f && f.c == 0
  | .ccDivu h f => h.s && ccRegW f.d && ccRegW f.a && ccRegW f.b && plain f && f.c == 0
  | .ccRem h f => h.s && ccRegW f.d && ccRegW f.a && ccRegW f.b && plain f && f.c == 0
  | .ccRemu h f => h.s && ccRegW f.d && ccRegW f.a && ccRegW f.b && plain f && f.c == 0
  | .ccMin h f => h.s && ccRegW f.d && ccRegW f.a && ccRegW f.b && plain f && f.c == 0
  | .ccMax h f => h.s && ccRegW f.d && ccRegW f.a && ccRegW f.b && plain f && f.c == 0
  | .ccMinu h f => h.s && ccRegW f.d && ccRegW f.a && ccRegW f.b && plain f && f.c == 0
  | .ccMaxu h f => h.s && ccRegW f.d && ccRegW f.a && ccRegW f.b && plain f && f.c == 0
  | .ccSel h f => h.s && ccRegW f.d && ccRegW f.a && ccRegW f.b && plain f && below f.c 8
  | .ccAddi h f => h.s && ccRegW f.d && ccRegW f.a
  | .ccAndi h f => h.s && ccRegW f.d && ccRegW f.a
  | .ccOri h f => h.s && ccRegW f.d && ccRegW f.a
  | .ccXori h f => h.s && ccRegW f.d && ccRegW f.a
  | .ccShli h f => h.s && ccRegW f.d && ccRegW f.a && shiftImm f.imm
  | .ccShri h f => h.s && ccRegW f.d && ccRegW f.a && shiftImm f.imm
  | .ccSari h f => h.s && ccRegW f.d && ccRegW f.a && shiftImm f.imm
  | .ccMuli h f => h.s && ccRegW f.d && ccRegW f.a
  | .ccLui h f => h.s && ccRegW f.d && f.a == 0
  | .ccCmpEq h f => h.s && below f.d 8 && ccReg f.a && ccReg f.b && f.c == 0 && plain f
  | .ccCmpNe h f => h.s && below f.d 8 && ccReg f.a && ccReg f.b && f.c == 0 && plain f
  | .ccCmpLt h f => h.s && below f.d 8 && ccReg f.a && ccReg f.b && f.c == 0 && plain f
  | .ccCmpLe h f => h.s && below f.d 8 && ccReg f.a && ccReg f.b && f.c == 0 && plain f
  | .ccCmpLtu h f => h.s && below f.d 8 && ccReg f.a && ccReg f.b && f.c == 0 && plain f
  | .ccCmpLeu h f => h.s && below f.d 8 && ccReg f.a && ccReg f.b && f.c == 0 && plain f
  | .ccCmpiEq h f => h.s && below f.d 8 && ccReg f.a
  | .ccCmpiNe h f => h.s && below f.d 8 && ccReg f.a
  | .ccCmpiLt h f => h.s && below f.d 8 && ccReg f.a
  | .ccCmpiLe h f => h.s && below f.d 8 && ccReg f.a
  | .ccCmpiLtu h f => h.s && below f.d 8 && ccReg f.a
  | .ccCmpiLeu h f => h.s && below f.d 8 && ccReg f.a
  | .ccPand h f => h.s && below f.d 8 && below f.a 8 && below f.b 8 && f.c == 0 && plain f
  | .ccPor h f => h.s && below f.d 8 && below f.a 8 && below f.b 8 && f.c == 0 && plain f
  | .ccPxor h f => h.s && below f.d 8 && below f.a 8 && below f.b 8 && f.c == 0 && plain f
  | .ccPnot h f => h.s && below f.d 8 && below f.a 8 && f.b == 0 && f.c == 0 && plain f
  | .ccBr h f => h.s && f.d == 0 && f.z == 0
  | .ccJmp h f => h.s && f.d == 0 && f.z == 0 && h.free
  | .ccJmpr h f => h.s && ccReg f.d && f.z == 0 && f.off == 0 && h.free
  | .ccCall h f => h.s && f.d == 0 && f.z == 0 && h.free
  | .ccCallr h f => h.s && ccReg f.d && f.z == 0 && f.off == 0 && h.free
  | .ccRet h f => h.s && f.d == 0 && f.z == 0 && f.off == 0 && h.free
  | .ccLd h f => h.s && ccReg f.d && ccReg f.a && ccReg f.b && f.v == 0
  | .ccLds h f => h.s && ccReg f.d && ccReg f.a && ccReg f.b && f.v == 0
  | .ccSt h f => h.s && ccReg f.d && ccReg f.a && ccReg f.b && f.v == 0
  | .ccLda h f => h.s && ccReg f.d && ccReg f.a && ccReg f.b && f.v == 0
  | .ccStl h f => h.s && ccReg f.d && ccReg f.a && ccReg f.b && f.v == 0
  | .ccAmoAdd h f => h.s && ccReg f.d && ccReg f.a && ccReg f.b && f.v == 0 && wide f
  | .ccAmoAnd h f => h.s && ccReg f.d && ccReg f.a && ccReg f.b && f.v == 0 && wide f
  | .ccAmoOr h f => h.s && ccReg f.d && ccReg f.a && ccReg f.b && f.v == 0 && wide f
  | .ccAmoXor h f => h.s && ccReg f.d && ccReg f.a && ccReg f.b && f.v == 0 && wide f
  | .ccAmoMin h f => h.s && ccReg f.d && ccReg f.a && ccReg f.b && f.v == 0 && wide f
  | .ccAmoMax h f => h.s && ccReg f.d && ccReg f.a && ccReg f.b && f.v == 0 && wide f
  | .ccAmoMinu h f => h.s && ccReg f.d && ccReg f.a && ccReg f.b && f.v == 0 && wide f
  | .ccAmoMaxu h f => h.s && ccReg f.d && ccReg f.a && ccReg f.b && f.v == 0 && wide f
  | .ccAmoSwap h f => h.s && ccReg f.d && ccReg f.a && ccReg f.b && f.v == 0 && wide f
  | .ccAmoCas h f => h.s && ccReg f.d && ccReg f.a && ccReg f.b && f.v == 0 && wide f
  | .ccFenceCore h f => h.s && empty f
  | .ccFenceDie h f => h.s && empty f
  | .ccFenceDev h f => h.s && empty f
  | .ccFenceDom h f => h.s && empty f
  | .post h f => h.s && ccReg f.d && ccReg f.a && numReg f.num && f.num.toNat < 64
  | .postNb h f => h.s && ccReg f.d && ccReg f.a && numReg f.num && f.num.toNat < 512
  | .postG h f => h.s && ccReg f.d && ccReg f.a && numReg f.num && f.num.toNat < 2048 && f.num.toNat / 64 % 8 == 0 && f.num.toNat / 512 != 3
  | .rpost h f => h.s && ccReg f.d && ccReg f.a && numReg f.num && f.num.toNat < 64
  | .cancel h f => h.s && ccReg f.d && ccReg f.a && numReg f.num && f.num.toNat < 64
  | .twait h f => h.s && below f.d 8 && ccReg f.a && f.num.toNat < 0x100000
  | .wincfgDispatchHold h f => h.s && f.d == 0 && ccReg f.a && f.num == 0
  | .wincfgLetterboxAccept h f => h.s && f.d == 0 && ccReg f.a && f.num == 1
  | .wincfgPriorityCeiling h f => h.s && f.d == 0 && ccReg f.a && f.num == 2
  | .winqLiveEntries h f => h.s && ccReg f.d && ccReg f.a && f.num == 0
  | .winqFreeEntries h f => h.s && ccReg f.d && ccReg f.a && f.num == 1
  | .winqLetterbox h f => h.s && ccReg f.d && ccReg f.a && f.num == 2
  | .winqNextSerial h f => h.s && ccReg f.d && ccReg f.a && f.num == 3
  | .winqLowestLive h f => h.s && ccReg f.d && ccReg f.a && f.num == 4
  | .winqFreeRename h f => h.s && ccReg f.d && ccReg f.a && f.num == 5
  | .winqTaskState h f => h.s && ccReg f.d && ccReg f.a && f.num == 6
  | .valloc h f => h.s && ccReg f.d && f.a == 0 && f.num == 0
  | .vallocNb h f => h.s && ccReg f.d && f.a == 0 && f.num.toNat < 8
  | .vret h f => h.s && f.d == 0 && ccReg f.a && f.num == 0
  | .vfold h f => h.s && ccReg f.d && ccReg f.a && numReg f.num && f.num.toNat < 64
  | .vqueryState h f => h.s && ccReg f.d && ccReg f.a && f.num == 0
  | .vqueryAvailable h f => h.s && ccReg f.d && ccReg f.a && f.num == 1
  | .ccWaitAny h f => h.s && waits f && f.all == 0
  | .ccWaitAll h f => h.s && waits f && f.all == 1
  | .trap h f => h.s && f.d == 0 && f.a == 0
  | .eret h f => h.s && empty f
  | .sysr h f => h.s && ccReg f.d && f.a == 0 && sysListed f.num.toNat && f.num != 0x16
  | .sysw h f => h.s && f.d == 0 && ccReg f.a && sysListed f.num.toNat && f.num != 0x15 && f.num != 0x20 && f.num != 0x220000 && f.num != 0x220001
  | .syswVlim h f => h.s && f.d == 0 && ccReg f.a && f.num == 0x15
  | .syswCtxst h f => h.s && f.d == 0 && ccReg f.a && f.num == 0x20
  | .sysrChkcnt h f => h.s && ccReg f.d && f.a == 0 && f.num == 0x16
  | .syswInj h f => h.s && f.d == 0 && ccReg f.a && f.num == 0x220000
  | .syswInjmem h f => h.s && f.d == 0 && ccReg f.a && f.num == 0x220001
  | .ccHalt h f => h.s && empty f
  | .nop h f => h.s && empty f
  | .ctxsw h f => h.s && empty f
  | .ckpt h f => h.s && ccReg f.d && ccReg f.a && f.num == 0
  | .apAdd _ f => apDst f.d && apSrc f.a && apSrc f.b && plain f && f.c == 0
  | .apSub _ f => apDst f.d && apSrc f.a && apSrc f.b && plain f && f.c == 0
  | .apAnd _ f => apDst f.d && apSrc f.a && apSrc f.b && plain f && f.c == 0
  | .apOr _ f => apDst f.d && apSrc f.a && apSrc f.b && plain f && f.c == 0
  | .apXor _ f => apDst f.d && apSrc f.a && apSrc f.b && plain f && f.c == 0
  | .apShl _ f => apDst f.d && apSrc f.a && apSrc f.b && plain f && f.c == 0
  | .apShr _ f => apDst f.d && apSrc f.a && apSrc f.b && plain f && f.c == 0
  | .apMul _ f => apDst f.d && apSrc f.a && apSrc f.b && plain f && f.c == 0
  | .apMadd _ f => apDst f.d && apSrc f.a && apSrc f.b && plain f && apSrc f.c
  | .apMin _ f => apDst f.d && apSrc f.a && apSrc f.b && plain f && f.c == 0
  | .apMax _ f => apDst f.d && apSrc f.a && apSrc f.b && plain f && f.c == 0
  | .apSel _ f => apDst f.d && apSrc f.a && apSrc f.b && plain f && below f.c 8
  | .apAddi _ f => apDst f.d && apSrc f.a
  | .apAndi _ f => apDst f.d && apSrc f.a
  | .apOri _ f => apDst f.d && apSrc f.a
  | .apShli _ f => apDst f.d && apSrc f.a && shiftImm f.imm
  | .apShri _ f => apDst f.d && apSrc f.a && shiftImm f.imm
  | .apMuli _ f => apDst f.d && apSrc f.a
  | .apLui _ f => apDst f.d && f.a == 0
  | .apCmpEq _ f => below f.d 8 && apSrc f.a && apSrc f.b && f.c == 0 && plain f
  | .apCmpNe _ f => below f.d 8 && apSrc f.a && apSrc f.b && f.c == 0 && plain f
  | .apCmpLt _ f => below f.d 8 && apSrc f.a && apSrc f.b && f.c == 0 && plain f
  | .apCmpLe _ f => below f.d 8 && apSrc f.a && apSrc f.b && f.c == 0 && plain f
  | .apCmpLtu _ f => below f.d 8 && apSrc f.a && apSrc f.b && f.c == 0 && plain f
  | .apCmpLeu _ f => below f.d 8 && apSrc f.a && apSrc f.b && f.c == 0 && plain f
  | .apCmpiEq _ f => below f.d 8 && apSrc f.a
  | .apCmpiNe _ f => below f.d 8 && apSrc f.a
  | .apCmpiLt _ f => below f.d 8 && apSrc f.a
  | .apCmpiLe _ f => below f.d 8 && apSrc f.a
  | .apCmpiLtu _ f => below f.d 8 && apSrc f.a
  | .apCmpiLeu _ f => below f.d 8 && apSrc f.a
  | .apPand _ f => below f.d 8 && below f.a 8 && below f.b 8 && f.c == 0 && plain f
  | .apPor _ f => below f.d 8 && below f.a 8 && below f.b 8 && f.c == 0 && plain f
  | .apPnot _ f => below f.d 8 && below f.a 8 && f.b == 0 && f.c == 0 && plain f
  | .apBr _ f => f.d == 0 && f.z == 0
  | .apJmp h f => f.d == 0 && f.z == 0 && h.free
  | .brq _ f => f.d == 0 && f.z == 0
  | .ldq _ f => below f.d 8 && apReg f.a && apReg f.b && f.v == 0
  | .ldqV _ f => below f.d 8 && apReg f.a && apReg f.b && f.v == 1
  | .gathq _ f => below f.d 8 && apReg f.a && below f.b 4 && f.v == 0
  | .apLds _ f => apReg f.d && apReg f.a && apReg f.b && f.v == 0
  | .apLdsV _ f => apReg f.d && apReg f.a && apReg f.b && f.v == 1
  | .sts _ f => apReg f.d && apReg f.a && apReg f.b && f.v == 0
  | .stq _ f => below f.d 4 && apReg f.a && apReg f.b && f.v == 0
  | .stqM _ f => below f.d 4 && apReg f.a && apReg f.b && f.v == 0
  | .scatq _ f => below f.d 4 && apReg f.a && below f.b 4 && f.b != f.d && f.v == 0
  | .mtest _ f => below f.d 8 && below f.a 8 && f.num.toNat < 8 && f.num.toNat % 4 != 3
  | .pgreq _ f => f.d == 0 && apReg f.a && f.num == 0
  | .pgquery _ f => apReg f.d && apReg f.a && f.num == 0
  | .apAmoAdd _ f => apReg f.d && apReg f.a && apReg f.b && f.v == 0 && wide f
  | .apAmoAnd _ f => apReg f.d && apReg f.a && apReg f.b && f.v == 0 && wide f
  | .apAmoOr _ f => apReg f.d && apReg f.a && apReg f.b && f.v == 0 && wide f
  | .apAmoXor _ f => apReg f.d && apReg f.a && apReg f.b && f.v == 0 && wide f
  | .apAmoMin _ f => apReg f.d && apReg f.a && apReg f.b && f.v == 0 && wide f
  | .apAmoMax _ f => apReg f.d && apReg f.a && apReg f.b && f.v == 0 && wide f
  | .apAmoMinu _ f => apReg f.d && apReg f.a && apReg f.b && f.v == 0 && wide f
  | .apAmoMaxu _ f => apReg f.d && apReg f.a && apReg f.b && f.v == 0 && wide f
  | .apAmoSwap _ f => apReg f.d && apReg f.a && apReg f.b && f.v == 0 && wide f
  | .apAmoCas _ f => apReg f.d && apReg f.a && apReg f.b && f.v == 0 && wide f
  | .fadd _ f => apReg f.d && apReg f.a && apReg f.b && f.v == 0 && wide f
  | .apLda _ f => apReg f.d && apReg f.a && apReg f.b && f.v == 0
  | .apStl _ f => apReg f.d && apReg f.a && apReg f.b && f.v == 0
  | .apFenceCore _ f => empty f
  | .apFenceDie _ f => empty f
  | .apFenceDev _ f => empty f
  | .apFenceDom _ f => empty f
  | .barinit _ f => f.d == 0 && apReg f.a && apReg f.b && f.v == 0 && f.sz == 3
  | .barexp _ f => f.d == 0 && apReg f.a && apReg f.b && f.v == 0 && f.sz == 3
  | .bararr _ f => f.d == 0 && apReg f.a && apReg f.b && f.v == 0 && f.sz == 3
  | .barq _ f => apReg f.d && apReg f.a && f.b == 0 && f.v == 0 && f.sz == 3
  | .seal _ f => apReg f.d && apReg f.a && f.num == 0
  | .unseal _ f => apReg f.d && apReg f.a && f.num == 0
  | .apWaitAny _ f => waits f && f.all == 0
  | .apWaitAll _ f => waits f && f.all == 1
  | .wprd _ f => apReg f.d && f.a == 0 && f.num.toNat < 8
  | .tkclr _ f => f.d == 0 && f.a == 0 && f.num.toNat < 64
  | .tktest _ f => below f.d 8 && f.a == 0 && f.num.toNat < 64
  | .ecCopy _ f => run f 5
  | .ecCopyV _ f => run f 6
  | .ecFill _ f => run f 6
  | .gather _ f => run f 6
  | .scatter _ f => run f 6
  | .cstream _ f => run f 5
  | .route _ f => run f 6 && f.ch == 0
  | .rcsnap _ f => run f 1 && f.ch == 0
  | .rcread _ f => run f 1 && f.ch == 0
  | .courier _ f => run f 3
  | .spawn _ f => run f 2 && f.ch == 0 && f.kp == 0
  | .rput _ f => run f 4
  | .rget _ f => run f 4
  | .ramo _ f => run f 5
  | .mcast _ f => run f 5
  | .cwCopy c _ => c.toNat < 8
  | .cwWait c _ => c.toNat < 8
  | .cwFlag _ => true
  | .cwLoop _ _ => true
  | .cwAdd _ => true
  | .cwEnd => true
  | .xpAdd _ f => sDst f.d && sSrc f.a && sSrc f.b && f.ty == 3 && f.rm == 0 && f.c == 0
  | .xpSub _ f => sDst f.d && sSrc f.a && sSrc f.b && f.ty == 3 && f.rm == 0 && f.c == 0
  | .xpMul _ f => sDst f.d && sSrc f.a && sSrc f.b && f.ty == 3 && f.rm == 0 && f.c == 0
  | .xpAnd _ f => sDst f.d && sSrc f.a && sSrc f.b && f.ty == 3 && f.rm == 0 && f.c == 0
  | .xpOr _ f => sDst f.d && sSrc f.a && sSrc f.b && f.ty == 3 && f.rm == 0 && f.c == 0
  | .xpXor _ f => sDst f.d && sSrc f.a && sSrc f.b && f.ty == 3 && f.rm == 0 && f.c == 0
  | .xpShl _ f => sDst f.d && sSrc f.a && sSrc f.b && f.ty == 3 && f.rm == 0 && f.c == 0
  | .xpShr _ f => sDst f.d && sSrc f.a && sSrc f.b && f.ty == 3 && f.rm == 0 && f.c == 0
  | .xpSel _ f => sDst f.d && sSrc f.a && sSrc f.b && f.ty == 3 && f.rm == 0 && below f.c 8
  | .xpAddi _ f => sDst f.d && sSrc f.a
  | .xpMovi _ f => sDst f.d && f.a == 0
  | .xpShli _ f => sDst f.d && sSrc f.a && shiftImm f.imm
  | .xpCmpEq _ f => below f.d 8 && sSrc f.a && sSrc f.b && f.c == 0 && f.ty == 3 && f.rm == 0
  | .xpCmpNe _ f => below f.d 8 && sSrc f.a && sSrc f.b && f.c == 0 && f.ty == 3 && f.rm == 0
  | .xpCmpLt _ f => below f.d 8 && sSrc f.a && sSrc f.b && f.c == 0 && f.ty == 3 && f.rm == 0
  | .xpCmpLe _ f => below f.d 8 && sSrc f.a && sSrc f.b && f.c == 0 && f.ty == 3 && f.rm == 0
  | .xpCmpLtu _ f => below f.d 8 && sSrc f.a && sSrc f.b && f.c == 0 && f.ty == 3 && f.rm == 0
  | .xpCmpLeu _ f => below f.d 8 && sSrc f.a && sSrc f.b && f.c == 0 && f.ty == 3 && f.rm == 0
  | .xpPand _ f => below f.d 8 && below f.a 8 && below f.b 8 && f.c == 0 && f.ty == 3 && f.rm == 0
  | .xpPor _ f => below f.d 8 && below f.a 8 && below f.b 8 && f.c == 0 && f.ty == 3 && f.rm == 0
  | .xpPnot _ f => below f.d 8 && below f.a 8 && f.b == 0 && f.c == 0 && f.ty == 3 && f.rm == 0
  | .xpBr _ f => f.d == 0 && f.z == 0
  | .xpJmp h f => f.d == 0 && f.z == 0 && h.free
  | .brb _ f => f.d == 0 && f.z == 0
  | .vadd _ f => vSrc f.a && vSrc f.b && intTy f.ty && f.c == 0 && f.rm != 3
  | .vsub _ f => vSrc f.a && vSrc f.b && intTy f.ty && f.c == 0 && f.rm != 3
  | .vmul _ f => vSrc f.a && vSrc f.b && intTy f.ty && f.c == 0 && f.rm != 3
  | .vmulh _ f => vSrc f.a && vSrc f.b && intTy f.ty && f.c == 0 && f.rm == 0
  | .vmin _ f => vSrc f.a && vSrc f.b && intTy f.ty && f.c == 0 && f.rm == 0
  | .vmax _ f => vSrc f.a && vSrc f.b && intTy f.ty && f.c == 0 && f.rm == 0
  | .vminu _ f => vSrc f.a && vSrc f.b && intTy f.ty && f.c == 0 && f.rm == 0
  | .vmaxu _ f => vSrc f.a && vSrc f.b && intTy f.ty && f.c == 0 && f.rm == 0
  | .vand _ f => vSrc f.a && vSrc f.b && intTy f.ty && f.c == 0 && f.rm == 0
  | .vor _ f => vSrc f.a && vSrc f.b && intTy f.ty && f.c == 0 && f.rm == 0
  | .vxor _ f => vSrc f.a && vSrc f.b && intTy f.ty && f.c == 0 && f.rm == 0
  | .vabsd _ f => vSrc f.a && vSrc f.b && intTy f.ty && f.c == 0 && f.rm != 3
  | .vshl _ f => vSrc f.a && vSrc f.b && intTy f.ty && f.c == 0 && f.rm != 3
  | .vshr _ f => vSrc f.a && vSrc f.b && intTy f.ty && f.c == 0 && f.rm == 0
  | .vsar _ f => vSrc f.a && vSrc f.b && intTy f.ty && f.c == 0 && f.rm == 0
  | .vfshl _ f => vSrc f.a && vSrc f.b && vSrc f.c && intTy f.ty && f.rm == 0
  | .vfshr _ f => vSrc f.a && vSrc f.b && vSrc f.c && intTy f.ty && f.rm == 0
  | .vclz _ f => vSrc f.a && f.b == 0 && f.c == 0 && intTy f.ty && f.rm == 0
  | .vpopc _ f => vSrc f.a && f.b == 0 && f.c == 0 && intTy f.ty && f.rm == 0
  | .vcmpEq _ f => below f.d 8 && vSrc f.a && vSrc f.b && f.c == 0 && f.rm == 0
  | .vcmpNe _ f => below f.d 8 && vSrc f.a && vSrc f.b && f.c == 0 && f.rm == 0
  | .vcmpLt _ f => below f.d 8 && vSrc f.a && vSrc f.b && f.c == 0 && f.rm == 0
  | .vcmpLe _ f => below f.d 8 && vSrc f.a && vSrc f.b && f.c == 0 && f.rm == 0
  | .vcmpLtu _ f => below f.d 8 && vSrc f.a && vSrc f.b && f.c == 0 && f.rm == 0
  | .vcmpLeu _ f => below f.d 8 && vSrc f.a && vSrc f.b && f.c == 0 && f.rm == 0
  | .vsel _ f => vSrc f.a && vSrc f.b && below f.c 8 && f.rm == 0
  | .mand _ f => below f.d 8 && below f.a 8 && below f.b 8 && f.c == 0 && plain f
  | .mor _ f => below f.d 8 && below f.a 8 && below f.b 8 && f.c == 0 && plain f
  | .mnot _ f => below f.d 8 && below f.a 8 && f.b == 0 && f.c == 0 && plain f
  | .mpopc _ f => sDst f.d && below f.a 8 && f.b == 0 && f.c == 0 && intTy f.ty && f.rm == 0
  | .vfadd _ f => vSrc f.a && vSrc f.b && !intTy f.ty && f.c == 0
  | .vfsub _ f => vSrc f.a && vSrc f.b && !intTy f.ty && f.c == 0
  | .vfmul _ f => vSrc f.a && vSrc f.b && !intTy f.ty && f.c == 0
  | .vfma _ f => vSrc f.a && vSrc f.b && !intTy f.ty && vSrc f.c
  | .vfms _ f => vSrc f.a && vSrc f.b && !intTy f.ty && vSrc f.c
  | .vfmin _ f => vSrc f.a && vSrc f.b && !intTy f.ty && f.c == 0 && f.rm == 0
  | .vfmax _ f => vSrc f.a && vSrc f.b && !intTy f.ty && f.c == 0 && f.rm == 0
  | .vfabs _ f => vSrc f.a && f.b == 0 && f.c == 0 && !intTy f.ty && f.rm == 0
  | .vfneg _ f => vSrc f.a && f.b == 0 && f.c == 0 && !intTy f.ty && f.rm == 0
  | .vfrcp _ f => vSrc f.a && f.b == 0 && f.c == 0 && f.ty == 6 && f.rm == 0
  | .vfrsq _ f => vSrc f.a && f.b == 0 && f.c == 0 && f.ty == 6 && f.rm == 0
  | .vfexp2 _ f => vSrc f.a && f.b == 0 && f.c == 0 && f.ty == 6 && f.rm == 0
  | .vflog2 _ f => vSrc f.a && f.b == 0 && f.c == 0 && f.ty == 6 && f.rm == 0
  | .vfsqrt _ f => vSrc f.a && f.b == 0 && f.c == 0 && f.ty == 6 && f.rm == 0
  | .vfdiv _ f => vSrc f.a && vSrc f.b && f.c == 0 && f.ty == 6 && f.rm == 0
  | .vcvt _ f => vSrc f.a && f.b == 0 && cvtFields f && roundOk f
  | .vsrnd _ f => vSrc f.a && f.b == 0 && f.c == 0
  | .vquant _ f => vSrc f.a && below f.b 64 && below f.c 4 && (f.ty == 7 || (f.ty == 0 && f.rm == 0))
  | .vdeq _ f => vSrc f.a && below f.b 64 && below f.c 4 && (f.ty == 7 || f.ty == 0) && f.rm == 0
  | .vplane _ f => vSrc f.a && f.b == 0 && f.c == 0 && plain f
  | .vunplane _ f => vSrc f.a && f.b == 0 && 1 ≤ f.c.toNat && f.c.toNat ≤ 8 && plain f
  | .vrsum _ f => sDst f.d && vSrc f.a && f.b == 0 && below f.c 8 && roundOk f
  | .vrmax _ f => sDst f.d && vSrc f.a && f.b == 0 && below f.c 8 && f.rm == 0
  | .vrmin _ f => sDst f.d && vSrc f.a && f.b == 0 && below f.c 8 && f.rm == 0
  | .vrmaxi _ f => sDst f.d && vSrc f.a && f.b == 0 && below f.c 8 && f.rm == 0
  | .vpsum _ f => vSrc f.a && f.b == 0 && below f.c 8 && roundOk f
  | .vgmax _ f => vSrc f.a && f.b == 0 && groupFields f && f.rm == 0
  | .vgsum _ f => vSrc f.a && f.b == 0 && groupFields f && roundOk f
  | .vperm _ f => vSrc f.a && vSrc f.b && f.c == 0 && f.rm == 0
  | .vbcast _ f => sSrc f.a && f.b == 0 && f.c == 0 && f.rm == 0
  | .vslide _ f => vSrc f.a && vSrc f.b && below f.c (lanesOf f.ty) && f.rm == 0
  | .vcomp _ f => vSrc f.a && f.b == 0 && below f.c 8 && f.rm == 0
  | .vexp _ f => vSrc f.a && f.b == 0 && below f.c 8 && f.rm == 0
  | .vmovi _ f => f.a == 0
  | .qpop _ f => below f.a 8 && f.b == 0 && f.c == 0 && plain f
  | .qpopm _ f => below f.a 8 && below f.b 8 && f.c == 0 && plain f
  | .qpush _ f => below f.d 4 && vSrc f.a && f.b == 0 && f.c == 0 && plain f
  | .qpushm _ f => below f.d 4 && vSrc f.a && below f.b 8 && f.c == 0 && plain f
  | .qcnt _ f => sDst f.d && below f.a 14 && f.b == 0 && f.c == 0 && plain f
  | .vldb _ f => bufFields f false && bufDst f
  | .vstb _ f => bufFields f false && bufSrc f
  | .vstbm _ f => bufFields f true && bufSrc f
  | .loop h f => f.d == 0 && f.imm.toNat < 0x10000 && h.free
  | .lbrk h f => empty f && h.free
  | .oset _ f => below f.d 8 && f.a == 0
  | .oadd _ f => below f.d 8 && f.a == 0
  | .defer _ f => below f.d 16 && vSrc f.a && vSrc f.b && below f.c 8 && f.rm == 0
  | .defcnt _ f => sDst f.d && below f.a 16 && f.b == 0 && f.c == 0 && plain f
  | .deftake _ f => below f.a 16 && f.b == 0 && f.c.toNat ≤ min 64 (lanesOf f.ty) && f.d.toNat % 512 ≤ 509 && f.rm == 0
  | .xpose _ f => run f 5 && f.ch == 0
  | .xposeP _ f => run f 5 && f.ch == 0
  | .spill _ f => run f 4 && f.ch == 0
  | .xpFill _ f => run f 4 && f.ch == 0
  | .view _ f => below f.d 4 && sSrc f.a && f.num == 0
  | .xpWaitAny _ f => waits f && f.all == 0
  | .xpWaitAll _ f => waits f && f.all == 1
  | .claim _ f => below f.x 64 && f.ch.toNat < 4 && unqueued f
  | .release _ f => f.x == 0 && f.ch.toNat < 4 && unqueued f
  | .tpri _ f => below f.x 64 && f.ch.toNat < 4 && unqueued f
  | .wload _ f => run f 3 && f.ch.toNat < 4
  | .wloadp _ f => run f 3 && f.ch.toNat < 4
  | .mstream _ f => run f 4 && f.ch.toNat < 4
  | .mstreamp _ f => run f 4 && f.ch.toNat < 4
  | .mvstream _ f => run f 4 && f.ch.toNat < 4
  | .teob _ f => f.x == 0 && f.ch.toNat < 4
  | .tdrain _ f => f.x == 0 && f.ch.toNat < 4
  | .tacs _ f => sDst f.d && f.a == 0 && f.num.toNat < 4
  | .tacsClr _ f => sDst f.d && f.a == 0 && 4 ≤ f.num.toNat && f.num.toNat < 8
  | .tchk _ f => sDst f.d && f.a == 0 && f.num.toNat < 4
  | .tchkClr _ f => sDst f.d && f.a == 0 && 4 ≤ f.num.toNat && f.num.toNat < 8
  | .swap h f => empty f && h.free
  | .commit h f => empty f && h.free
  | .halt h f => empty f && h.free
  | .slip h f => f.d == 0 && f.a == 0 && 1 ≤ f.num.toNat && f.num.toNat ≤ 4096 && h.free
  | .mark h f => f.d == 0 && f.a == 0 && f.num.toNat < 0x10000 && h.free
  | .resultLand _ => true
  | .aqEntryLand _ _ _ _ => true
  | .waitReread _ => true
  | .waitTimeout _ => true
  | .twaitTimeout _ _ => true
  | .checkerMatch _ _ => true
  | .contextQuantumSwitch _ => true
  | .monitorEvent _ _ => true
  | .overlapCheckComplete _ _ => true
  | .dispatchPlace _ => true
  | .gangFairnessTimeout _ _ => true
  | .steal _ => true
  | .preloadComplete _ _ _ => true
  | .shadowFillComplete _ _ => true
  | .taskStart _ _ _ => true
  | .discardComplete _ _ _ => true
  | .taskHalted _ _ => true
  | .copyBackStart _ _ => true
  | .copyBackComplete _ _ => true
  | .taskRetire _ _ => true
  | .cancelPropagate _ _ => true
  | .engineCommandStart _ _ _ => true
  | .engineUnitLand _ _ _ => true
  | .engineCommandComplete _ _ _ => true
  | .boundOverrun _ _ _ => true
  | .trellisCommandStart _ _ _ => true
  | .wloadComplete _ _ _ => true
  | .streamRowEnter _ _ _ => true
  | .streamRowLand _ _ _ => true
  | .mvstreamColumnLand _ _ _ => true
  | .releaseDrainEnd _ _ _ => true
  | .phaseRestart _ _ => true
  | .tlbWalkComplete _ _ _ _ _ => true
  | .shootdownComplete _ => true
  | .cellReady _ => true
  | .cellWaitTimeout _ => true
  | .vintageFree _ _ => true
  | .foldTaskStart _ _ => true
  | .foldTaskRetire _ _ => true
  | .patrolScrub _ _ => true
  | .scoreHalve => true
  | .targetedTestStart _ => true
  | .targetedTestEnd _ _ => true
  | .powerReport _ => true
  | .temperatureSample _ _ => true
  | .eventResend _ => true
  | .uftPut f => frameOk f
  | .uftEnd f => frameOk f
  | .uftGet f => frameOk f
  | .uftGetdata f => frameOk f
  | .uftAmo f => frameOk f
  | .uftPost f => frameOk f
  | .uftNotify f => frameOk f
  | .uftCancel f => frameOk f
  | .uftMcast f => frameOk f
  | .uftResult f => frameOk f
  | .uftAck f => frameOk f
  | .uftReset f => frameOk f
  | .frameDiscard _ => true
  | .ackTimer _ => true
  | .retransmitTimeout _ _ => true
  | .rateIncreaseTimer _ => true
  | .resetResend _ => true
  | .mcastReceiptWrite _ => true
  | .portLinkUp _ => true
  | .portLinkDown _ => true
  | .memread _ => true
  | .memwrite _ => true
  | .pmemread _ => true
  | .pmemwrite _ => true
  | .launch _ => true
  | .ptroot _ => true
  | .inval _ => true
  | .migrate _ => true
  | .pagein _ => true
  | .setid _ => true
  | .listset _ => true
  | .amoquery _ => true
  | .eventack _ => true
  | .uctBadOp _ => true
  | .hello _ => true
  | .keyx _ => true
  | .boot _ => true
  | .fwwrite _ => true
  | .ownerset _ => true
  | .resume _ => true
  | .powerOn => true
  | .bootStepTimeout => true
  | .handoffTimeout => true
  | .boardReset => true
  | .boardRecovRequest => true
  | .ckptStreamStart => true
  | .ckptStreamEnd _ => true
  | .encodingNotInstruction _ _ => true
  | .courierIllegalWord _ => true
  | .windowRecordsCommitted _ _ _ => true
  | .writePerformedAtHome _ => true
  | .answerTableExpiry _ _ => true
  | .powerLoss => true

end Sys2Proof
end

