-- ==== Sys2Proof/Decode.lean ====
section
/-! DEFINITION. The decoder of instruction words (R28 to R38, R53 to R64), of frames (R386, R387) and of host messages
(R399, R424), and beside it the encoder, written from the same tables. -/

namespace Sys2Proof

/-! ## Fields of the instruction word (R28) -/

/-- ENG, bits 63:61. -/
def engOf (w : Word) : Nat := (w.extractLsb' 61 3).toNat

/-- MAJOR, bits 59:55. -/
def majOf (w : Word) : Nat := (w.extractLsb' 55 5).toNat

/-- MINOR, bits 54:49. -/
def minOf (w : Word) : Nat := (w.extractLsb' 49 6).toNat

/-- S, N and PRED. -/
def hdrOf (w : Word) : Hdr := { s := w.getLsbD 60, n := w.getLsbD 48, pred := w.extractLsb' 45 3 }

/-- Body of format F3. -/
def f3Of (w : Word) : F3 :=
  { d := w.extractLsb' 35 10, a := w.extractLsb' 25 10, b := w.extractLsb' 15 10, c := w.extractLsb' 5 10,
    ty := w.extractLsb' 2 3, rm := w.extractLsb' 0 2 }

/-- Body of format FI. -/
def fiOf (w : Word) : FI := { d := w.extractLsb' 35 10, a := w.extractLsb' 25 10, imm := w.extractLsb' 0 25 }

/-- Body of format FL. -/
def flOf (w : Word) : FL := { d := w.extractLsb' 35 10, imm := w.extractLsb' 0 35 }

/-- Body of format FB. -/
def fbOf (w : Word) : FB := { d := w.extractLsb' 35 10, z := w.extractLsb' 25 10, off := w.extractLsb' 0 25 }

/-- Body of format FM. -/
def fmOf (w : Word) : FM :=
  { d := w.extractLsb' 35 10, a := w.extractLsb' 25 10, b := w.extractLsb' 15 10, sz := w.extractLsb' 13 2,
    v := w.extractLsb' 12 1, off := w.extractLsb' 0 12 }

/-- Body of format FE. -/
def feOf (w : Word) : FE :=
  { kp := w.extractLsb' 39 6, kc1 := w.extractLsb' 33 6, kc2 := w.extractLsb' 27 6, kc3 := w.extractLsb' 21 6,
    bnd := w.extractLsb' 13 8, x := w.extractLsb' 3 10, ch := w.extractLsb' 0 3 }

/-- Body of format FW. -/
def fwOf (w : Word) : FW :=
  { pd := w.extractLsb' 42 3, all := w.extractLsb' 41 1, wmask := w.extractLsb' 37 4, timeout := w.extractLsb' 17 20,
    z := w.extractLsb' 0 17 }

/-- Body of format FS. -/
def fsOf (w : Word) : FS := { d := w.extractLsb' 35 10, a := w.extractLsb' 25 10, num := w.extractLsb' 0 25 }

/-- NUM of an FS word. -/
def numOf (w : Word) : Nat := (w.extractLsb' 0 25).toNat

/-- NUM[3:0], the selector of WINCFG and VQUERY (R117, R123). -/
def numLow (w : Word) : Nat := (w.extractLsb' 0 4).toNat

/-! ## The opcode map (R56 to R62)

Instr has more constructors than Lean's run-time system can number, so the definitions that build an instruction are not
compiled; the kernel evaluates them. -/

noncomputable section

/-- MAJOR 0 of the control core (R56). -/
def decCc0 (min : Nat) (h : Hdr) (w : Word) : Option Instr :=
  match min with
  | 0 => some (.ccAdd h (f3Of w))
  | 1 => some (.ccSub h (f3Of w))
  | 2 => some (.ccAnd h (f3Of w))
  | 3 => some (.ccOr h (f3Of w))
  | 4 => some (.ccXor h (f3Of w))
  | 5 => some (.ccShl h (f3Of w))
  | 6 => some (.ccShr h (f3Of w))
  | 7 => some (.ccSar h (f3Of w))
  | 8 => some (.ccMul h (f3Of w))
  | 9 => some (.ccMulh h (f3Of w))
  | 10 => some (.ccDiv h (f3Of w))
  | 11 => some (.ccDivu h (f3Of w))
  | 12 => some (.ccRem h (f3Of w))
  | 13 => some (.ccRemu h (f3Of w))
  | 14 => some (.ccMin h (f3Of w))
  | 15 => some (.ccMax h (f3Of w))
  | 16 => some (.ccMinu h (f3Of w))
  | 17 => some (.ccMaxu h (f3Of w))
  | 18 => some (.ccSel h (f3Of w))
  | _ => none

/-- MAJOR 1 of the control core (R56). -/
def decCc1 (min : Nat) (h : Hdr) (w : Word) : Option Instr :=
  match min with
  | 0 => some (.ccAddi h (fiOf w))
  | 1 => some (.ccAndi h (fiOf w))
  | 2 => some (.ccOri h (fiOf w))
  | 3 => some (.ccXori h (fiOf w))
  | 4 => some (.ccShli h (fiOf w))
  | 5 => some (.ccShri h (fiOf w))
  | 6 => some (.ccSari h (fiOf w))
  | 7 => some (.ccMuli h (fiOf w))
  | 8 => some (.ccLui h (fiOf w))
  | _ => none

/-- MAJOR 2 of the control core (R56). -/
def decCc2 (min : Nat) (h : Hdr) (w : Word) : Option Instr :=
  match min with
  | 0 => some (.ccCmpEq h (f3Of w))
  | 1 => some (.ccCmpNe h (f3Of w))
  | 2 => some (.ccCmpLt h (f3Of w))
  | 3 => some (.ccCmpLe h (f3Of w))
  | 4 => some (.ccCmpLtu h (f3Of w))
  | 5 => some (.ccCmpLeu h (f3Of w))
  | 6 => some (.ccCmpiEq h (fiOf w))
  | 7 => some (.ccCmpiNe h (fiOf w))
  | 8 => some (.ccCmpiLt h (fiOf w))
  | 9 => some (.ccCmpiLe h (fiOf w))
  | 10 => some (.ccCmpiLtu h (fiOf w))
  | 11 => some (.ccCmpiLeu h (fiOf w))
  | 12 => some (.ccPand h (f3Of w))
  | 13 => some (.ccPor h (f3Of w))
  | 14 => some (.ccPxor h (f3Of w))
  | 15 => some (.ccPnot h (f3Of w))
  | _ => none

/-- MAJOR 3 of the control core (R56). -/
def decCc3 (min : Nat) (h : Hdr) (w : Word) : Option Instr :=
  match min with
  | 0 => some (.ccBr h (fbOf w))
  | 1 => some (.ccJmp h (fbOf w))
  | 2 => some (.ccJmpr h (fbOf w))
  | 3 => some (.ccCall h (fbOf w))
  | 4 => some (.ccCallr h (fbOf w))
  | 5 => some (.ccRet h (fbOf w))
  | _ => none

/-- MAJOR 4 of the control core (R56). -/
def decCc4 (min : Nat) (h : Hdr) (w : Word) : Option Instr :=
  match min with
  | 0 => some (.ccLd h (fmOf w))
  | 1 => some (.ccLds h (fmOf w))
  | 2 => some (.ccSt h (fmOf w))
  | 3 => some (.ccLda h (fmOf w))
  | 4 => some (.ccStl h (fmOf w))
  | _ => none

/-- MAJOR 5 of the control core (R56). -/
def decCc5 (min : Nat) (h : Hdr) (w : Word) : Option Instr :=
  match min with
  | 0 => some (.ccAmoAdd h (fmOf w))
  | 1 => some (.ccAmoAnd h (fmOf w))
  | 2 => some (.ccAmoOr h (fmOf w))
  | 3 => some (.ccAmoXor h (fmOf w))
  | 4 => some (.ccAmoMin h (fmOf w))
  | 5 => some (.ccAmoMax h (fmOf w))
  | 6 => some (.ccAmoMinu h (fmOf w))
  | 7 => some (.ccAmoMaxu h (fmOf w))
  | 8 => some (.ccAmoSwap h (fmOf w))
  | 9 => some (.ccAmoCas h (fmOf w))
  | _ => none

/-- MAJOR 6 of the control core (R56). -/
def decCc6 (min : Nat) (h : Hdr) (w : Word) : Option Instr :=
  match min with
  | 0 => some (.ccFenceCore h (fsOf w))
  | 1 => some (.ccFenceDie h (fsOf w))
  | 2 => some (.ccFenceDev h (fsOf w))
  | 3 => some (.ccFenceDom h (fsOf w))
  | _ => none

/-- MAJOR 7 of the control core (R56). -/
def decCc7 (min : Nat) (h : Hdr) (w : Word) : Option Instr :=
  match min with
  | 0 => some (.post h (fsOf w))
  | 1 => some (.postNb h (fsOf w))
  | 2 => some (.postG h (fsOf w))
  | 3 => some (.rpost h (fsOf w))
  | 4 => some (.cancel h (fsOf w))
  | 5 => some (.twait h (fsOf w))
  | 6 => some (match numLow w with | 0 => .wincfgDispatchHold h (fsOf w) | 1 => .wincfgLetterboxAccept h (fsOf w) | _ => .wincfgPriorityCeiling h (fsOf w))
  | 7 => some (match (numOf w) with | 0 => .winqLiveEntries h (fsOf w) | 1 => .winqFreeEntries h (fsOf w) | 2 => .winqLetterbox h (fsOf w) | 3 => .winqNextSerial h (fsOf w) | 4 => .winqLowestLive h (fsOf w) | 5 => .winqFreeRename h (fsOf w) | _ => .winqTaskState h (fsOf w))
  | _ => none

/-- MAJOR 8 of the control core (R56). -/
def decCc8 (min : Nat) (h : Hdr) (w : Word) : Option Instr :=
  match min with
  | 0 => some (.valloc h (fsOf w))
  | 1 => some (.vallocNb h (fsOf w))
  | 2 => some (.vret h (fsOf w))
  | 3 => some (.vfold h (fsOf w))
  | 4 => some (if numLow w = 0 then .vqueryState h (fsOf w) else .vqueryAvailable h (fsOf w))
  | _ => none

/-- MAJOR 9 of the control core (R56). -/
def decCc9 (min : Nat) (h : Hdr) (w : Word) : Option Instr :=
  match min with
  | 0 => some (.ccWaitAny h (fwOf w))
  | 1 => some (.ccWaitAll h (fwOf w))
  | _ => none

/-- MAJOR 10 of the control core (R56). -/
def decCc10 (min : Nat) (h : Hdr) (w : Word) : Option Instr :=
  match min with
  | 0 => some (.trap h (fsOf w))
  | 1 => some (.eret h (fsOf w))
  | 2 => some (if numOf w = 0x16 then .sysrChkcnt h (fsOf w) else .sysr h (fsOf w))
  | 3 => some (if numOf w = 0x15 then .syswVlim h (fsOf w) else if numOf w = 0x20 then .syswCtxst h (fsOf w) else if numOf w = 0x220000 then .syswInj h (fsOf w) else if numOf w = 0x220001 then .syswInjmem h (fsOf w) else .sysw h (fsOf w))
  | 4 => some (.ccHalt h (fsOf w))
  | 5 => some (.nop h (fsOf w))
  | 6 => some (.ctxsw h (fsOf w))
  | 7 => some (.ckpt h (fsOf w))
  | _ => none

/-- The opcodes of the control core (R56). -/
def decCc (maj min : Nat) (h : Hdr) (w : Word) : Option Instr :=
  match maj with
  | 0 => decCc0 min h w
  | 1 => decCc1 min h w
  | 2 => decCc2 min h w
  | 3 => decCc3 min h w
  | 4 => decCc4 min h w
  | 5 => decCc5 min h w
  | 6 => decCc6 min h w
  | 7 => decCc7 min h w
  | 8 => decCc8 min h w
  | 9 => decCc9 min h w
  | 10 => decCc10 min h w
  | _ => none

/-- MAJOR 0 of the access processor (R57). -/
def decAp0 (min : Nat) (h : Hdr) (w : Word) : Option Instr :=
  match min with
  | 0 => some (.apAdd h (f3Of w))
  | 1 => some (.apSub h (f3Of w))
  | 2 => some (.apAnd h (f3Of w))
  | 3 => some (.apOr h (f3Of w))
  | 4 => some (.apXor h (f3Of w))
  | 5 => some (.apShl h (f3Of w))
  | 6 => some (.apShr h (f3Of w))
  | 7 => some (.apMul h (f3Of w))
  | 8 => some (.apMadd h (f3Of w))
  | 9 => some (.apMin h (f3Of w))
  | 10 => some (.apMax h (f3Of w))
  | 11 => some (.apSel h (f3Of w))
  | _ => none

/-- MAJOR 1 of the access processor (R57). -/
def decAp1 (min : Nat) (h : Hdr) (w : Word) : Option Instr :=
  match min with
  | 0 => some (.apAddi h (fiOf w))
  | 1 => some (.apAndi h (fiOf w))
  | 2 => some (.apOri h (fiOf w))
  | 3 => some (.apShli h (fiOf w))
  | 4 => some (.apShri h (fiOf w))
  | 5 => some (.apMuli h (fiOf w))
  | 6 => some (.apLui h (fiOf w))
  | _ => none

/-- MAJOR 2 of the access processor (R57). -/
def decAp2 (min : Nat) (h : Hdr) (w : Word) : Option Instr :=
  match min with
  | 0 => some (.apCmpEq h (f3Of w))
  | 1 => some (.apCmpNe h (f3Of w))
  | 2 => some (.apCmpLt h (f3Of w))
  | 3 => some (.apCmpLe h (f3Of w))
  | 4 => some (.apCmpLtu h (f3Of w))
  | 5 => some (.apCmpLeu h (f3Of w))
  | 6 => some (.apCmpiEq h (fiOf w))
  | 7 => some (.apCmpiNe h (fiOf w))
  | 8 => some (.apCmpiLt h (fiOf w))
  | 9 => some (.apCmpiLe h (fiOf w))
  | 10 => some (.apCmpiLtu h (fiOf w))
  | 11 => some (.apCmpiLeu h (fiOf w))
  | 12 => some (.apPand h (f3Of w))
  | 13 => some (.apPor h (f3Of w))
  | 14 => some (.apPnot h (f3Of w))
  | _ => none

/-- MAJOR 3 of the access processor (R57). -/
def decAp3 (min : Nat) (h : Hdr) (w : Word) : Option Instr :=
  match min with
  | 0 => some (.apBr h (fbOf w))
  | 1 => some (.apJmp h (fbOf w))
  | 2 => some (.brq h (fbOf w))
  | _ => none

/-- MAJOR 4 of the access processor (R57). -/
def decAp4 (min : Nat) (h : Hdr) (w : Word) : Option Instr :=
  match min with
  | 0 => some (.ldq h (fmOf w))
  | 1 => some (.ldqV h (fmOf w))
  | 2 => some (.gathq h (fmOf w))
  | 3 => some (.apLds h (fmOf w))
  | 4 => some (.apLdsV h (fmOf w))
  | _ => none

/-- MAJOR 5 of the access processor (R57). -/
def decAp5 (min : Nat) (h : Hdr) (w : Word) : Option Instr :=
  match min with
  | 0 => some (.sts h (fmOf w))
  | 1 => some (.stq h (fmOf w))
  | 2 => some (.stqM h (fmOf w))
  | 3 => some (.scatq h (fmOf w))
  | _ => none

/-- MAJOR 6 of the access processor (R57). -/
def decAp6 (min : Nat) (h : Hdr) (w : Word) : Option Instr :=
  match min with
  | 0 => some (.mtest h (fsOf w))
  | 1 => some (.pgreq h (fsOf w))
  | 2 => some (.pgquery h (fsOf w))
  | _ => none

/-- MAJOR 7 of the access processor (R57). -/
def decAp7 (min : Nat) (h : Hdr) (w : Word) : Option Instr :=
  match min with
  | 0 => some (.apAmoAdd h (fmOf w))
  | 1 => some (.apAmoAnd h (fmOf w))
  | 2 => some (.apAmoOr h (fmOf w))
  | 3 => some (.apAmoXor h (fmOf w))
  | 4 => some (.apAmoMin h (fmOf w))
  | 5 => some (.apAmoMax h (fmOf w))
  | 6 => some (.apAmoMinu h (fmOf w))
  | 7 => some (.apAmoMaxu h (fmOf w))
  | 8 => some (.apAmoSwap h (fmOf w))
  | 9 => some (.apAmoCas h (fmOf w))
  | 10 => some (.fadd h (fmOf w))
  | _ => none

/-- MAJOR 8 of the access processor (R57). -/
def decAp8 (min : Nat) (h : Hdr) (w : Word) : Option Instr :=
  match min with
  | 0 => some (.apLda h (fmOf w))
  | 1 => some (.apStl h (fmOf w))
  | 2 => some (.apFenceCore h (fsOf w))
  | 3 => some (.apFenceDie h (fsOf w))
  | 4 => some (.apFenceDev h (fsOf w))
  | 5 => some (.apFenceDom h (fsOf w))
  | _ => none

/-- MAJOR 9 of the access processor (R57). -/
def decAp9 (min : Nat) (h : Hdr) (w : Word) : Option Instr :=
  match min with
  | 0 => some (.barinit h (fmOf w))
  | 1 => some (.barexp h (fmOf w))
  | 2 => some (.bararr h (fmOf w))
  | 3 => some (.barq h (fmOf w))
  | _ => none

/-- MAJOR 10 of the access processor (R57). -/
def decAp10 (min : Nat) (h : Hdr) (w : Word) : Option Instr :=
  match min with
  | 0 => some (.seal h (fsOf w))
  | 1 => some (.unseal h (fsOf w))
  | _ => none

/-- MAJOR 11 of the access processor (R57). -/
def decAp11 (min : Nat) (h : Hdr) (w : Word) : Option Instr :=
  match min with
  | 0 => some (.apWaitAny h (fwOf w))
  | 1 => some (.apWaitAll h (fwOf w))
  | 2 => some (.wprd h (fsOf w))
  | _ => none

/-- MAJOR 12 of the access processor (R57). -/
def decAp12 (min : Nat) (h : Hdr) (w : Word) : Option Instr :=
  match min with
  | 0 => some (.tkclr h (fsOf w))
  | 1 => some (.tktest h (fsOf w))
  | _ => none

/-- The opcodes of the access processor (R57). -/
def decAp (maj min : Nat) (h : Hdr) (w : Word) : Option Instr :=
  match maj with
  | 0 => decAp0 min h w
  | 1 => decAp1 min h w
  | 2 => decAp2 min h w
  | 3 => decAp3 min h w
  | 4 => decAp4 min h w
  | 5 => decAp5 min h w
  | 6 => decAp6 min h w
  | 7 => decAp7 min h w
  | 8 => decAp8 min h w
  | 9 => decAp9 min h w
  | 10 => decAp10 min h w
  | 11 => decAp11 min h w
  | 12 => decAp12 min h w
  | _ => none

/-- MAJOR 0 of the engine commands (R58). -/
def decEc0 (min : Nat) (h : Hdr) (w : Word) : Option Instr :=
  match min with
  | 0 => some (.ecCopy h (feOf w))
  | 1 => some (.ecCopyV h (feOf w))
  | 2 => some (.ecFill h (feOf w))
  | _ => none

/-- MAJOR 1 of the engine commands (R58). -/
def decEc1 (min : Nat) (h : Hdr) (w : Word) : Option Instr :=
  match min with
  | 0 => some (.gather h (feOf w))
  | 1 => some (.scatter h (feOf w))
  | _ => none

/-- MAJOR 2 of the engine commands (R58). -/
def decEc2 (min : Nat) (h : Hdr) (w : Word) : Option Instr :=
  match min with
  | 0 => some (.cstream h (feOf w))
  | _ => none

/-- MAJOR 3 of the engine commands (R58). -/
def decEc3 (min : Nat) (h : Hdr) (w : Word) : Option Instr :=
  match min with
  | 0 => some (.route h (feOf w))
  | 1 => some (.rcsnap h (feOf w))
  | 2 => some (.rcread h (feOf w))
  | _ => none

/-- MAJOR 4 of the engine commands (R58). -/
def decEc4 (min : Nat) (h : Hdr) (w : Word) : Option Instr :=
  match min with
  | 0 => some (.courier h (feOf w))
  | _ => none

/-- MAJOR 5 of the engine commands (R58). -/
def decEc5 (min : Nat) (h : Hdr) (w : Word) : Option Instr :=
  match min with
  | 0 => some (.spawn h (feOf w))
  | _ => none

/-- MAJOR 6 of the engine commands (R58). -/
def decEc6 (min : Nat) (h : Hdr) (w : Word) : Option Instr :=
  match min with
  | 0 => some (.rput h (feOf w))
  | 1 => some (.rget h (feOf w))
  | 2 => some (.ramo h (feOf w))
  | 3 => some (.mcast h (feOf w))
  | _ => none

/-- The opcodes of the engine commands (R58). -/
def decEc (maj min : Nat) (h : Hdr) (w : Word) : Option Instr :=
  match maj with
  | 0 => decEc0 min h w
  | 1 => decEc1 min h w
  | 2 => decEc2 min h w
  | 3 => decEc3 min h w
  | 4 => decEc4 min h w
  | 5 => decEc5 min h w
  | 6 => decEc6 min h w
  | _ => none

/-- MAJOR 0 of the execute processor (R59). -/
def decXp0 (min : Nat) (h : Hdr) (w : Word) : Option Instr :=
  match min with
  | 0 => some (.xpAdd h (f3Of w))
  | 1 => some (.xpSub h (f3Of w))
  | 2 => some (.xpMul h (f3Of w))
  | 3 => some (.xpAnd h (f3Of w))
  | 4 => some (.xpOr h (f3Of w))
  | 5 => some (.xpXor h (f3Of w))
  | 6 => some (.xpShl h (f3Of w))
  | 7 => some (.xpShr h (f3Of w))
  | 8 => some (.xpSel h (f3Of w))
  | _ => none

/-- MAJOR 1 of the execute processor (R59). -/
def decXp1 (min : Nat) (h : Hdr) (w : Word) : Option Instr :=
  match min with
  | 0 => some (.xpAddi h (fiOf w))
  | 1 => some (.xpMovi h (fiOf w))
  | 2 => some (.xpShli h (fiOf w))
  | _ => none

/-- MAJOR 2 of the execute processor (R59). -/
def decXp2 (min : Nat) (h : Hdr) (w : Word) : Option Instr :=
  match min with
  | 0 => some (.xpCmpEq h (f3Of w))
  | 1 => some (.xpCmpNe h (f3Of w))
  | 2 => some (.xpCmpLt h (f3Of w))
  | 3 => some (.xpCmpLe h (f3Of w))
  | 4 => some (.xpCmpLtu h (f3Of w))
  | 5 => some (.xpCmpLeu h (f3Of w))
  | 6 => some (.xpPand h (f3Of w))
  | 7 => some (.xpPor h (f3Of w))
  | 8 => some (.xpPnot h (f3Of w))
  | _ => none

/-- MAJOR 3 of the execute processor (R59). -/
def decXp3 (min : Nat) (h : Hdr) (w : Word) : Option Instr :=
  match min with
  | 0 => some (.xpBr h (fbOf w))
  | 1 => some (.xpJmp h (fbOf w))
  | 2 => some (.brb h (fbOf w))
  | _ => none

/-- MAJOR 4 of the execute processor (R59). -/
def decXp4 (min : Nat) (h : Hdr) (w : Word) : Option Instr :=
  match min with
  | 0 => some (.vadd h (f3Of w))
  | 1 => some (.vsub h (f3Of w))
  | 2 => some (.vmul h (f3Of w))
  | 3 => some (.vmulh h (f3Of w))
  | 4 => some (.vmin h (f3Of w))
  | 5 => some (.vmax h (f3Of w))
  | 6 => some (.vminu h (f3Of w))
  | 7 => some (.vmaxu h (f3Of w))
  | 8 => some (.vand h (f3Of w))
  | 9 => some (.vor h (f3Of w))
  | 10 => some (.vxor h (f3Of w))
  | 11 => some (.vabsd h (f3Of w))
  | _ => none

/-- MAJOR 5 of the execute processor (R59). -/
def decXp5 (min : Nat) (h : Hdr) (w : Word) : Option Instr :=
  match min with
  | 0 => some (.vshl h (f3Of w))
  | 1 => some (.vshr h (f3Of w))
  | 2 => some (.vsar h (f3Of w))
  | 3 => some (.vfshl h (f3Of w))
  | 4 => some (.vfshr h (f3Of w))
  | 5 => some (.vclz h (f3Of w))
  | 6 => some (.vpopc h (f3Of w))
  | _ => none

/-- MAJOR 6 of the execute processor (R59). -/
def decXp6 (min : Nat) (h : Hdr) (w : Word) : Option Instr :=
  match min with
  | 0 => some (.vcmpEq h (f3Of w))
  | 1 => some (.vcmpNe h (f3Of w))
  | 2 => some (.vcmpLt h (f3Of w))
  | 3 => some (.vcmpLe h (f3Of w))
  | 4 => some (.vcmpLtu h (f3Of w))
  | 5 => some (.vcmpLeu h (f3Of w))
  | 6 => some (.vsel h (f3Of w))
  | 7 => some (.mand h (f3Of w))
  | 8 => some (.mor h (f3Of w))
  | 9 => some (.mnot h (f3Of w))
  | 10 => some (.mpopc h (f3Of w))
  | _ => none

/-- MAJOR 7 of the execute processor (R59). -/
def decXp7 (min : Nat) (h : Hdr) (w : Word) : Option Instr :=
  match min with
  | 0 => some (.vfadd h (f3Of w))
  | 1 => some (.vfsub h (f3Of w))
  | 2 => some (.vfmul h (f3Of w))
  | 3 => some (.vfma h (f3Of w))
  | 4 => some (.vfms h (f3Of w))
  | 5 => some (.vfmin h (f3Of w))
  | 6 => some (.vfmax h (f3Of w))
  | 7 => some (.vfabs h (f3Of w))
  | 8 => some (.vfneg h (f3Of w))
  | _ => none

/-- MAJOR 8 of the execute processor (R59). -/
def decXp8 (min : Nat) (h : Hdr) (w : Word) : Option Instr :=
  match min with
  | 0 => some (.vfrcp h (f3Of w))
  | 1 => some (.vfrsq h (f3Of w))
  | 2 => some (.vfexp2 h (f3Of w))
  | 3 => some (.vflog2 h (f3Of w))
  | 4 => some (.vfsqrt h (f3Of w))
  | 5 => some (.vfdiv h (f3Of w))
  | _ => none

/-- MAJOR 9 of the execute processor (R59). -/
def decXp9 (min : Nat) (h : Hdr) (w : Word) : Option Instr :=
  match min with
  | 0 => some (.vcvt h (f3Of w))
  | 1 => some (.vsrnd h (f3Of w))
  | 2 => some (.vquant h (f3Of w))
  | 3 => some (.vdeq h (f3Of w))
  | 4 => some (.vplane h (f3Of w))
  | 5 => some (.vunplane h (f3Of w))
  | _ => none

/-- MAJOR 10 of the execute processor (R59). -/
def decXp10 (min : Nat) (h : Hdr) (w : Word) : Option Instr :=
  match min with
  | 0 => some (.vrsum h (f3Of w))
  | 1 => some (.vrmax h (f3Of w))
  | 2 => some (.vrmin h (f3Of w))
  | 3 => some (.vrmaxi h (f3Of w))
  | 4 => some (.vpsum h (f3Of w))
  | 5 => some (.vgmax h (f3Of w))
  | 6 => some (.vgsum h (f3Of w))
  | _ => none

/-- MAJOR 11 of the execute processor (R59). -/
def decXp11 (min : Nat) (h : Hdr) (w : Word) : Option Instr :=
  match min with
  | 0 => some (.vperm h (f3Of w))
  | 1 => some (.vbcast h (f3Of w))
  | 2 => some (.vslide h (f3Of w))
  | 3 => some (.vcomp h (f3Of w))
  | 4 => some (.vexp h (f3Of w))
  | 5 => some (.vmovi h (fiOf w))
  | _ => none

/-- The opcodes of the execute processor (R59). -/
def decXp (maj min : Nat) (h : Hdr) (w : Word) : Option Instr :=
  match maj with
  | 0 => decXp0 min h w
  | 1 => decXp1 min h w
  | 2 => decXp2 min h w
  | 3 => decXp3 min h w
  | 4 => decXp4 min h w
  | 5 => decXp5 min h w
  | 6 => decXp6 min h w
  | 7 => decXp7 min h w
  | 8 => decXp8 min h w
  | 9 => decXp9 min h w
  | 10 => decXp10 min h w
  | 11 => decXp11 min h w
  | _ => none

/-- MAJOR 0 of the XP queues, buffers, loop (R60). -/
def decXl0 (min : Nat) (h : Hdr) (w : Word) : Option Instr :=
  match min with
  | 0 => some (.qpop h (f3Of w))
  | 1 => some (.qpopm h (f3Of w))
  | 2 => some (.qpush h (f3Of w))
  | 3 => some (.qpushm h (f3Of w))
  | 4 => some (.qcnt h (f3Of w))
  | _ => none

/-- MAJOR 1 of the XP queues, buffers, loop (R60). -/
def decXl1 (min : Nat) (h : Hdr) (w : Word) : Option Instr :=
  match min with
  | 0 => some (.vldb h (fmOf w))
  | 1 => some (.vstb h (fmOf w))
  | 2 => some (.vstbm h (fmOf w))
  | _ => none

/-- MAJOR 2 of the XP queues, buffers, loop (R60). -/
def decXl2 (min : Nat) (h : Hdr) (w : Word) : Option Instr :=
  match min with
  | 0 => some (.loop h (flOf w))
  | 1 => some (.lbrk h (fsOf w))
  | 2 => some (.oset h (fiOf w))
  | 3 => some (.oadd h (fiOf w))
  | _ => none

/-- MAJOR 3 of the XP queues, buffers, loop (R60). -/
def decXl3 (min : Nat) (h : Hdr) (w : Word) : Option Instr :=
  match min with
  | 0 => some (.defer h (f3Of w))
  | 1 => some (.defcnt h (f3Of w))
  | 2 => some (.deftake h (f3Of w))
  | _ => none

/-- MAJOR 4 of the XP queues, buffers, loop (R60). -/
def decXl4 (min : Nat) (h : Hdr) (w : Word) : Option Instr :=
  match min with
  | 0 => some (.xpose h (feOf w))
  | 1 => some (.xposeP h (feOf w))
  | _ => none

/-- MAJOR 5 of the XP queues, buffers, loop (R60). -/
def decXl5 (min : Nat) (h : Hdr) (w : Word) : Option Instr :=
  match min with
  | 0 => some (.spill h (feOf w))
  | 1 => some (.xpFill h (feOf w))
  | _ => none

/-- MAJOR 6 of the XP queues, buffers, loop (R60). -/
def decXl6 (min : Nat) (h : Hdr) (w : Word) : Option Instr :=
  match min with
  | 0 => some (.view h (fsOf w))
  | _ => none

/-- MAJOR 7 of the XP queues, buffers, loop (R60). -/
def decXl7 (min : Nat) (h : Hdr) (w : Word) : Option Instr :=
  match min with
  | 0 => some (.xpWaitAny h (fwOf w))
  | 1 => some (.xpWaitAll h (fwOf w))
  | _ => none

/-- The opcodes of the XP queues, buffers, loop (R60). -/
def decXl (maj min : Nat) (h : Hdr) (w : Word) : Option Instr :=
  match maj with
  | 0 => decXl0 min h w
  | 1 => decXl1 min h w
  | 2 => decXl2 min h w
  | 3 => decXl3 min h w
  | 4 => decXl4 min h w
  | 5 => decXl5 min h w
  | 6 => decXl6 min h w
  | 7 => decXl7 min h w
  | _ => none

/-- MAJOR 0 of the trellis commands (R61). -/
def decTr0 (min : Nat) (h : Hdr) (w : Word) : Option Instr :=
  match min with
  | 0 => some (.claim h (feOf w))
  | 1 => some (.release h (feOf w))
  | 2 => some (.tpri h (feOf w))
  | _ => none

/-- MAJOR 1 of the trellis commands (R61). -/
def decTr1 (min : Nat) (h : Hdr) (w : Word) : Option Instr :=
  match min with
  | 0 => some (.wload h (feOf w))
  | 1 => some (.wloadp h (feOf w))
  | _ => none

/-- MAJOR 2 of the trellis commands (R61). -/
def decTr2 (min : Nat) (h : Hdr) (w : Word) : Option Instr :=
  match min with
  | 0 => some (.mstream h (feOf w))
  | 1 => some (.mstreamp h (feOf w))
  | 2 => some (.mvstream h (feOf w))
  | _ => none

/-- MAJOR 3 of the trellis commands (R61). -/
def decTr3 (min : Nat) (h : Hdr) (w : Word) : Option Instr :=
  match min with
  | 0 => some (.teob h (feOf w))
  | 1 => some (.tdrain h (feOf w))
  | _ => none

/-- MAJOR 4 of the trellis commands (R61). -/
def decTr4 (min : Nat) (h : Hdr) (w : Word) : Option Instr :=
  match min with
  | 0 => some (if numOf w < 4 then .tacs h (fsOf w) else .tacsClr h (fsOf w))
  | 1 => some (if numOf w < 4 then .tchk h (fsOf w) else .tchkClr h (fsOf w))
  | _ => none

/-- The opcodes of the trellis commands (R61). -/
def decTr (maj min : Nat) (h : Hdr) (w : Word) : Option Instr :=
  match maj with
  | 0 => decTr0 min h w
  | 1 => decTr1 min h w
  | 2 => decTr2 min h w
  | 3 => decTr3 min h w
  | 4 => decTr4 min h w
  | _ => none

/-- MAJOR 0 of the joint words (R62). -/
def decJn0 (min : Nat) (h : Hdr) (w : Word) : Option Instr :=
  match min with
  | 0 => some (.swap h (fsOf w))
  | 1 => some (.commit h (fsOf w))
  | 2 => some (.halt h (fsOf w))
  | _ => none

/-- MAJOR 1 of the joint words (R62). -/
def decJn1 (min : Nat) (h : Hdr) (w : Word) : Option Instr :=
  match min with
  | 0 => some (.slip h (fsOf w))
  | 1 => some (.mark h (fsOf w))
  | _ => none

/-- The opcodes of the joint words (R62). -/
def decJn (maj min : Nat) (h : Hdr) (w : Word) : Option Instr :=
  match maj with
  | 0 => decJn0 min h w
  | 1 => decJn1 min h w
  | _ => none

/-- Steps 3 and 4 of R53: the instruction an assigned opcode names; none if MAJOR or MINOR is not assigned. -/
def decodeOp (w : Word) : Option Instr :=
  match engOf w with
  | 0 => decAp (majOf w) (minOf w) (hdrOf w) w
  | 1 => decXp (majOf w) (minOf w) (hdrOf w) w
  | 2 => decTr (majOf w) (minOf w) (hdrOf w) w
  | 3 => decXl (majOf w) (minOf w) (hdrOf w) w
  | 4 => decEc (majOf w) (minOf w) (hdrOf w) w
  | 5 => decJn (majOf w) (minOf w) (hdrOf w) w
  | 7 => decCc (majOf w) (minOf w) (hdrOf w) w
  | _ => none

/-- The checks of R53, steps 1 to 6, on a word that a program counter reaches: ccSide says whether it is the control core's
(R29, R55). -/
def checkWord (ccSide : Bool) (w : Word) : Except DecodeError Instr :=
  if ccSide && engOf w != 7 then .error .illegalEng
  else if !ccSide && (engOf w == 6 || engOf w == 7) then .error .illegalEng
  else if ccSide && !w.getLsbD 60 then .error .reservedField
  else match decodeOp w with
    | none => .error .illegalOp
    | some i => if i.wf then .ok i else .error .reservedField

/-- The instruction a 64-bit word stands for on the processor its engine tag names. -/
def decodeWord (w : Word) : Option Instr :=
  match checkWord (engOf w == 7) w with
  | .ok i => some i
  | .error _ => none

/-! ## Courier words (R64) -/

/-- The checks of R64 on a courier word: OPC 31:28, CHAN 27:24, OPERAND 23:0. -/
def checkCourier (w : BitVec 32) : Except DecodeError Instr :=
  let i : Option Instr :=
    match (w.extractLsb' 28 4).toNat with
    | 0 => some (.cwCopy (w.extractLsb' 24 4) (w.extractLsb' 0 24))
    | 1 => some (.cwWait (w.extractLsb' 24 4) (w.extractLsb' 0 24))
    | 2 => some (.cwFlag (w.extractLsb' 0 24))
    | 3 => some (.cwLoop (w.extractLsb' 12 12) (w.extractLsb' 0 12))
    | 4 => some (.cwAdd (w.extractLsb' 0 24))
    | 5 => some .cwEnd
    | _ => none
  match i with
  | none => .error .illegalOp
  | some i =>
    let fixed : Bool := match (w.extractLsb' 28 4).toNat with
      | 0 => true
      | 1 => true
      | 5 => w.extractLsb' 0 28 == 0
      | _ => w.extractLsb' 24 4 == 0
    if i.wf && fixed then .ok i else .error .reservedField

/-! ## Encoding -/

/-- Body bits of format F3. -/
def f3Bits (f : F3) : BitVec 45 := f.d ++ (f.a ++ (f.b ++ (f.c ++ (f.ty ++ f.rm))))

/-- Body bits of format FI. -/
def fiBits (f : FI) : BitVec 45 := f.d ++ (f.a ++ f.imm)

/-- Body bits of format FL. -/
def flBits (f : FL) : BitVec 45 := f.d ++ f.imm

/-- Body bits of format FB. -/
def fbBits (f : FB) : BitVec 45 := f.d ++ (f.z ++ f.off)

/-- Body bits of format FM. -/
def fmBits (f : FM) : BitVec 45 := f.d ++ (f.a ++ (f.b ++ (f.sz ++ (f.v ++ f.off))))

/-- Body bits of format FE. -/
def feBits (f : FE) : BitVec 45 := f.kp ++ (f.kc1 ++ (f.kc2 ++ (f.kc3 ++ (f.bnd ++ (f.x ++ f.ch)))))

/-- Body bits of format FW. -/
def fwBits (f : FW) : BitVec 45 := f.pd ++ (f.all ++ (f.wmask ++ (f.timeout ++ f.z)))

/-- Body bits of format FS. -/
def fsBits (f : FS) : BitVec 45 := f.d ++ (f.a ++ f.num)

/-- A word from its engine tag, MAJOR, MINOR, header and body (R28). -/
def mkWord (eng : BitVec 3) (maj : BitVec 5) (min : BitVec 6) (h : Hdr) (body : BitVec 45) : Word :=
  eng ++ (BitVec.ofBool h.s ++ (maj ++ (min ++ (BitVec.ofBool h.n ++ (h.pred ++ body)))))

/-- The 64-bit word of an instruction, from the opcode map (R56 to R62); none for a courier word or an event. -/
def encodeWord : Instr → Option Word
  | .ccAdd h f => some (mkWord 7 0 0 h (f3Bits f))
  | .ccSub h f => some (mkWord 7 0 1 h (f3Bits f))
  | .ccAnd h f => some (mkWord 7 0 2 h (f3Bits f))
  | .ccOr h f => some (mkWord 7 0 3 h (f3Bits f))
  | .ccXor h f => some (mkWord 7 0 4 h (f3Bits f))
  | .ccShl h f => some (mkWord 7 0 5 h (f3Bits f))
  | .ccShr h f => some (mkWord 7 0 6 h (f3Bits f))
  | .ccSar h f => some (mkWord 7 0 7 h (f3Bits f))
  | .ccMul h f => some (mkWord 7 0 8 h (f3Bits f))
  | .ccMulh h f => some (mkWord 7 0 9 h (f3Bits f))
  | .ccDiv h f => some (mkWord 7 0 10 h (f3Bits f))
  | .ccDivu h f => some (mkWord 7 0 11 h (f3Bits f))
  | .ccRem h f => some (mkWord 7 0 12 h (f3Bits f))
  | .ccRemu h f => some (mkWord 7 0 13 h (f3Bits f))
  | .ccMin h f => some (mkWord 7 0 14 h (f3Bits f))
  | .ccMax h f => some (mkWord 7 0 15 h (f3Bits f))
  | .ccMinu h f => some (mkWord 7 0 16 h (f3Bits f))
  | .ccMaxu h f => some (mkWord 7 0 17 h (f3Bits f))
  | .ccSel h f => some (mkWord 7 0 18 h (f3Bits f))
  | .ccAddi h f => some (mkWord 7 1 0 h (fiBits f))
  | .ccAndi h f => some (mkWord 7 1 1 h (fiBits f))
  | .ccOri h f => some (mkWord 7 1 2 h (fiBits f))
  | .ccXori h f => some (mkWord 7 1 3 h (fiBits f))
  | .ccShli h f => some (mkWord 7 1 4 h (fiBits f))
  | .ccShri h f => some (mkWord 7 1 5 h (fiBits f))
  | .ccSari h f => some (mkWord 7 1 6 h (fiBits f))
  | .ccMuli h f => some (mkWord 7 1 7 h (fiBits f))
  | .ccLui h f => some (mkWord 7 1 8 h (fiBits f))
  | .ccCmpEq h f => some (mkWord 7 2 0 h (f3Bits f))
  | .ccCmpNe h f => some (mkWord 7 2 1 h (f3Bits f))
  | .ccCmpLt h f => some (mkWord 7 2 2 h (f3Bits f))
  | .ccCmpLe h f => some (mkWord 7 2 3 h (f3Bits f))
  | .ccCmpLtu h f => some (mkWord 7 2 4 h (f3Bits f))
  | .ccCmpLeu h f => some (mkWord 7 2 5 h (f3Bits f))
  | .ccCmpiEq h f => some (mkWord 7 2 6 h (fiBits f))
  | .ccCmpiNe h f => some (mkWord 7 2 7 h (fiBits f))
  | .ccCmpiLt h f => some (mkWord 7 2 8 h (fiBits f))
  | .ccCmpiLe h f => some (mkWord 7 2 9 h (fiBits f))
  | .ccCmpiLtu h f => some (mkWord 7 2 10 h (fiBits f))
  | .ccCmpiLeu h f => some (mkWord 7 2 11 h (fiBits f))
  | .ccPand h f => some (mkWord 7 2 12 h (f3Bits f))
  | .ccPor h f => some (mkWord 7 2 13 h (f3Bits f))
  | .ccPxor h f => some (mkWord 7 2 14 h (f3Bits f))
  | .ccPnot h f => some (mkWord 7 2 15 h (f3Bits f))
  | .ccBr h f => some (mkWord 7 3 0 h (fbBits f))
  | .ccJmp h f => some (mkWord 7 3 1 h (fbBits f))
  | .ccJmpr h f => some (mkWord 7 3 2 h (fbBits f))
  | .ccCall h f => some (mkWord 7 3 3 h (fbBits f))
  | .ccCallr h f => some (mkWord 7 3 4 h (fbBits f))
  | .ccRet h f => some (mkWord 7 3 5 h (fbBits f))
  | .ccLd h f => some (mkWord 7 4 0 h (fmBits f))
  | .ccLds h f => some (mkWord 7 4 1 h (fmBits f))
  | .ccSt h f => some (mkWord 7 4 2 h (fmBits f))
  | .ccLda h f => some (mkWord 7 4 3 h (fmBits f))
  | .ccStl h f => some (mkWord 7 4 4 h (fmBits f))
  | .ccAmoAdd h f => some (mkWord 7 5 0 h (fmBits f))
  | .ccAmoAnd h f => some (mkWord 7 5 1 h (fmBits f))
  | .ccAmoOr h f => some (mkWord 7 5 2 h (fmBits f))
  | .ccAmoXor h f => some (mkWord 7 5 3 h (fmBits f))
  | .ccAmoMin h f => some (mkWord 7 5 4 h (fmBits f))
  | .ccAmoMax h f => some (mkWord 7 5 5 h (fmBits f))
  | .ccAmoMinu h f => some (mkWord 7 5 6 h (fmBits f))
  | .ccAmoMaxu h f => some (mkWord 7 5 7 h (fmBits f))
  | .ccAmoSwap h f => some (mkWord 7 5 8 h (fmBits f))
  | .ccAmoCas h f => some (mkWord 7 5 9 h (fmBits f))
  | .ccFenceCore h f => some (mkWord 7 6 0 h (fsBits f))
  | .ccFenceDie h f => some (mkWord 7 6 1 h (fsBits f))
  | .ccFenceDev h f => some (mkWord 7 6 2 h (fsBits f))
  | .ccFenceDom h f => some (mkWord 7 6 3 h (fsBits f))
  | .post h f => some (mkWord 7 7 0 h (fsBits f))
  | .postNb h f => some (mkWord 7 7 1 h (fsBits f))
  | .postG h f => some (mkWord 7 7 2 h (fsBits f))
  | .rpost h f => some (mkWord 7 7 3 h (fsBits f))
  | .cancel h f => some (mkWord 7 7 4 h (fsBits f))
  | .twait h f => some (mkWord 7 7 5 h (fsBits f))
  | .wincfgDispatchHold h f => some (mkWord 7 7 6 h (fsBits f))
  | .wincfgLetterboxAccept h f => some (mkWord 7 7 6 h (fsBits f))
  | .wincfgPriorityCeiling h f => some (mkWord 7 7 6 h (fsBits f))
  | .winqLiveEntries h f => some (mkWord 7 7 7 h (fsBits f))
  | .winqFreeEntries h f => some (mkWord 7 7 7 h (fsBits f))
  | .winqLetterbox h f => some (mkWord 7 7 7 h (fsBits f))
  | .winqNextSerial h f => some (mkWord 7 7 7 h (fsBits f))
  | .winqLowestLive h f => some (mkWord 7 7 7 h (fsBits f))
  | .winqFreeRename h f => some (mkWord 7 7 7 h (fsBits f))
  | .winqTaskState h f => some (mkWord 7 7 7 h (fsBits f))
  | .valloc h f => some (mkWord 7 8 0 h (fsBits f))
  | .vallocNb h f => some (mkWord 7 8 1 h (fsBits f))
  | .vret h f => some (mkWord 7 8 2 h (fsBits f))
  | .vfold h f => some (mkWord 7 8 3 h (fsBits f))
  | .vqueryState h f => some (mkWord 7 8 4 h (fsBits f))
  | .vqueryAvailable h f => some (mkWord 7 8 4 h (fsBits f))
  | .ccWaitAny h f => some (mkWord 7 9 0 h (fwBits f))
  | .ccWaitAll h f => some (mkWord 7 9 1 h (fwBits f))
  | .trap h f => some (mkWord 7 10 0 h (fsBits f))
  | .eret h f => some (mkWord 7 10 1 h (fsBits f))
  | .sysr h f => some (mkWord 7 10 2 h (fsBits f))
  | .sysw h f => some (mkWord 7 10 3 h (fsBits f))
  | .syswVlim h f => some (mkWord 7 10 3 h (fsBits f))
  | .syswCtxst h f => some (mkWord 7 10 3 h (fsBits f))
  | .sysrChkcnt h f => some (mkWord 7 10 2 h (fsBits f))
  | .syswInj h f => some (mkWord 7 10 3 h (fsBits f))
  | .syswInjmem h f => some (mkWord 7 10 3 h (fsBits f))
  | .ccHalt h f => some (mkWord 7 10 4 h (fsBits f))
  | .nop h f => some (mkWord 7 10 5 h (fsBits f))
  | .ctxsw h f => some (mkWord 7 10 6 h (fsBits f))
  | .ckpt h f => some (mkWord 7 10 7 h (fsBits f))
  | .apAdd h f => some (mkWord 0 0 0 h (f3Bits f))
  | .apSub h f => some (mkWord 0 0 1 h (f3Bits f))
  | .apAnd h f => some (mkWord 0 0 2 h (f3Bits f))
  | .apOr h f => some (mkWord 0 0 3 h (f3Bits f))
  | .apXor h f => some (mkWord 0 0 4 h (f3Bits f))
  | .apShl h f => some (mkWord 0 0 5 h (f3Bits f))
  | .apShr h f => some (mkWord 0 0 6 h (f3Bits f))
  | .apMul h f => some (mkWord 0 0 7 h (f3Bits f))
  | .apMadd h f => some (mkWord 0 0 8 h (f3Bits f))
  | .apMin h f => some (mkWord 0 0 9 h (f3Bits f))
  | .apMax h f => some (mkWord 0 0 10 h (f3Bits f))
  | .apSel h f => some (mkWord 0 0 11 h (f3Bits f))
  | .apAddi h f => some (mkWord 0 1 0 h (fiBits f))
  | .apAndi h f => some (mkWord 0 1 1 h (fiBits f))
  | .apOri h f => some (mkWord 0 1 2 h (fiBits f))
  | .apShli h f => some (mkWord 0 1 3 h (fiBits f))
  | .apShri h f => some (mkWord 0 1 4 h (fiBits f))
  | .apMuli h f => some (mkWord 0 1 5 h (fiBits f))
  | .apLui h f => some (mkWord 0 1 6 h (fiBits f))
  | .apCmpEq h f => some (mkWord 0 2 0 h (f3Bits f))
  | .apCmpNe h f => some (mkWord 0 2 1 h (f3Bits f))
  | .apCmpLt h f => some (mkWord 0 2 2 h (f3Bits f))
  | .apCmpLe h f => some (mkWord 0 2 3 h (f3Bits f))
  | .apCmpLtu h f => some (mkWord 0 2 4 h (f3Bits f))
  | .apCmpLeu h f => some (mkWord 0 2 5 h (f3Bits f))
  | .apCmpiEq h f => some (mkWord 0 2 6 h (fiBits f))
  | .apCmpiNe h f => some (mkWord 0 2 7 h (fiBits f))
  | .apCmpiLt h f => some (mkWord 0 2 8 h (fiBits f))
  | .apCmpiLe h f => some (mkWord 0 2 9 h (fiBits f))
  | .apCmpiLtu h f => some (mkWord 0 2 10 h (fiBits f))
  | .apCmpiLeu h f => some (mkWord 0 2 11 h (fiBits f))
  | .apPand h f => some (mkWord 0 2 12 h (f3Bits f))
  | .apPor h f => some (mkWord 0 2 13 h (f3Bits f))
  | .apPnot h f => some (mkWord 0 2 14 h (f3Bits f))
  | .apBr h f => some (mkWord 0 3 0 h (fbBits f))
  | .apJmp h f => some (mkWord 0 3 1 h (fbBits f))
  | .brq h f => some (mkWord 0 3 2 h (fbBits f))
  | .ldq h f => some (mkWord 0 4 0 h (fmBits f))
  | .ldqV h f => some (mkWord 0 4 1 h (fmBits f))
  | .gathq h f => some (mkWord 0 4 2 h (fmBits f))
  | .apLds h f => some (mkWord 0 4 3 h (fmBits f))
  | .apLdsV h f => some (mkWord 0 4 4 h (fmBits f))
  | .sts h f => some (mkWord 0 5 0 h (fmBits f))
  | .stq h f => some (mkWord 0 5 1 h (fmBits f))
  | .stqM h f => some (mkWord 0 5 2 h (fmBits f))
  | .scatq h f => some (mkWord 0 5 3 h (fmBits f))
  | .mtest h f => some (mkWord 0 6 0 h (fsBits f))
  | .pgreq h f => some (mkWord 0 6 1 h (fsBits f))
  | .pgquery h f => some (mkWord 0 6 2 h (fsBits f))
  | .apAmoAdd h f => some (mkWord 0 7 0 h (fmBits f))
  | .apAmoAnd h f => some (mkWord 0 7 1 h (fmBits f))
  | .apAmoOr h f => some (mkWord 0 7 2 h (fmBits f))
  | .apAmoXor h f => some (mkWord 0 7 3 h (fmBits f))
  | .apAmoMin h f => some (mkWord 0 7 4 h (fmBits f))
  | .apAmoMax h f => some (mkWord 0 7 5 h (fmBits f))
  | .apAmoMinu h f => some (mkWord 0 7 6 h (fmBits f))
  | .apAmoMaxu h f => some (mkWord 0 7 7 h (fmBits f))
  | .apAmoSwap h f => some (mkWord 0 7 8 h (fmBits f))
  | .apAmoCas h f => some (mkWord 0 7 9 h (fmBits f))
  | .fadd h f => some (mkWord 0 7 10 h (fmBits f))
  | .apLda h f => some (mkWord 0 8 0 h (fmBits f))
  | .apStl h f => some (mkWord 0 8 1 h (fmBits f))
  | .apFenceCore h f => some (mkWord 0 8 2 h (fsBits f))
  | .apFenceDie h f => some (mkWord 0 8 3 h (fsBits f))
  | .apFenceDev h f => some (mkWord 0 8 4 h (fsBits f))
  | .apFenceDom h f => some (mkWord 0 8 5 h (fsBits f))
  | .barinit h f => some (mkWord 0 9 0 h (fmBits f))
  | .barexp h f => some (mkWord 0 9 1 h (fmBits f))
  | .bararr h f => some (mkWord 0 9 2 h (fmBits f))
  | .barq h f => some (mkWord 0 9 3 h (fmBits f))
  | .seal h f => some (mkWord 0 10 0 h (fsBits f))
  | .unseal h f => some (mkWord 0 10 1 h (fsBits f))
  | .apWaitAny h f => some (mkWord 0 11 0 h (fwBits f))
  | .apWaitAll h f => some (mkWord 0 11 1 h (fwBits f))
  | .wprd h f => some (mkWord 0 11 2 h (fsBits f))
  | .tkclr h f => some (mkWord 0 12 0 h (fsBits f))
  | .tktest h f => some (mkWord 0 12 1 h (fsBits f))
  | .ecCopy h f => some (mkWord 4 0 0 h (feBits f))
  | .ecCopyV h f => some (mkWord 4 0 1 h (feBits f))
  | .ecFill h f => some (mkWord 4 0 2 h (feBits f))
  | .gather h f => some (mkWord 4 1 0 h (feBits f))
  | .scatter h f => some (mkWord 4 1 1 h (feBits f))
  | .cstream h f => some (mkWord 4 2 0 h (feBits f))
  | .route h f => some (mkWord 4 3 0 h (feBits f))
  | .rcsnap h f => some (mkWord 4 3 1 h (feBits f))
  | .rcread h f => some (mkWord 4 3 2 h (feBits f))
  | .courier h f => some (mkWord 4 4 0 h (feBits f))
  | .spawn h f => some (mkWord 4 5 0 h (feBits f))
  | .rput h f => some (mkWord 4 6 0 h (feBits f))
  | .rget h f => some (mkWord 4 6 1 h (feBits f))
  | .ramo h f => some (mkWord 4 6 2 h (feBits f))
  | .mcast h f => some (mkWord 4 6 3 h (feBits f))
  | .cwCopy _ _ => none
  | .cwWait _ _ => none
  | .cwFlag _ => none
  | .cwLoop _ _ => none
  | .cwAdd _ => none
  | .cwEnd => none
  | .xpAdd h f => some (mkWord 1 0 0 h (f3Bits f))
  | .xpSub h f => some (mkWord 1 0 1 h (f3Bits f))
  | .xpMul h f => some (mkWord 1 0 2 h (f3Bits f))
  | .xpAnd h f => some (mkWord 1 0 3 h (f3Bits f))
  | .xpOr h f => some (mkWord 1 0 4 h (f3Bits f))
  | .xpXor h f => some (mkWord 1 0 5 h (f3Bits f))
  | .xpShl h f => some (mkWord 1 0 6 h (f3Bits f))
  | .xpShr h f => some (mkWord 1 0 7 h (f3Bits f))
  | .xpSel h f => some (mkWord 1 0 8 h (f3Bits f))
  | .xpAddi h f => some (mkWord 1 1 0 h (fiBits f))
  | .xpMovi h f => some (mkWord 1 1 1 h (fiBits f))
  | .xpShli h f => some (mkWord 1 1 2 h (fiBits f))
  | .xpCmpEq h f => some (mkWord 1 2 0 h (f3Bits f))
  | .xpCmpNe h f => some (mkWord 1 2 1 h (f3Bits f))
  | .xpCmpLt h f => some (mkWord 1 2 2 h (f3Bits f))
  | .xpCmpLe h f => some (mkWord 1 2 3 h (f3Bits f))
  | .xpCmpLtu h f => some (mkWord 1 2 4 h (f3Bits f))
  | .xpCmpLeu h f => some (mkWord 1 2 5 h (f3Bits f))
  | .xpPand h f => some (mkWord 1 2 6 h (f3Bits f))
  | .xpPor h f => some (mkWord 1 2 7 h (f3Bits f))
  | .xpPnot h f => some (mkWord 1 2 8 h (f3Bits f))
  | .xpBr h f => some (mkWord 1 3 0 h (fbBits f))
  | .xpJmp h f => some (mkWord 1 3 1 h (fbBits f))
  | .brb h f => some (mkWord 1 3 2 h (fbBits f))
  | .vadd h f => some (mkWord 1 4 0 h (f3Bits f))
  | .vsub h f => some (mkWord 1 4 1 h (f3Bits f))
  | .vmul h f => some (mkWord 1 4 2 h (f3Bits f))
  | .vmulh h f => some (mkWord 1 4 3 h (f3Bits f))
  | .vmin h f => some (mkWord 1 4 4 h (f3Bits f))
  | .vmax h f => some (mkWord 1 4 5 h (f3Bits f))
  | .vminu h f => some (mkWord 1 4 6 h (f3Bits f))
  | .vmaxu h f => some (mkWord 1 4 7 h (f3Bits f))
  | .vand h f => some (mkWord 1 4 8 h (f3Bits f))
  | .vor h f => some (mkWord 1 4 9 h (f3Bits f))
  | .vxor h f => some (mkWord 1 4 10 h (f3Bits f))
  | .vabsd h f => some (mkWord 1 4 11 h (f3Bits f))
  | .vshl h f => some (mkWord 1 5 0 h (f3Bits f))
  | .vshr h f => some (mkWord 1 5 1 h (f3Bits f))
  | .vsar h f => some (mkWord 1 5 2 h (f3Bits f))
  | .vfshl h f => some (mkWord 1 5 3 h (f3Bits f))
  | .vfshr h f => some (mkWord 1 5 4 h (f3Bits f))
  | .vclz h f => some (mkWord 1 5 5 h (f3Bits f))
  | .vpopc h f => some (mkWord 1 5 6 h (f3Bits f))
  | .vcmpEq h f => some (mkWord 1 6 0 h (f3Bits f))
  | .vcmpNe h f => some (mkWord 1 6 1 h (f3Bits f))
  | .vcmpLt h f => some (mkWord 1 6 2 h (f3Bits f))
  | .vcmpLe h f => some (mkWord 1 6 3 h (f3Bits f))
  | .vcmpLtu h f => some (mkWord 1 6 4 h (f3Bits f))
  | .vcmpLeu h f => some (mkWord 1 6 5 h (f3Bits f))
  | .vsel h f => some (mkWord 1 6 6 h (f3Bits f))
  | .mand h f => some (mkWord 1 6 7 h (f3Bits f))
  | .mor h f => some (mkWord 1 6 8 h (f3Bits f))
  | .mnot h f => some (mkWord 1 6 9 h (f3Bits f))
  | .mpopc h f => some (mkWord 1 6 10 h (f3Bits f))
  | .vfadd h f => some (mkWord 1 7 0 h (f3Bits f))
  | .vfsub h f => some (mkWord 1 7 1 h (f3Bits f))
  | .vfmul h f => some (mkWord 1 7 2 h (f3Bits f))
  | .vfma h f => some (mkWord 1 7 3 h (f3Bits f))
  | .vfms h f => some (mkWord 1 7 4 h (f3Bits f))
  | .vfmin h f => some (mkWord 1 7 5 h (f3Bits f))
  | .vfmax h f => some (mkWord 1 7 6 h (f3Bits f))
  | .vfabs h f => some (mkWord 1 7 7 h (f3Bits f))
  | .vfneg h f => some (mkWord 1 7 8 h (f3Bits f))
  | .vfrcp h f => some (mkWord 1 8 0 h (f3Bits f))
  | .vfrsq h f => some (mkWord 1 8 1 h (f3Bits f))
  | .vfexp2 h f => some (mkWord 1 8 2 h (f3Bits f))
  | .vflog2 h f => some (mkWord 1 8 3 h (f3Bits f))
  | .vfsqrt h f => some (mkWord 1 8 4 h (f3Bits f))
  | .vfdiv h f => some (mkWord 1 8 5 h (f3Bits f))
  | .vcvt h f => some (mkWord 1 9 0 h (f3Bits f))
  | .vsrnd h f => some (mkWord 1 9 1 h (f3Bits f))
  | .vquant h f => some (mkWord 1 9 2 h (f3Bits f))
  | .vdeq h f => some (mkWord 1 9 3 h (f3Bits f))
  | .vplane h f => some (mkWord 1 9 4 h (f3Bits f))
  | .vunplane h f => some (mkWord 1 9 5 h (f3Bits f))
  | .vrsum h f => some (mkWord 1 10 0 h (f3Bits f))
  | .vrmax h f => some (mkWord 1 10 1 h (f3Bits f))
  | .vrmin h f => some (mkWord 1 10 2 h (f3Bits f))
  | .vrmaxi h f => some (mkWord 1 10 3 h (f3Bits f))
  | .vpsum h f => some (mkWord 1 10 4 h (f3Bits f))
  | .vgmax h f => some (mkWord 1 10 5 h (f3Bits f))
  | .vgsum h f => some (mkWord 1 10 6 h (f3Bits f))
  | .vperm h f => some (mkWord 1 11 0 h (f3Bits f))
  | .vbcast h f => some (mkWord 1 11 1 h (f3Bits f))
  | .vslide h f => some (mkWord 1 11 2 h (f3Bits f))
  | .vcomp h f => some (mkWord 1 11 3 h (f3Bits f))
  | .vexp h f => some (mkWord 1 11 4 h (f3Bits f))
  | .vmovi h f => some (mkWord 1 11 5 h (fiBits f))
  | .qpop h f => some (mkWord 3 0 0 h (f3Bits f))
  | .qpopm h f => some (mkWord 3 0 1 h (f3Bits f))
  | .qpush h f => some (mkWord 3 0 2 h (f3Bits f))
  | .qpushm h f => some (mkWord 3 0 3 h (f3Bits f))
  | .qcnt h f => some (mkWord 3 0 4 h (f3Bits f))
  | .vldb h f => some (mkWord 3 1 0 h (fmBits f))
  | .vstb h f => some (mkWord 3 1 1 h (fmBits f))
  | .vstbm h f => some (mkWord 3 1 2 h (fmBits f))
  | .loop h f => some (mkWord 3 2 0 h (flBits f))
  | .lbrk h f => some (mkWord 3 2 1 h (fsBits f))
  | .oset h f => some (mkWord 3 2 2 h (fiBits f))
  | .oadd h f => some (mkWord 3 2 3 h (fiBits f))
  | .defer h f => some (mkWord 3 3 0 h (f3Bits f))
  | .defcnt h f => some (mkWord 3 3 1 h (f3Bits f))
  | .deftake h f => some (mkWord 3 3 2 h (f3Bits f))
  | .xpose h f => some (mkWord 3 4 0 h (feBits f))
  | .xposeP h f => some (mkWord 3 4 1 h (feBits f))
  | .spill h f => some (mkWord 3 5 0 h (feBits f))
  | .xpFill h f => some (mkWord 3 5 1 h (feBits f))
  | .view h f => some (mkWord 3 6 0 h (fsBits f))
  | .xpWaitAny h f => some (mkWord 3 7 0 h (fwBits f))
  | .xpWaitAll h f => some (mkWord 3 7 1 h (fwBits f))
  | .claim h f => some (mkWord 2 0 0 h (feBits f))
  | .release h f => some (mkWord 2 0 1 h (feBits f))
  | .tpri h f => some (mkWord 2 0 2 h (feBits f))
  | .wload h f => some (mkWord 2 1 0 h (feBits f))
  | .wloadp h f => some (mkWord 2 1 1 h (feBits f))
  | .mstream h f => some (mkWord 2 2 0 h (feBits f))
  | .mstreamp h f => some (mkWord 2 2 1 h (feBits f))
  | .mvstream h f => some (mkWord 2 2 2 h (feBits f))
  | .teob h f => some (mkWord 2 3 0 h (feBits f))
  | .tdrain h f => some (mkWord 2 3 1 h (feBits f))
  | .tacs h f => some (mkWord 2 4 0 h (fsBits f))
  | .tacsClr h f => some (mkWord 2 4 0 h (fsBits f))
  | .tchk h f => some (mkWord 2 4 1 h (fsBits f))
  | .tchkClr h f => some (mkWord 2 4 1 h (fsBits f))
  | .swap h f => some (mkWord 5 0 0 h (fsBits f))
  | .commit h f => some (mkWord 5 0 1 h (fsBits f))
  | .halt h f => some (mkWord 5 0 2 h (fsBits f))
  | .slip h f => some (mkWord 5 1 0 h (fsBits f))
  | .mark h f => some (mkWord 5 1 1 h (fsBits f))
  | .resultLand _ => none
  | .aqEntryLand _ _ _ _ => none
  | .waitReread _ => none
  | .waitTimeout _ => none
  | .twaitTimeout _ _ => none
  | .checkerMatch _ _ => none
  | .contextQuantumSwitch _ => none
  | .monitorEvent _ _ => none
  | .overlapCheckComplete _ _ => none
  | .dispatchPlace _ => none
  | .gangFairnessTimeout _ _ => none
  | .steal _ => none
  | .preloadComplete _ _ _ => none
  | .shadowFillComplete _ _ => none
  | .taskStart _ _ _ => none
  | .discardComplete _ _ _ => none
  | .taskHalted _ _ => none
  | .copyBackStart _ _ => none
  | .copyBackComplete _ _ => none
  | .taskRetire _ _ => none
  | .cancelPropagate _ _ => none
  | .engineCommandStart _ _ _ => none
  | .engineUnitLand _ _ _ => none
  | .engineCommandComplete _ _ _ => none
  | .boundOverrun _ _ _ => none
  | .trellisCommandStart _ _ _ => none
  | .wloadComplete _ _ _ => none
  | .streamRowEnter _ _ _ => none
  | .streamRowLand _ _ _ => none
  | .mvstreamColumnLand _ _ _ => none
  | .releaseDrainEnd _ _ _ => none
  | .phaseRestart _ _ => none
  | .tlbWalkComplete _ _ _ _ _ => none
  | .shootdownComplete _ => none
  | .cellReady _ => none
  | .cellWaitTimeout _ => none
  | .vintageFree _ _ => none
  | .foldTaskStart _ _ => none
  | .foldTaskRetire _ _ => none
  | .patrolScrub _ _ => none
  | .scoreHalve => none
  | .targetedTestStart _ => none
  | .targetedTestEnd _ _ => none
  | .powerReport _ => none
  | .temperatureSample _ _ => none
  | .eventResend _ => none
  | .uftPut _ => none
  | .uftEnd _ => none
  | .uftGet _ => none
  | .uftGetdata _ => none
  | .uftAmo _ => none
  | .uftPost _ => none
  | .uftNotify _ => none
  | .uftCancel _ => none
  | .uftMcast _ => none
  | .uftResult _ => none
  | .uftAck _ => none
  | .uftReset _ => none
  | .frameDiscard _ => none
  | .ackTimer _ => none
  | .retransmitTimeout _ _ => none
  | .rateIncreaseTimer _ => none
  | .resetResend _ => none
  | .mcastReceiptWrite _ => none
  | .portLinkUp _ => none
  | .portLinkDown _ => none
  | .memread _ => none
  | .memwrite _ => none
  | .pmemread _ => none
  | .pmemwrite _ => none
  | .launch _ => none
  | .ptroot _ => none
  | .inval _ => none
  | .migrate _ => none
  | .pagein _ => none
  | .setid _ => none
  | .listset _ => none
  | .amoquery _ => none
  | .eventack _ => none
  | .uctBadOp _ => none
  | .hello _ => none
  | .keyx _ => none
  | .boot _ => none
  | .fwwrite _ => none
  | .ownerset _ => none
  | .resume _ => none
  | .powerOn => none
  | .bootStepTimeout => none
  | .handoffTimeout => none
  | .boardReset => none
  | .boardRecovRequest => none
  | .ckptStreamStart => none
  | .ckptStreamEnd _ => none
  | .encodingNotInstruction _ _ => none
  | .courierIllegalWord _ => none
  | .windowRecordsCommitted _ _ _ => none
  | .writePerformedAtHome _ => none
  | .answerTableExpiry _ _ => none
  | .powerLoss => none

/-- A courier word (R64). -/
def mkCourier (opc chan : BitVec 4) (operand : BitVec 24) : BitVec 32 := opc ++ (chan ++ operand)

/-- The 32-bit word of a courier instruction. -/
def encodeCourier (i : Instr) : Option (BitVec 32) :=
  match i with
  | .cwCopy c n => some (mkCourier 0 c n)
  | .cwWait c n => some (mkCourier 1 c n)
  | .cwFlag v => some (mkCourier 2 0 v)
  | .cwLoop cnt back => some (mkCourier 3 0 (cnt ++ back))
  | .cwAdd d => some (mkCourier 4 0 d)
  | .cwEnd => some (mkCourier 5 0 0)
  | _ => none

/-- The n low bytes of a number, the lowest first (R3). -/
def leBytes : Nat → Nat → List Byte
  | 0, _ => []
  | n + 1, x => BitVec.ofNat 8 x :: leBytes n (x / 256)

/-- The number that bytes stand for, the lowest first (R3). -/
def leNat : List Byte → Nat
  | [] => 0
  | b :: r => b.toNat + 256 * leNat r

/-- The bytes of a word or courier word as memory holds them. -/
def encode (i : Instr) : Option (List Byte) :=
  match encodeWord i with
  | some w => some (leBytes 8 w.toNat)
  | none => match encodeCourier i with
    | some w => some (leBytes 4 w.toNat)
    | none => none

/-- The instruction that bytes stand for: four bytes a courier word, eight an instruction word; none otherwise. -/
def decode (bs : List Byte) : Option Instr :=
  match bs.length with
  | 4 => match checkCourier (BitVec.ofNat 32 (leNat bs)) with
    | .ok i => some i
    | .error _ => none
  | 8 => decodeWord (BitVec.ofNat 64 (leNat bs))
  | _ => none

/-- The decoder on bits numbered as the table of operations numbers them: a courier word of 32 bits, an instruction word of
more. -/
def decodeTableWord (nbits w : Nat) : Option Instr :=
  if nbits ≤ 32 then decode (leBytes 4 w) else decode (leBytes 8 w)

/-! ## Frames (R386, R387) -/

/-- The header of a frame and its payload, as the datagram's bytes. -/
def encodeFrame (f : Frame) : List Byte :=
  let w0 : BitVec 64 := f.epoch ++ (f.asid ++ (f.dst ++ (f.src ++ (f.type ++ (0#1 ++ (BitVec.ofBool f.retry ++ (0#1 ++
    (BitVec.ofBool f.ece ++ f.version))))))))
  let w1 : BitVec 64 := 0#3 ++ (f.len ++ f.opid)
  let w2 : BitVec 64 := f.aux ++ f.va
  let w3 : BitVec 64 := f.aux2 ++ f.psn
  leBytes 8 w0.toNat ++ leBytes 8 w1.toNat ++ leBytes 8 w2.toNat ++ leBytes 8 w3.toNat ++ f.payload

/-- The fields of a received datagram of at least 32 bytes, with the CE mark of its Traffic Class; reserved bits are not looked at. -/
def frameOf (port : Nat) (ce : Bool) (bs : List Byte) : Frame :=
  let w (n : Nat) : BitVec 64 := BitVec.ofNat 64 (leNat ((bs.drop (8 * n)).take 8))
  { epoch := (w 0).extractLsb' 48 16, asid := (w 0).extractLsb' 40 8, dst := (w 0).extractLsb' 28 12,
    src := (w 0).extractLsb' 16 12, type := (w 0).extractLsb' 8 8, retry := (w 0).getLsbD 6, ece := (w 0).getLsbD 4,
    version := (w 0).extractLsb' 0 4, len := (w 1).extractLsb' 48 13, opid := (w 1).extractLsb' 0 48,
    aux := (w 2).extractLsb' 56 8, va := (w 2).extractLsb' 0 56, aux2 := (w 3).extractLsb' 32 32,
    psn := (w 3).extractLsb' 0 32, payload := bs.drop 32, port := port, ce := ce }

/-- The step that a received frame is, by its TYPE; a frame of another type, of another version, or of a length that is not
its header's is discarded (R386, R387). -/
def decodeFrame (port : Nat) (ce : Bool) (bs : List Byte) : Instr :=
  let f := frameOf port ce bs
  if bs.length < 32 then .frameDiscard port
  else if !frameOk f then .frameDiscard port
  else match f.type.toNat with
    | 1 => .uftPut f
    | 2 => .uftEnd f
    | 3 => .uftGet f
    | 4 => .uftGetdata f
    | 5 => .uftAmo f
    | 6 => .uftPost f
    | 7 => .uftNotify f
    | 8 => .uftCancel f
    | 9 => .uftMcast f
    | 10 => .uftResult f
    | 11 => .uftAck f
    | 12 => .uftReset f
    | _ => .frameDiscard port

/-! ## Host messages (R399, R424) -/

/-- A host message as the datagram's bytes. -/
def encodeHost (m : HostMsg) : List Byte :=
  let w0 : BitVec 64 := 0#8 ++ (m.asid ++ (m.tag ++ (m.status ++ m.op)))
  leBytes 8 w0.toNat ++ leBytes 8 m.addr.toNat ++ leBytes 8 m.len.toNat ++ leBytes 8 0 ++ m.data

/-- The fields of a host message received on a host port, at UDP port 19,803 or 19,802, under MACsec or not. -/
def hostOf (bootStage guarded : Bool) (port : Nat) (bs : List Byte) : HostMsg :=
  let w (n : Nat) : BitVec 64 := BitVec.ofNat 64 (leNat ((bs.drop (8 * n)).take 8))
  { op := (w 0).extractLsb' 0 8, status := (w 0).extractLsb' 8 8, tag := (w 0).extractLsb' 16 32,
    asid := (w 0).extractLsb' 48 8, addr := (w 1).extractLsb' 0 56, len := (w 2).extractLsb' 0 13,
    data := bs.drop 32, port := port, boot := bootStage, safe := guarded }

/-- The step that a message to UDP port 19,802 (R399) or, with bootStage, 19,803 (R424) is, by its OP. -/
def decodeHost (bootStage guarded : Bool) (port : Nat) (bs : List Byte) : Instr :=
  let m := hostOf bootStage guarded port bs
  if bootStage then
    match m.op.toNat with
    | 0x81 => .hello m
    | 0x82 => .keyx m
    | 0x83 => .boot m
    | 0x84 => .fwwrite m
    | 0x85 => .ownerset m
    | 0x86 => .resume m
    | _ => .uctBadOp m
  else
    match m.op.toNat with
    | 1 => .memread m
    | 2 => .memwrite m
    | 3 => .pmemread m
    | 4 => .pmemwrite m
    | 5 => .launch m
    | 6 => .ptroot m
    | 7 => .inval m
    | 8 => .migrate m
    | 9 => .pagein m
    | 10 => .setid m
    | 11 => .listset m
    | 12 => .amoquery m
    | 13 => .eventack m
    | _ => .uctBadOp m

end

end Sys2Proof
end

