-- ==== Sys2Proof/Machine/State.lean ====
section
/-! DEFINITION. The state of one device (eight dies of 32 cores, four hubs) as plain data, the reasons a step can stop, and
the state right after reset. -/

namespace Sys2Proof.Machine

/-- Things by number: pairs of key and value, keys rising. A key that is not listed has a default that the reader names. -/
abbrev Table (α : Type) := List (Nat × α)

/-- A store of bytes by address: addresses rising, no byte listed that is zero (an unlisted byte reads zero, entry 2). -/
abbrev Memory := List Host.Cell

/-- The trap causes of R406. -/
inductive Cause where
  | none | illegalOp | illegalEng | reservedField | viewRange | align | bufferAccess
  | prot | sealed | orderKind | staleHandle | regionMixed | format
  | boundOverrun | claimBusy | claimShape | notCommitted | nondeterministic
  | vintageSpace | vintageState | uncorrectable | checksum | checkerMismatch
  | windowFull | fabricNack | linkDown
  deriving DecidableEq, Repr

/-- What a trap records beside its cause (R101, R257, R258): ERROR, EINFO, QKIND, QIDX, QPOS and COND. -/
structure TrapInfo where
  cause : Cause
  error : Nat
  info  : Word
  qkind : Nat
  qidx  : Nat
  qpos  : Nat
  cond  : Nat
  deriving DecidableEq, Repr

/-- The kinds of page (R315). -/
inductive PageKind where
  | so | rc | un
  deriving DecidableEq, Repr

/-- The agents whose accesses the consistency rules order (R311). The AP of a shard is named by its task's window and serial and the
shard's number: a core that goes on to another task is another agent. -/
inductive AgentId where
  | ctx (die set : Nat)
  | ap (wdie serial shard : Nat)
  | cmd (die core id : Nat)
  | copier (die : Nat)
  | pager (hub : Nat)
  | host
  | remote (dev : Nat)
  deriving DecidableEq, Repr

/-- The operations of the AMO groups (R112, R142), in the order of their minors. -/
inductive AmoOp where
  | add | and | or | xor | min | max | minu | maxu | swap | cas | fadd
  deriving DecidableEq, Repr

/-- The words that update a barrier object (R145), and the bytes an engine lands (R146). -/
inductive BarOp where
  | init | exp | arr | land
  deriving DecidableEq, Repr

/-- Where a value read from memory goes. -/
inductive RegDst where
  | none
  | cc (set reg : Nat)
  | ap (reg : Nat)
  deriving DecidableEq, Repr

/-- One thing a result does when it lands (R33, R102, R372, R373). -/
inductive RegWrite where
  | cc (set reg : Nat) (v : Word)
  | ccPred (set reg : Nat) (b : Bool)
  | ap (reg : Nat) (v : Word)
  | apPred (reg : Nat) (b : Bool)
  | apMaskOr (reg : Nat) (v : Word)
  | apMaskClear (reg : Nat)
  | space (off : Nat) (bytes : List Byte)
  | latch (n : Nat) (v : Vec)
  | latchOf (n off size : Nat)
  | latchPart (n at_ : Nat) (bytes : List Byte)
  | xpPred (reg : Nat) (b : Bool)
  | xpMask (reg : Nat) (v care : Mask)
  | offset (reg : Nat) (v : BitVec 32)
  | offsetAdd (reg : Nat) (v : BitVec 32)
  | view (n : Nat) (v : Word)
  | buf (b off : Nat) (bytes : List Byte)
  | wp (ch n : Nat)
  | deferOvf
  | cond (p : Proc) (i : Nat) (zero : Bool) (parts : List (Nat × Nat)) (agent : AgentId) (seq start : Nat)
  | load (dst : RegDst) (signed : Bool) (parts : List (Nat × Nat)) (agent : AgentId) (seq pc : Nat)
  | seen (p : Proc) (i : Nat) (holds : Bool) (start : Nat)
  deriving DecidableEq, Repr

/-- A result issued and not yet landed: the cycle in which its word issued and the word's address, its landing cycle and what it
writes. -/
structure Landing where
  at_    : Nat
  pc     : Nat
  due    : Nat
  writes : List RegWrite
  deriving DecidableEq, Repr

/-- A value: NaN, an infinity, or sign, mantissa and binary exponent of an exact number. -/
inductive FVal where
  | nan
  | inf (neg : Bool)
  | fin (neg : Bool) (m : Nat) (e : Int)
  deriving DecidableEq, Repr

/-- Elements written into one block of a block-scaled page (R83, R84): the addresses of its 32 element bytes and of its scale byte, the
place of the first element written, and the values. -/
structure BlockPut where
  pa    : Nat
  scale : Nat
  first : Nat
  vals  : List FVal
  deriving DecidableEq, Repr

/-- What a write does when it is performed at its home (R312); blocks of the coded formats are decoded, changed and encoded again there
as one access (R84 to R86, R318). -/
inductive WriteAct where
  | bytes (parts : List (Nat × List Byte))
  | amo (op : AmoOp) (pa size : Nat) (operand cmp : Word) (agent : Agent) (dst : RegDst) (pc : Nat)
  | barrier (op : BarOp) (pa : Nat) (v : Word) (pc : Nat)
  | blocks (code : Nat) (bs : List BlockPut)
  | planes (geom : Nat) (runs : List (Nat × Nat)) (first : Nat) (vals : List FVal)
  deriving DecidableEq, Repr

/-- How far some accesses have come (R315): the cycles before which no access ordered after them may be performed, a read or a write, and
those before which such a write may not be visible to its die and to its core. -/
structure Reach where
  rd   : Nat
  wr   : Nat
  die  : Nat
  core : Nat
  deriving DecidableEq, Repr

/-- A write issued and not yet performed at its home: who issued it, its place in the order of issue and the cycle of its issue, the cycle
in which it reaches its home hub with its translation made, the cycles in which it has entered its core's memory port and its die's memory
interface, the cycle in which it is performed, and its page's kind. -/
structure Pending where
  id      : Nat
  agent   : AgentId
  die     : Nat
  core    : Nat
  seq     : Nat
  at_     : Nat
  hubAt   : Nat
  coreAt  : Nat
  dieAt   : Nat
  due     : Nat
  kind    : PageKind
  release : Bool
  act     : WriteAct
  deriving DecidableEq, Repr

/-! ## Control cores -/

/-- A register set of a control core (R39, R94). -/
structure RegSet where
  pc : Nat
  c  : Table Word
  p  : BitVec 8
  w  : Table Word
  deriving DecidableEq, Repr

/-- The state of a graph context (R94, R99). -/
inductive CtxState where
  | free | runnable | waiting | done
  deriving DecidableEq, Repr

/-- What a context waits for. -/
inductive CtxWait where
  | none
  | landing
  | window
  | vintage
  | ckpt
  | answer
  | page (asid va : Nat)
  | fence (scope : Nat)
  | serial (serial : Nat) (pd : Nat) (deadline : Option Nat)
  | conds (all : Bool) (ws : List Word) (pd : Nat) (deadline : Option Nat)
  | idle
  deriving DecidableEq, Repr

/-- A graph context, or the monitor register set: registers, state, wait, the cycle from which its next word may issue, the
words issued since it was loaded (R96), its priority ceiling (R117), and the launch it belongs to. -/
structure Ctx where
  regs    : RegSet
  state   : CtxState
  wait    : CtxWait
  ready   : Nat
  issued  : Nat
  ceiling : Nat
  launch  : Nat
  deriving DecidableEq, Repr

/-- A post as it leaves a control core (R114, R115, R307): the records' words, slots, destination register and predicate. -/
structure PostReq where
  recs    : List (List Word)
  slots   : List Nat
  set     : Nat
  dst     : Nat
  nbPred  : Option Nat
  launch  : Nat
  asid    : Nat
  foldOf  : Option Nat
  deriving DecidableEq, Repr

/-- An outward action of a control core (R103). -/
inductive OutAct where
  | store (asid va : Nat) (parts : List (Nat × List Byte)) (kind : PageKind) (release : Bool) (plan : Reach)
  | amo (op : AmoOp) (asid va size : Nat) (operand cmp : Word) (dst : Nat)
  | post (q : PostReq) (va slot n : Nat)
  | rpost (q : PostReq) (va dev die : Nat)
  | cancel (serial dev die dst : Nat)
  | valloc (dst : Nat) (nbPred : Option Nat)
  | vret (asid v : Nat)
  | wincfg (sel : Nat) (v : Word) (ctx : Nat)
  | sysw (num : Nat) (v : Word)
  | ckpt (ident : Word) (dst : Nat)
  deriving DecidableEq, Repr

/-- The architectural state of a register set as a shadow keeps it (R103): the registers, the results still to land, the
mismatches counted from it (R104), and whether the result of the action whose match captured it has still to come. -/
structure Shadow where
  regs     : RegSet
  landings : List Landing
  misses   : Nat
  awaits   : Bool
  deriving DecidableEq, Repr

/-- An outward action that waits for the checker: the cycle it is matched in, the set that issued it, the state after its word,
and whether it is complete; a post is not while its records are still to be read and checked, and while earlier writes of its
context are still to become visible (R115), and is looked at again in the cycle due. -/
structure Outward where
  due  : Nat
  set  : Nat
  act  : OutAct
  snap : Shadow
  whole : Bool
  deriving DecidableEq, Repr

/-- A control core with its checker (R94 to R104): mode and fields of MSTAT (R100), TVEC, EPC, ECAUSE, EINFO, ESCRATCH
(R99), the contexts, the monitor's own set, results still to land, outward actions, the posts that have matched and are on their way to the
window with their cycles, the last shadow of each set, the cycle of the last issue, CHKCNT, the monitor events held (R97), the die's
firmware text by text offset, and whether an action of the monitor has matched since its mode was entered. -/
structure Ctl where
  monitor   : Bool
  ctx       : Nat
  pmode     : Bool
  pctx      : Nat
  mas       : Nat
  tvec      : Word
  epc       : Word
  ecause    : Word
  einfo     : Word
  escratch  : Word
  ctxs      : Table Ctx
  mon       : Ctx
  landings  : List Landing
  outward   : List Outward
  handed    : List (Nat × PostReq)
  shadows   : Table Shadow
  lastIssue : Nat
  chkcnt    : Nat
  events    : List Nat
  firmware  : Memory
  acted     : Bool
  deriving DecidableEq, Repr

/-! ## Tasks and the die scheduler -/

/-- The states of a task (R118, R260). -/
inductive TaskState where
  | posted | waiting | ready | dispatched | running | committed | halted | retired | faulted | cancelled | replay
  deriving DecidableEq, Repr

/-- When an edge is released (R239, R245): at the earlier record's retirement, at its final state, or at its halt; or the
copy-back of an RW region, or the home copy of a renamed W region, waits for its final state. -/
inductive EdgeKind where
  | retire | final | halt | copyBack | renamed
  deriving DecidableEq, Repr

/-- An edge from an earlier record. -/
structure Edge where
  src  : Nat
  kind : EdgeKind
  deriving DecidableEq, Repr

/-- A shadow of a region (R242): the region's index, its 4 KiB blocks as pairs of VA and offset in the rename area, whether
its fill has completed, and whether it is the shadow of a renamed W region. -/
structure TaskShadow where
  region  : Nat
  blocks  : List (Nat × Nat)
  filled  : Bool
  renamed : Bool
  deriving DecidableEq, Repr

/-- The state of one shard (R25, R267). -/
inductive ShardState where
  | waiting | dispatched | running | halted | ended
  deriving DecidableEq, Repr

/-- One shard of a task: where it is placed (a logical die and core), the cycle of its placement, the cycle in which it starts once
that is known, whether its preload is complete, whether its own COMMIT is recorded, the cycle from which it may be placed, whether its core
was pre-empted for it (R271), and the hotness counts of its earlier runs by tag (R309). -/
structure Shard where
  state     : ShardState
  die       : Nat
  core      : Nat
  placedAt  : Nat
  startAt   : Option Nat
  preloaded : Bool
  committed : Bool
  notBefore : Nat
  first     : Bool
  hotBytes  : Table Nat
  hotStall  : Table Nat
  deriving DecidableEq, Repr

/-- A child captured by SPAWN (R160): the shard that captured it, its record and its slot. -/
structure Child where
  shard : Nat
  recd  : List Word
  slot  : Nat
  deriving DecidableEq, Repr

/-- A live record of a window (R231, R260); recount says that the discard which takes it out of REPLAY counts in its REPLAYS, endedAt is the cycle in
which its final state was reached. -/
structure Entry where
  recd      : List Word
  serial    : Nat
  state     : TaskState
  pred      : Nat
  edges     : List Edge
  slot      : Nat
  launch    : Nat
  readyAt   : Nat
  replays   : Nat
  recount   : Bool
  gang      : Option (Nat × Nat)
  gangReady : Option Nat
  shards    : List Shard
  shadows   : List TaskShadow
  redirects : List (Nat × Nat)
  checkAt   : Nat
  checked   : Bool
  commitWait : List Nat
  haltWait  : List Nat
  trap      : Option TrapInfo
  cause     : Cause
  apc       : Nat
  xpc       : Nat
  mark      : Nat
  status    : BitVec 4
  hot       : Nat
  pending   : Option TaskState
  children  : List Child
  everRan   : Bool
  copied    : Bool
  liveAt    : List Nat
  hotBytes  : Table Nat
  hotStall  : Table Nat
  homeDue   : Nat
  endedAt   : Nat
  deriving DecidableEq, Repr

/-- A record in the letterbox (R252). -/
structure Letter where
  recd   : List Word
  serial : Nat
  pred   : Nat
  launch : Nat
  deriving DecidableEq, Repr

/-- A local post or VFOLD that waits for entries (R251). -/
structure Stalled where
  since : Nat
  q     : PostReq
  deriving DecidableEq, Repr

/-- The routing counters of a die (R362 to R364). -/
structure RouteCounters where
  routes : Nat
  tokens : Nat
  nans   : Nat
  sat    : Nat
  adm    : Table Nat
  drop   : Table Nat
  emax   : Nat
  deriving DecidableEq, Repr

/-- One error record (R414): its four words. -/
structure ErrRec where
  w0 : Word
  w1 : Word
  w2 : Word
  w3 : Word
  deriving DecidableEq, Repr

/-- A translation held by a TLB (R292): its key, the entry's two halves, the frame, and whether it is held as "no cell". -/
structure TlbEntry where
  asid   : Nat
  vint   : Nat
  va     : Nat
  size   : Nat
  leaf   : Word
  half2  : Word
  frame  : Nat
  noCell : Bool
  deriving DecidableEq, Repr

/-- A die: its control core, window, letterbox, dispatcher settings, the cores that a task or a gang has pre-empted for itself (by core, 8
times its first serial plus its window's die), the gangs whose fairness time has passed (R268), rename area, routing counters (committed, and of each shard of an
uncommitted task, by 65,536 times the serial plus the shard, what it has counted and what it has yet to clear) and the cycle from which the routing engine is free, error ring, scores and
injection registers, with whether a row of this cycle has consumed INJ. -/
structure Die where
  ctl          : Ctl
  entries      : List Entry
  departed     : List Entry
  letterbox    : List Letter
  stalled      : List Stalled
  childQueue   : List (Nat × Child × Nat)
  leftChildren : List (Nat × TaskState)
  nextSerial   : Nat
  wlog2        : Nat
  letterboxBit : Bool
  renameMib    : Nat
  holdDispatch : Bool
  acceptPosts  : Bool
  renameUsed   : List (Nat × Nat)
  hotIndex     : Nat
  reserved     : Table Nat
  gangHold     : List Nat
  tlb          : List TlbEntry
  routing      : RouteCounters
  provisional  : Table RouteCounters
  clears       : Table (List RouteCounters)
  routeFree    : Nat
  errors       : Table ErrRec
  errcnt       : Nat
  pscore       : Table Nat
  cscore       : Table Nat
  gscore       : Table Nat
  lscore       : Table Nat
  thresh       : Nat
  inj          : Word
  injUsed      : Bool
  injmem       : Word
  testrec      : Word
  deriving DecidableEq, Repr

/-! ## Task cores -/

/-- What a processor's group is held by (R166, R370, R371): the slip or follow rule, a full or an empty queue of the core, a
full command queue, an access whose group must hold the processor, anything else. -/
inductive Stall where
  | slip | follow | aqFull (q : Nat) | bqFull | xqEmpty (q : Nat) | aqEmpty (q : Nat) | aqPending (q : Nat) | bqEmpty | xqFull (q : Nat)
  | queueFull | other
  deriving DecidableEq, Repr

/-- What the AP or the XP of a core waits for (R166, R371, R378). -/
inductive ProcWait where
  | none
  | stalled (why : Stall)
  | page (asid vint va : Nat)
  | cell (id : Nat)
  | landing (until_ : Nat)
  | fence (scope since : Nat)
  | seal (shoot : Nat)
  | conds (all : Bool) (ws : List Word) (pd : Nat) (deadline : Option Nat) (seen : List (Nat × Bool)) (start : Nat)
  | joint (addr since : Nat)
  | commit
  deriving DecidableEq, Repr

/-- One level of a loop-table entry (R50). -/
structure LoopLevel where
  trip    : Nat
  kind    : Nat
  strides : List (BitVec 32)
  first   : Word
  last    : Word
  deriving DecidableEq, Repr

/-- A processor's run of a loop (R188, R189, R375): the entry, the address of the first body group, BODY, the group of the
body it is at, its level indices from level 0 up and those of the pass before, the passes it has made, whether it ends after this pass, and whether the pass has still to
raise the offsets. -/
structure LoopRun where
  body   : Nat
  levels : List LoopLevel
  size   : Nat
  group  : Nat
  index  : List Nat
  prev   : List Nat
  pass   : Nat
  stop   : Bool
  fresh  : Bool
  deriving DecidableEq, Repr

/-- The AP or the XP of a core: PC (the virtual address of its next group), position (R369), the cycle from which its next
group may issue, the cycle after the one in which it last passed a group by issuing it, its wait and the address of the word that waits, the
words of its group that the wait still holds back and the group's address, its loop, whether it has been stopped, whether it has started its
group and not yet passed it, whether its group took a branch, and how many parts of the access that waits have been performed. -/
structure ProcState where
  pc      : Nat
  pos     : Nat
  ready   : Nat
  issued  : Nat
  wait    : ProcWait
  word    : Nat
  loop    : Option LoopRun
  stopped : Bool
  retry   : List Nat
  group   : Nat
  held    : Bool
  jumped  : Bool
  past    : Nat
  deriving DecidableEq, Repr

/-- A read of memory that an entry of an aq still waits for: bytes of physical memory, or bytes already known. -/
inductive Piece where
  | mem (pa len : Nat)
  | bytes (b : List Byte)
  deriving DecidableEq, Repr

/-- How the entry of a queue load is decoded when it lands (R136): raw bits, or elements of a page format. -/
structure EntryForm where
  fmt  : Nat
  geom : Nat
  sz   : Nat
  scale : Nat
  deriving DecidableEq, Repr

/-- An entry of an aq (R136, R374): its data, or the pieces it still has to read, its landing, the granules it sets in
m[D], and the cycle in which it was popped. -/
structure AqEntry where
  id     : Nat
  data   : Vec
  landed : Bool
  due    : Nat
  pieces : List Piece
  form   : EntryForm
  absent : Word
  seq    : Nat
  pc     : Nat
  gone   : Option Nat
  deriving DecidableEq, Repr

/-- An entry of an xq (R139, R184): data, byte mask, the first cycle in which the AP may pop it, and the cycle in which it was
popped (R374). -/
structure XqEntry where
  data : Vec
  mask : Mask
  at_  : Nat
  gone : Option Nat
  deriving DecidableEq, Repr

/-- An entry of bq (R134, R374): the bit, the first cycle in which the XP may pop it, the cycle in which it was popped. -/
structure BqEntry where
  bit  : Bool
  at_  : Nat
  gone : Option Nat
  deriving DecidableEq, Repr

/-- The queue a command waits in (R150, R206). -/
inductive QueueId where
  | chan (n : Nat)
  | routing
  | courier
  | spawn
  | xpose
  | spill
  | claim (n : Nat)
  deriving DecidableEq, Repr

/-- The commands of the engines (R153 to R161, R197, R198, R208 to R218). -/
inductive CmdKind where
  | copy | copyV | fill | gather | scatter | cstream | route | rcsnap | rcread | courier | spawn | rput | rget | ramo | mcast
  | xpose | xposeP | spill | fillRs | wload | wloadp | mstream | mstreamp | mvstream | teob | tdrain
  deriving DecidableEq, Repr

/-- A command issued to an engine: its queue, kind, parameter registers, token and consumed tokens (each with the producers
it waits for), bound, issue cycle, start cycle, what it has read and landed, the bytes of its present unit that are moved and the cycles in which they are
visible on the die and at home, the PCs at its issue, its operation number, the channel that its word names, and the pieces
that have come. -/
structure Cmd where
  id       : Nat
  queue    : QueueId
  kind     : CmdKind
  params   : List Word
  kp       : Nat
  waits    : List (Nat × List Nat)
  bound    : Option Nat
  issuedAt : Nat
  started  : Option Nat
  half     : BitVec 3
  rows     : Nat
  unit     : Nat
  landed   : Nat
  room     : Nat
  fresh    : Nat
  freshSeen : Nat
  freshDue : Nat
  data     : List Byte
  doneAt   : Option Nat
  fromCourier : Bool
  reissue  : Bool
  apc      : Nat
  xpc      : Nat
  opid     : Nat
  chan     : Nat
  aux      : List Nat
  seen     : List Nat
  deriving DecidableEq, Repr

/-- The courier of a core (R158): whether it runs, its program, flag and table addresses, PC, OFS, LC, the bases WB_c, and
the COPYs it has issued. -/
structure Courier where
  running : Bool
  cmd     : Nat
  prog    : Nat
  flag    : Nat
  table   : Nat
  pc      : Nat
  ofs     : Nat
  lc      : Nat
  wb      : List Nat
  copies  : List Nat
  waiting : Bool
  ended   : Bool
  deriving DecidableEq, Repr

/-- A bank of weights (R208, R209, R215, R224): K, N and WFMT, the cycle in which its load completes, its rows of N elements one after
another once loaded, the parameters and the phase halves of its load, whether it holds the vectors of an MVSTREAM, and the exact sums that the
checksum lanes formed at the load: of each weight row over each 32 columns, those of the first columns first, or of the vectors. -/
structure Bank where
  k      : Nat
  n      : Nat
  wfmt   : Nat
  doneAt : Nat
  wts    : List Byte
  params : List Word
  half   : BitVec 3
  vec    : Bool
  sums   : List FVal
  deriving DecidableEq, Repr

/-- An OPEN batch (R214): AFMT and PLANES, output offset, CB stride, halves and ACC of the opening command, and its rows so far. -/
structure Batch where
  afmt    : Nat
  planes  : Nat
  out     : Nat
  cstride : Nat
  half    : BitVec 3
  acc     : Bool
  rows    : Nat
  deriving DecidableEq, Repr

/-- The status flags and the checksum state of a claim number (R202, R220, R221). -/
structure ClaimStatus where
  ovf      : Bool
  inv      : Bool
  sat      : Bool
  chk      : Bool
  mask     : BitVec 12
  compared : Nat
  deriving DecidableEq, Repr

/-- What the checksum lane of a plot compares for a row (R219): the plot's ring position, its block, the first of the row's elements that it
forms and their number, and the exact sum that the row sums of the load give. -/
structure Lane where
  plot  : Nat
  block : Nat
  first : Nat
  count : Nat
  sum   : FVal
  deriving DecidableEq, Repr

/-- A row or column that has entered the plots and not yet landed (R211, R215, R216): its command, its landing cycle, the offset of
each output element with the exact block sums it adds in order, whether it accumulates, whether it is an integer row, and the lanes
that compare it. -/
structure TrellisRow where
  cmd   : Nat
  due   : Nat
  cells : List (Nat × List FVal)
  acc   : Bool
  int   : Bool
  lanes : List Lane
  deriving DecidableEq, Repr

/-- A claim number of the trellis (R202): HELD, its shape and origin, PRI, both banks, its batch; its status at the start of a cycle and
what rows landing in that cycle have set; the bytes at its weight-stream port; the rows in flight; last entry, entry interval and last
landing of its most recent stream; whether an MVSTREAM still consumes; the RELEASE that holds the XP and its cycle once known; the cycle by
which every WLOAD that has started is complete. -/
structure Claim where
  held    : Bool
  a       : Nat
  b       : Nat
  origin  : Nat
  pri     : Nat
  active  : Option Bank
  shadow  : Option Bank
  batch   : Option Batch
  status  : ClaimStatus
  fresh   : ClaimStatus
  freshAt : Nat
  port    : List Byte
  rows    : List TrellisRow
  streams : Bool
  elast   : Nat
  rprev   : Nat
  llast   : Nat
  feeding : Bool
  draining : Bool
  endsAt  : Option Nat
  wdone   : Nat
  deriving DecidableEq, Repr

/-- The task a core runs (R40, R51, R231): its window's die, serial and shard; address space; vintage; image; text; seed; the
record's and the launch's strict flags; whether its COMMIT is recorded; the descriptor's words; the physical core it runs on, by its
key. -/
structure Running where
  wdie     : Nat
  serial   : Nat
  shard    : Nat
  shards   : Nat
  asid     : Nat
  vt       : BitVec 12
  image    : Nat
  textOff  : Nat
  textSize : Nat
  loopOff  : Nat
  loopCnt  : Nat
  seed     : Word
  strict   : Bool
  committed : Bool
  desc     : List Word
  launch   : Nat
  phys     : Nat
  deriving DecidableEq, Repr

/-- An entry of the pigeonhole (R193), and the cycle from which it is present. -/
structure PigeonEntry where
  path  : Nat
  index : Nat
  val0  : Nat
  val1  : Nat
  at_   : Nat
  deriving DecidableEq, Repr

/-- What a capture of a phase keeps (R224): the AP's registers, predicates, masks and conditions, the XP's predicates, masks and offsets,
the bytes of the vw0 range and of the keep range with their offsets, the pigeonhole, the claims; and where the phase begins: the
address of its first group, its position, both loops. -/
structure Capture where
  a      : Table Word
  ap     : BitVec 8
  am     : Table Word
  w      : Table Word
  xp     : BitVec 8
  xm     : Table Mask
  o      : Table (BitVec 32)
  runs   : List (Nat × List Byte)
  pigeon : List PigeonEntry
  ovf    : Bool
  claims : Table Claim
  pc     : Nat
  pos    : Nat
  apLoop : Option LoopRun
  xpLoop : Option LoopRun
  deriving DecidableEq, Repr

/-- A logical core (R39, R40, and the rules INVENTORY.md names for each field). -/
structure Core where
  task      : Option Running
  a         : Table Word
  ap        : ProcState
  apPreds   : BitVec 8
  apMasks   : Table Word
  w         : Table Word
  space     : Memory
  views     : Table Word
  xp        : ProcState
  xpPreds   : BitVec 8
  xpMasks   : Table Mask
  offsets   : Table (BitVec 32)
  latches   : Table Vec
  aq        : Table (List AqEntry)
  xq        : Table (List XqEntry)
  bq        : List BqEntry
  bqKept    : List Bool
  wCopies   : List (List Word)
  tokens    : Table (List (Nat × Option Nat))
  wp        : Table Nat
  wpLast    : Table (Nat × Nat)
  slip      : Nat
  mark      : BitVec 16
  landings  : List Landing
  pigeon    : List PigeonEntry
  pigeonOvf : Bool
  wb        : Memory
  ab        : Memory
  cb        : Memory
  grants    : Table Nat
  cmds      : List Cmd
  courier   : Courier
  claims    : Table Claim
  half      : BitVec 3
  capture   : Option Capture
  cmdLog    : List Cmd
  phaseLog  : List Cmd
  logOver   : Bool
  phaseErrs : Nat
  phaseChk  : Nat
  restart   : Option Nat
  pageReqs  : List (Nat × Nat × Nat)
  tlb       : List TlbEntry
  hotBytes  : Table Nat
  hotStall  : Table Nat
  traps     : List (Nat × TrapInfo × Nat × Nat)
  inject    : Table Nat
  soon      : Bool
  discardAt : Option Nat
  deriving DecidableEq, Repr

/-! ## The device -/

/-- The state of a vintage (R122). -/
inductive VintState where
  | free | live | retiring | folding
  deriving DecidableEq, Repr

/-- A cell of a vintage (R300, R301): the slot of the cell directory that holds it, its vintage and VA, its frame and its size. -/
structure Cell where
  slot   : Nat
  asid   : Nat
  vint   : Nat
  va     : Nat
  frame  : Nat
  size   : Nat
  deriving DecidableEq, Repr

/-- A vintage allocation that waits (R123): the die, context, register and predicate, in order of arrival. -/
structure VintWaiter where
  die : Nat
  set : Nat
  dst : Nat
  at_ : Nat
  deriving DecidableEq, Repr

/-- The vintage allocator of an address space (R122, R123). -/
structure Space where
  vints   : Table VintState
  vlim    : Nat
  waiters : List VintWaiter
  root    : Nat
  deriving DecidableEq, Repr

/-- Who waits for a cell, a page or a shootdown. An AP's write that has left for the hub before its cell is taken is one of them: its agent, its
core, the materialisation, and its word's address. -/
inductive Waiter where
  | ctx (die set : Nat)
  | ap (die core : Nat)
  | late (agent : AgentId) (die core making pc : Nat)
  | xp (die core : Nat)
  | courier (die core : Nat)
  | shard (die serial shard : Nat)
  | remote (dev opid : Nat)
  | cmd (die core id : Nat)
  | fill (die serial : Nat)
  | seal (die core : Nat)
  | free (asid vint : Nat)
  | host (m : HostMsg)
  deriving DecidableEq, Repr

/-- A materialisation that runs (R303): the piece, its vintage, whether it is fresh, the base frame, the cell's frame, the
cycle in which the cell is ready, and whether the cell is taken: one that a write on its way to the hub will ask for has no frame yet, and
stands under addresses beyond the physical space. -/
structure Materialise where
  id      : Nat
  asid    : Nat
  vint    : Nat
  va      : Nat
  size    : Nat
  fresh   : Bool
  base    : Nat
  frame   : Nat
  readyAt : Nat
  taken   : Bool
  deriving DecidableEq, Repr

/-- A writer that waits for a free cell (R305), in order of arrival: the cycle in which it reaches the hub, where the cell comes from (a
logical die's rename area, or 8 plus the address space for a launch's cell store), and the timeout's cycle where the launch sets one. -/
structure CellWait where
  id     : Nat
  hubAt  : Nat
  src    : Nat
  asid   : Nat
  vint   : Nat
  va     : Nat
  waiter : Waiter
  until_ : Option Nat
  deriving DecidableEq, Repr

/-- A shootdown in flight (R295); held names the runs of memory that the old translations led to, none where they are not known any more. -/
structure Shootdown where
  id     : Nat
  asid   : Nat
  vint   : Option Nat
  va     : Nat
  len    : Nat
  held   : Option (List (Nat × Nat))
  done   : Waiter
  deriving DecidableEq, Repr

/-- An entry of the poste restante (R297), and the cycle by which its hub holds it. -/
structure Poste where
  asid : Nat
  va   : Nat
  vint : Nat
  hub  : Nat
  seq  : Nat
  due  : Nat
  data : List Byte
  deriving DecidableEq, Repr

/-- A page being made resident, or in flight to the host (R296, R299). -/
structure PageFault where
  asid    : Nat
  va      : Nat
  size    : Nat
  vint    : Nat
  write   : Bool
  event   : Nat
  toHost  : Bool
  again   : Bool
  waiters : List Waiter
  deriving DecidableEq, Repr

/-- The pager's answer that a page cannot be made resident, until the one who waits for it has looked (R296). -/
structure PageFailure where
  asid   : Nat
  va     : Nat
  who    : Waiter
  until_ : Nat
  deriving DecidableEq, Repr

/-- A running launch (R51, R126). -/
structure Launch where
  number  : Nat
  words   : List Word
  asid    : Nat
  strict  : Bool
  replay  : Nat
  image   : Nat
  textOff : Nat
  textSize : Nat
  dataOff : Nat
  cellVa  : Nat
  cellLen : Nat
  timeout : Nat
  seed    : Word
  slots   : Nat
  done    : Bool
  deriving DecidableEq, Repr

/-- A frame sent and not yet acknowledged, or whose operation still awaits its answer (R388, R389, R393): when it was first sent, its
resends, whether it waits under HOLD, whether it is acknowledged. -/
structure Sent where
  frame   : Frame
  first   : Nat
  attempt : Nat
  hold    : Bool
  acked   : Bool
  deriving DecidableEq, Repr

/-- The sending rate of a flow (R391): num / 2^halvings Gb/s, the cycle of its last cut, and that of the rise it awaits. -/
structure SendRate where
  num      : Nat
  halvings : Nat
  lastCut  : Option Nat
  raiseAt  : Option Nat
  deriving DecidableEq, Repr

/-- The flow pair with a peer (R388 to R395): the sending side, the receiving side, the route. resetAt is the cycle of its next RESET; stall
holds, in PSN order, the requests received whose turn to be performed a full poste restante holds up; opWait the requests beyond the 256
that may be outstanding. -/
structure Flow where
  nextPsn   : Nat
  unacked   : List Sent
  waitq     : List Frame
  nextOpid  : Nat
  rate      : SendRate
  ece       : Bool
  recvPsn   : Nat
  buffer    : List Frame
  peerEpoch : Option (BitVec 16)
  known     : Bool
  sinceAck  : Nat
  ackDue    : Option Nat
  up        : Bool
  resetSent : Bool
  port      : Nat
  timeouts  : Nat
  resetAt   : Option Nat
  stall     : List Frame
  opWait    : List Frame
  deriving DecidableEq, Repr

/-- An answer of the answer table (R392). -/
structure Answer where
  opid   : Nat
  at_    : Nat
  status : Nat
  value  : Word
  deriving DecidableEq, Repr

/-- The receiving side of a list flow (R397): its place, whether it has begun, whether a RESET asks for its beginning, the CE mark since
its last ACK, the deliveries whose turn a full poste restante holds up, and the answers given. -/
structure ListRecv where
  psn       : Nat
  buffer    : List Frame
  known     : Bool
  resetSent : Bool
  ece       : Bool
  stall     : List Frame
  answers   : List Answer
  deriving DecidableEq, Repr

/-- The sending side of a list flow (R397): the next PSN, its rate, and for each member the frames it has not acknowledged. -/
structure ListSend where
  psn     : Nat
  rate    : SendRate
  unacked : Table (List Sent)
  deriving DecidableEq, Repr

/-- An operation outstanding toward another device (R387, R392): who issued it and what it still awaits. -/
inductive RemoteUser where
  | cmd (die core id : Nat)
  | rpost (die set dst : Nat)
  | cancel (die set dst : Nat)
  | notify (die serial : Nat)
  deriving DecidableEq, Repr

/-- An operation outstanding toward another device. -/
structure RemoteOp where
  dev   : Nat
  opid  : Nat
  user  : RemoteUser
  left  : Nat
  dst   : Nat
  deriving DecidableEq, Repr

/-- A multicast that awaits its members' answers (R397, R380): list, receipt VA, the members and the group as the list stood at its start, whether its frame
has been sent, each member's answer. -/
structure McastOp where
  id      : Nat
  die     : Nat
  core    : Nat
  cmd     : Nat
  list    : Nat
  receipt : Nat
  members : List Nat
  grp     : Nat
  sent    : Bool
  answers : List (Nat × Nat)
  opids   : List (Nat × Nat)
  deriving DecidableEq, Repr

/-- An operation of another device in progress here (R392): the cause of its first failure, the cycle by which its bytes are
performed, and the cycle in which it is performed or answered, once that is known. -/
structure ServedOp where
  dev    : Nat
  opid   : Nat
  failed : Nat
  bytes  : Nat
  due    : Option Nat
  deriving DecidableEq, Repr

/-- A mailing list (R396). -/
structure MailList where
  valid   : Bool
  members : List Nat
  grp     : Nat
  deriving DecidableEq, Repr

/-- A read of a barrier object of another die that the die holds (R321): whose it is, its number among that agent's, the runs it reads, and the cycle
in which it is answered. -/
structure HeldRead where
  agent  : AgentId
  num    : Nat
  runs   : List (Nat × Nat)
  until_ : Nat
  deriving DecidableEq, Repr

/-- Events to the host (R400). -/
inductive HostEvent where
  | complete (launch : Nat)
  | fault (asid va size vint : Nat) (write : Bool) (hub : Nat)
  | error (r : ErrRec)
  deriving DecidableEq, Repr

/-- The addresses and the Traffic Class under which a frame leaves a fabric port (R383, R384, R396). -/
structure Envelope where
  srcMac : BitVec 48
  dstMac : BitVec 48
  srcIp  : BitVec 128
  dstIp  : BitVec 128
  udp    : BitVec 16
  ecn    : BitVec 2
  deriving DecidableEq, Repr

/-- What the device sends: a frame from a fabric port, an answer on a host port, an event. -/
inductive Output where
  | frame (port : Nat) (env : Envelope) (f : Frame)
  | answer (m : HostMsg)
  | event (number : Nat) (e : HostEvent)
  deriving DecidableEq, Repr

/-- The boot sequence (R421 to R426): powered off, its steps, waiting for a BOOT command after step 4 under RECOV, step 6, handed
off, ended by an error. -/
inductive BootStep where
  | off | step1 | step2 | step3 | step4 | step5 | waiting | handoff | running | stopped
  deriving DecidableEq, Repr

/-- What boot, the flash, the straps and the fuses hold (R421 to R427): the step, the cycles in which it began and in which its work is
done, the RECOV strap and RECOV as sampled at reset, the WP strap, SVNF, the areas of the flash, the slot that booted last and the slot
that boots now, the BOOTs held, the measurements, the host ports' keys and the cycles since which they are held, the self-test summary, the
bytes that have come of boot-stage commands sent in pieces, and the ports that took part in the handoff. -/
structure Boot where
  step      : BootStep
  since     : Nat
  until_    : Nat
  strap     : Bool
  recov     : Bool
  wp        : Bool
  svnf      : Nat
  slotA     : Memory
  slotB     : Memory
  recovery  : Memory
  identity  : Memory
  owner     : Memory
  booted    : Option Nat
  source    : Option Nat
  held      : List HostMsg
  measures  : List (BitVec 256)
  keys      : Table (BitVec 256)
  keysAt    : Table Nat
  selftest  : Nat
  pieces    : Table (List Byte)
  open_     : List Nat
  deriving DecidableEq, Repr

/-- What an error record names: KIND, PLACE, INDEX, SUB (R414). -/
structure ErrUnit where
  kind  : Nat
  place : Nat
  index : Nat
  sub   : Nat
  deriving DecidableEq, Repr

/-- A soft error that has struck a structure and is not yet found (R408), which the outside puts into the state: in the registers of a processor;
in a queue of a core (its aq, xq, bq, pigeonhole or claim queues); in a core's capture of its phase (R272); in a record of a window or letterbox; in the directory's entry of a cell; in
the flits of a die-to-hub link, beyond their replays; in an entry of a TLB (of a core, or with core 32 of a die) or of a hub's walker cache; in a word
of a parity bank, by its group's row of words; or one that its structure corrects (a flit that a replay delivers among them), by the unit whose
score it raises. Errors of memory are in the poisoned words and the injections. -/
inductive Strike where
  | regs (p : Proc)
  | queues (die core : Nat)
  | capture (die core : Nat)
  | record (die serial : Nat)
  | cell (asid vint va : Nat)
  | link (die hub : Nat)
  | tlb (die core asid va : Nat)
  | walker (hub pa : Nat)
  | parity (die row : Nat)
  | corrected (u : HwUnit)
  deriving DecidableEq, Repr

/-- How the cellar's target answers (R427): this is the outside's to say. -/
inductive CellarLink where
  | up | unreachable | failing
  deriving DecidableEq, Repr

/-- The registers of the board controller (R429), and the byte that its master drives for a write of CTRL (`wire`: the outside's). -/
structure Board where
  status : BitVec 16
  tdie   : BitVec 16
  tin    : BitVec 16
  pwr    : BitVec 16
  ctrl   : BitVec 8
  wire   : BitVec 8
  deriving DecidableEq, Repr

/-- A checkpoint image of the cellar (R418, R427); of each die it holds the window, letterbox, contexts, routing counters and
scores. Images are numbered in the order of their checkpoints; the contexts that wait for the checkpoint are in it with the register
that gets its result. -/
structure Image where
  ident    : Word
  launches : List Launch
  tick     : Nat
  mem      : Memory
  dies     : Table Die
  spaces   : Table Space
  hscore   : Table Nat
  fscore   : Table Nat
  cells    : List Cell
  joiners  : List (Nat × Nat × Nat)
  number   : Nat
  complete : Bool
  deriving DecidableEq, Repr

/-- A checkpoint in progress (R418): the step, the identifier, the contexts that wait for its result, the issue cycle. -/
structure Ckpt where
  step    : Nat
  ident   : Word
  joiners : List (Nat × Nat × Nat)
  since   : Nat
  slot    : Nat
  deriving DecidableEq, Repr

/-- A unit withdrawn (R404, R410): whether its test runs or waits, or it is fenced, and the reserve slot it holds. -/
inductive UnitState where
  | waiting | testing | fenced
  deriving DecidableEq, Repr

/-- A withdrawn unit, with the logical cores whose tasks still run on it, its score when its test started, the cycle in which the test ends and
whether it has found a failure (R404, R410). -/
structure Withdrawn where
  hw    : HwUnit
  state : UnitState
  slot  : Option Nat
  holds : List Nat
  score : Nat
  until_ : Nat
  bad   : Bool
  deriving DecidableEq, Repr

/-- An act of the current cycle: an event, a word at an address, a processor's turn to issue or to have passed a group, a
core's turn to look at its queues, courier and waits, the device's to look at what serves it as a whole, the end of a core's cycle. -/
inductive Act where
  | ev (i : Instr)
  | word (p : Proc) (addr : Nat)
  | issue (p : Proc)
  | passed (p : Proc)
  | poll (die core : Nat)
  | device
  | settle (die core : Nat)
  deriving DecidableEq, Repr

/-- Who executes: the die, the core, and the address of the word. -/
structure Focus where
  die  : Nat
  core : Nat
  pc   : Nat
  deriving DecidableEq, Repr

/-- How far an agent's accesses have come (R315): those to SO pages, to SO and RC pages, and to any page, its releases, its acquires, and
what a fence lets no later access pass (R322). -/
structure OrderMark where
  agent : AgentId
  so    : Reach
  mem   : Reach
  all   : Reach
  rel   : Nat
  acq   : Reach
  floor : Reach
  deriving DecidableEq, Repr

/-- The whole state. INVENTORY.md lists what each part is in the manual; cycle, agenda, timers, inbox, focus, fresh, seq and
outbox are the model's own. -/
structure State where
  cycle     : Nat
  focus     : Focus
  agenda    : List Act
  timers    : List (Nat × Instr)
  inbox     : List Instr
  outbox    : List Output
  fresh     : Nat
  seq       : Nat
  mem       : Memory
  poison    : List Nat
  dies      : Table Die
  cores     : Table Core
  spaces    : Table Space
  cells     : List Cell
  making    : List Materialise
  cellWaits : List CellWait
  writes    : List Pending
  barriers  : List Nat
  heldReads : List HeldRead
  order     : List OrderMark
  shoots    : List Shootdown
  poste     : List Poste
  posteSeq  : Table Nat
  faults    : List PageFault
  failed    : List PageFailure
  walkers   : Table (List Nat)
  launches  : List Launch
  launchNo  : Nat
  devid     : Option Nat
  ipPrefix  : Word
  lists     : Table MailList
  flows     : Table Flow
  listSend  : Table ListSend
  listRecv  : Table ListRecv
  answers   : Table (List Answer)
  ops       : List RemoteOp
  mcasts    : List McastOp
  served    : List ServedOp
  epoch     : BitVec 16
  ports     : Table Bool
  discards  : Table Nat
  uctAnswers : Table (List HostMsg)
  events    : List (Nat × HostEvent)
  nextEvent : Nat
  hscore    : Table Nat
  fscore    : Table Nat
  injHub    : Table (Nat × Nat)
  injPool   : Table Nat
  reserve   : List (Nat × Nat)
  withdrawn : List Withdrawn
  fencedPairs : List Nat
  partition : Nat
  corrected : List (ErrUnit × Nat)
  boot      : Boot
  board     : Board
  powerLog  : List Nat
  powerHold : Bool
  tempHold  : Bool
  hotInlet  : Nat
  ckpt      : Option Ckpt
  cellar    : Table Image
  cellarLink : CellarLink
  strikes   : List Strike
  ended     : List (Nat × Nat × TaskState)
  deriving DecidableEq, Repr

/-- Why a step faults. -/
inductive Fault where
  /-- Raised by step when the module is powered off and no power-on waits (R430): there is no next step. Safe. -/
  | poweredOff
  deriving DecidableEq, Repr

/-- Why a step is refused. -/
inductive Refusal where
  /-- Raised by exec for an instruction that has no meaning yet. Safe. -/
  | notModelled (mnemonic : String)
  deriving DecidableEq, Repr

/-! ## Reset -/

/-- A register set with every register at zero. -/
def RegSet.zero : RegSet := { pc := 0, c := [], p := 0, w := [] }

/-- A FREE context (R94): registers zero, ceiling 7 (R117). -/
def Ctx.free : Ctx :=
  { regs := .zero, state := .free, wait := .none, ready := 0, issued := 0, ceiling := 7, launch := 0 }

/-- A control core at reset: monitor mode (R100), idle until a monitor event. -/
def Ctl.reset : Ctl :=
  { monitor := true, ctx := 0, pmode := false, pctx := 0, mas := 0, tvec := 0, epc := 0, ecause := 0, einfo := 0,
    escratch := 0, ctxs := [], mon := { Ctx.free with state := .waiting, wait := .idle }, landings := [], outward := [],
    handed := [], shadows := [], lastIssue := 0, chkcnt := 0, events := [], firmware := [], acted := false }

/-- No counts. -/
def RouteCounters.zero : RouteCounters :=
  { routes := 0, tokens := 0, nans := 0, sat := 0, adm := [], drop := [], emax := 0 }

/-- A die at reset. -/
def Die.reset : Die :=
  { ctl := .reset, entries := [], departed := [], letterbox := [], stalled := [], childQueue := [], leftChildren := [], nextSerial := 1,
    wlog2 := 0, letterboxBit := false, renameMib := 0, holdDispatch := false, acceptPosts := false, renameUsed := [],
    hotIndex := 0, reserved := [], gangHold := [], tlb := [], routing := .zero, provisional := [], clears := [], routeFree := 0, errors := [], errcnt := 0, pscore := [], cscore := [],
    gscore := [], lscore := [], thresh := 256, inj := 0, injUsed := false, injmem := 0, testrec := 0 }

/-- A processor that is stopped. -/
def ProcState.idle : ProcState :=
  { pc := 0, pos := 0, ready := 0, issued := 0, wait := .none, word := 0, loop := none, stopped := true, retry := [], group := 0,
    held := false, jumped := false, past := 0 }

/-- A courier that does not run. -/
def Courier.idle : Courier :=
  { running := false, cmd := 0, prog := 0, flag := 0, table := 0, pc := 0, ofs := 0, lc := 0, wb := [], copies := [],
    waiting := false, ended := false }

/-- No flag set, nothing compared. -/
def ClaimStatus.zero : ClaimStatus := { ovf := false, inv := false, sat := false, chk := false, mask := 0, compared := 0 }

/-- A claim number at its reset (R202). -/
def Claim.reset : Claim :=
  { held := false, a := 0, b := 0, origin := 0, pri := 0, active := none, shadow := none, batch := none, status := .zero, fresh := .zero,
    freshAt := 0, port := [], rows := [], streams := false, elast := 0, rprev := 0, llast := 0, feeding := false, draining := false,
    endsAt := none, wdone := 0 }

/-- A core that runs no task: registers zero, queues empty, tokens satisfied, the default views are read for an unlisted
view (R42). -/
def Core.reset : Core :=
  { task := none, a := [], ap := .idle, apPreds := 0, apMasks := [], w := [], space := [], views := [], xp := .idle,
    xpPreds := 0, xpMasks := [], offsets := [], latches := [], aq := [], xq := [], bq := [], bqKept := [], wCopies := [],
    tokens := [], wp := [], wpLast := [], slip := 4096, mark := 0, landings := [], pigeon := [], pigeonOvf := false,
    wb := [], ab := [], cb := [], grants := [], cmds := [], courier := .idle, claims := [], half := 0, capture := none, cmdLog := [], phaseLog := [],
    logOver := false, phaseErrs := 0, phaseChk := 0, restart := none, pageReqs := [], tlb := [], hotBytes := [],
    hotStall := [], traps := [], inject := [], soon := false, discardAt := none }

/-- The address space of an ASID at reset: vintage 0 LIVE, every other FREE (R122), VLIM 4,095 (R99). -/
def Space.reset : Space := { vints := [(0, .live)], vlim := 4095, waiters := [], root := 0 }

/-- Boot at step 1 (R421). -/
def Boot.reset : Boot :=
  { step := .step1, since := 0, until_ := Config.bootCycles 0, strap := false, recov := false, wp := true, svnf := 0, slotA := [],
    slotB := [], recovery := [], identity := [], owner := [], booted := none, source := none, held := [], measures := [], keys := [],
    keysAt := [], selftest := 0, pieces := [], open_ := [] }

/-- Board registers at reset (R429). -/
def Board.reset : Board := { status := 0, tdie := 0, tin := 0, pwr := 0, ctrl := 0, wire := Config.boardByte 0 }

/-- The device right after reset. -/
def State.reset : State :=
  { cycle := 0, focus := ⟨0, 0, 0⟩, agenda := [], timers := [(500000001, .bootStepTimeout)], inbox := [], outbox := [], fresh := 1, seq := 0, mem := [],
    poison := [], dies := [], cores := [], spaces := [], cells := [], making := [], cellWaits := [], writes := [], barriers := [], heldReads := [], order := [], shoots := [], poste := [],
    posteSeq := [], faults := [], failed := [], walkers := [], launches := [], launchNo := 0, devid := none, ipPrefix := 0, lists := [], flows := [],
    listSend := [], listRecv := [], answers := [], ops := [], mcasts := [], served := [], epoch := Config.epochDraw 0, ports := [],
    discards := [], uctAnswers := [], events := [], nextEvent := 1, hscore := [], fscore := [], injHub := [], injPool := [],
    reserve := [], withdrawn := [], fencedPairs := [], partition := 8, corrected := [], boot := .reset, board := .reset, powerLog := [], powerHold := false,
    tempHold := false, hotInlet := 0, ckpt := none, cellar := [], cellarLink := .up, strikes := [], ended := [] }

end Sys2Proof.Machine
end

