-- ==== Sys2Proof/Machine/Ops.lean ====
section
/-! DEFINITION. The named operations over the state: tables, bytes of memory, registers, the clock and its events, results
that land, traps and their entry, errors. -/

namespace Sys2Proof.Machine

/-- The outcome of a step. -/
abbrev Out := Host.Outcome State Fault Refusal

/-! ## Tables -/

/-- The value listed for a key. -/
def tfind {α : Type} : Table α → Nat → Option α
  | [], _ => none
  | (a, v) :: r, k => if a = k then some v else tfind r k

/-- The value for a key, or the default. -/
def tget {α : Type} (t : Table α) (k : Nat) (d : α) : α := (tfind t k).getD d

/-- The table with a key's value replaced. -/
def tput {α : Type} : Table α → Nat → α → Table α
  | [], k, v => [(k, v)]
  | (a, x) :: r, k, v => if a = k then (k, v) :: r else if k < a then (k, v) :: (a, x) :: r else (a, x) :: tput r k v

/-- The table without a key. -/
def tdel {α : Type} (t : Table α) (k : Nat) : Table α := t.filter (fun c => c.1 != k)

/-- The table with a key's value replaced, the default not listed. -/
def tset {α : Type} [DecidableEq α] (t : Table α) (k : Nat) (v d : α) : Table α := if v = d then tdel t k else tput t k v

/-! ## Bytes -/

/-- The byte at an address: zero where none is listed (entry 2). -/
def byteAt (m : Memory) (a : Nat) : Byte := tget m a 0

/-- The n bytes from an address on. -/
def bytesAt (m : Memory) (a n : Nat) : List Byte :=
  let near := m.filter (fun c => a ≤ c.1 && c.1 < a + n)
  (List.range n).map (fun i => byteAt near (a + i))

/-- The cells of bytes that lie from an address on; zero bytes are not listed. -/
def cellsOf : Nat → List Byte → Memory
  | _, [] => []
  | a, b :: r => if b = 0 then cellsOf (a + 1) r else (a, b) :: cellsOf (a + 1) r

/-- Memory with bytes replaced from an address on. -/
def writeBytes (m : Memory) (a : Nat) (bs : List Byte) : Memory :=
  m.filter (fun c => c.1 < a) ++ cellsOf a bs ++ m.filter (fun c => a + bs.length ≤ c.1)

/-- The canonical form: addresses rising, no byte listed that an unlisted address reads. -/
abbrev Memory.wf (m : Memory) : Prop := m.Pairwise (fun x y => x.1 < y.1) ∧ ∀ c ∈ m, c.2 ≠ 0

/-- The n bytes from an address on as a number (R3). -/
def natAt (m : Memory) (a n : Nat) : Nat := leNat (bytesAt m a n)

/-- The doubleword at an address. -/
def wordAt (m : Memory) (a : Nat) : Word := BitVec.ofNat 64 (natAt m a 8)

/-- Memory with n bytes of a number written from an address on. -/
def putNat (m : Memory) (a n x : Nat) : Memory := writeBytes m a (leBytes n x)

/-- The bytes of a doubleword. -/
def wordBytes (w : Word) : List Byte := leBytes 8 w.toNat

/-- Doublewords laid out one after another. -/
def wordsBytes (ws : List Word) : List Byte := ws.flatMap wordBytes

/-- The doublewords that bytes hold. -/
def bytesWords (n : Nat) (bs : List Byte) : List Word :=
  (List.range n).map (fun i => BitVec.ofNat 64 (leNat ((bs.drop (8 * i)).take 8)))

/-- Word i of a list of words, or zero. -/
def wordOf (ws : List Word) (i : Nat) : Word := ws.getD i 0

/-- The bits hi down to lo of a word. -/
def bits (w : Word) (hi lo : Nat) : Nat := w.toNat / 2 ^ lo % 2 ^ (hi + 1 - lo)

/-- Bit i of a word. -/
def bit (w : Word) (i : Nat) : Bool := w.getLsbD i

/-- A field placed in a word. -/
def fieldAt (x lo : Nat) : Word := BitVec.ofNat 64 (x * 2 ^ lo)

/-- The bytes of a 256-byte operand. -/
def vecBytes (v : Vec) : List Byte := leBytes 256 v.toNat

/-- A 256-byte operand from bytes, zero above them. -/
def vecOf (bs : List Byte) : Vec := BitVec.ofNat 2048 (leNat bs)

/-- The least multiple of n at or above x. -/
def roundUp (x n : Nat) : Nat := (x + n - 1) / n * n

/-- Division rounded up. -/
def ceilDiv (x n : Nat) : Nat := (x + n - 1) / n

/-! ## Dies and cores -/

/-- A logical die. -/
def dieOf (s : State) (d : Nat) : Die := tget s.dies d .reset

/-- The state with a die replaced. -/
def putDie (s : State) (d : Nat) (x : Die) : State := { s with dies := tput s.dies d x }

/-- The state with a die changed. -/
def onDie (s : State) (d : Nat) (f : Die → Die) : State := putDie s d (f (dieOf s d))

/-- The key of a logical core. -/
def coreKey (d c : Nat) : Nat := 32 * d + c

/-- A logical core. -/
def coreOf (s : State) (d c : Nat) : Core := tget s.cores (coreKey d c) .reset

/-- The state with a core replaced. -/
def putCore (s : State) (d c : Nat) (x : Core) : State := { s with cores := tput s.cores (coreKey d c) x }

/-- The state with a core changed. -/
def onCore (s : State) (d c : Nat) (f : Core → Core) : State := putCore s d c (f (coreOf s d c))

/-- The core that executes. -/
def State.core (s : State) : Core := coreOf s s.focus.die s.focus.core

/-- The state with the core that executes changed. -/
def State.onCore (s : State) (f : Core → Core) : State := Machine.onCore s s.focus.die s.focus.core f

/-- A control core. -/
def ctlOf (s : State) (d : Nat) : Ctl := (dieOf s d).ctl

/-- The state with a control core changed. -/
def onCtl (s : State) (d : Nat) (f : Ctl → Ctl) : State := onDie s d (fun x => { x with ctl := f x.ctl })

/-- The address space of an ASID. -/
def spaceOf (s : State) (asid : Nat) : Space := tget s.spaces asid .reset

/-- The state with an address space changed. -/
def onSpace (s : State) (asid : Nat) (f : Space → Space) : State := { s with spaces := tput s.spaces asid (f (spaceOf s asid)) }

/-- The launch of a number. -/
def launchOf (s : State) (n : Nat) : Option Launch := s.launches.find? (fun l => l.number == n)

/-! ## The clock and its events -/

/-- An event set for a cycle; one due now is the next act. -/
def at' (s : State) (due : Nat) (i : Instr) : State :=
  if due ≤ s.cycle then { s with agenda := .ev i :: s.agenda } else { s with timers := s.timers ++ [(due, i)] }

/-- An act put at the end of this cycle's acts, unless it is there. -/
def later (s : State) (a : Act) : State := if s.agenda.contains a then s else { s with agenda := s.agenda ++ [a] }

/-- Something sent out of the device. -/
def emit (s : State) (o : Output) : State := { s with outbox := s.outbox ++ [o] }

/-- The reference tick of a cycle (R15): 25 core cycles. -/
def tickOf (cycle : Nat) : Nat := cycle / 25

/-- A fresh free value (entry 11). -/
def freeOf (s : State) : Word × State := (Config.freeWord s.fresh, { s with fresh := s.fresh + 1 })

/-- A fresh number in the order of issue. -/
def nextSeq (s : State) : Nat × State := (s.seq, { s with seq := s.seq + 1 })

/-! ## Registers of the control core (R34, R39, R94, R105) -/

/-- The register set that runs: the loaded context, or 8 for the monitor's own. -/
def Ctl.set (c : Ctl) : Nat := if c.monitor then 8 else c.ctx

/-- A context, or the monitor's set (8). -/
def Ctl.ctxOf (c : Ctl) (n : Nat) : Ctx := if n = 8 then c.mon else tget c.ctxs n .free

/-- The control core with a context, or the monitor's set, changed. -/
def Ctl.onCtx (c : Ctl) (n : Nat) (f : Ctx → Ctx) : Ctl :=
  if n = 8 then { c with mon := f c.mon } else { c with ctxs := tput c.ctxs n (f (c.ctxOf n)) }

/-- Register n of a set: c0 reads zero, 1 to 31 c, 32 to 35 w. -/
def RegSet.get (r : RegSet) (n : Nat) : Word :=
  if n = 0 then 0 else if n < 32 then tget r.c n 0 else tget r.w (n - 32) 0

/-- The set with register n written; a write to c0 is discarded. -/
def RegSet.put (r : RegSet) (n : Nat) (v : Word) : RegSet :=
  if n = 0 then r else if n < 32 then { r with c := tset r.c n v 0 } else { r with w := tset r.w (n - 32) v 0 }

/-- Predicate n: p0 reads one. -/
def predGet (p : BitVec 8) (n : Nat) : Bool := if n = 0 then true else p.getLsbD n

/-- Predicates with one written; a write to p0 is discarded. -/
def predPut (p : BitVec 8) (n : Nat) (b : Bool) : BitVec 8 :=
  if n = 0 then p else if b then p ||| (1#8 <<< n) else p &&& ~~~(1#8 <<< n)

/-- Whether a word's predicate holds (R30). -/
def holdsOn (h : Hdr) (p : BitVec 8) : Bool := predGet p h.pred.toNat != h.n

/-! ## Registers of a task core (R34, R39, R41, R42) -/

/-- a0 to a63, vt at 64, w0 to w3 at 65 to 68. -/
def Core.aGet (c : Core) (n : Nat) : Word :=
  if n = 0 then 0
  else if n < 64 then tget c.a n 0
  else if n = 64 then (match c.task with | some t => t.vt.setWidth 64 | none => 0)
  else tget c.w (n - 65) 0

/-- The core with an a- or w-register written; writes to a0 and vt are discarded. -/
def Core.aPut (c : Core) (n : Nat) (v : Word) : Core :=
  if n = 0 ∨ n = 64 then c
  else if n < 64 then { c with a := tset c.a n v 0 }
  else { c with w := tset c.w (n - 65) v 0 }

/-- The AP's element mask n: m0 reads all ones. -/
def Core.amGet (c : Core) (n : Nat) : Word := if n = 0 then BitVec.allOnes 64 else tget c.apMasks n 0

/-- The core with an AP mask written; m0 is not. -/
def Core.amPut (c : Core) (n : Nat) (v : Word) : Core := if n = 0 then c else { c with apMasks := tset c.apMasks n v 0 }

/-- The XP's byte-lane mask n: m0 reads all ones. -/
def Core.xmGet (c : Core) (n : Nat) : Mask := if n = 0 then BitVec.allOnes 256 else tget c.xpMasks n 0

/-- The core with an XP mask written; m0 is not. -/
def Core.xmPut (c : Core) (n : Nat) (v : Mask) : Core := if n = 0 then c else { c with xpMasks := tset c.xpMasks n v 0 }

/-- Offset register n. -/
def Core.oGet (c : Core) (n : Nat) : BitVec 32 := tget c.offsets n 0

/-- Latch n. -/
def Core.latch (c : Core) (n : Nat) : Vec := tget c.latches n 0

/-- The default views (R42). -/
def defaultView (n : Nat) : Word :=
  match n with
  | 0 => fieldAt 3 44 ||| fieldAt 64 34 ||| fieldAt 0x1FE00 0
  | 1 => fieldAt 8 44 ||| fieldAt 512 34
  | 2 => fieldAt 10 44 ||| fieldAt 128 34
  | _ => fieldAt 12 44 ||| fieldAt 32 34

/-- View register n. -/
def Core.view (c : Core) (n : Nat) : Word := tget c.views n (defaultView n)

/-! ## Results that land (R33, R102, R372, R373) -/

/-- Whether a write lands after the others of its cycle: the latches, which read the register space (R373), and the bits of pages that
are not resident, which the MTEST that clears in that cycle has not seen (R141). -/
def RegWrite.isLatch : RegWrite → Bool
  | .apMaskOr _ _ => true
  | .latch _ _ => true
  | .latchOf _ _ _ => true
  | .latchPart _ _ _ => true
  | _ => false

/-- A result of the word at an address, issued in a cycle, set to land. -/
def landOf (s : State) (u : Agent) (at_ pc due : Nat) (writes : List RegWrite) : State :=
  let l : Landing := { at_ := at_, pc := pc, due := due, writes := writes }
  let s' := match u with
    | .ctl d => onCtl s d (fun c => { c with landings := c.landings ++ [l] })
    | .core d c => onCore s d c (fun x => { x with landings := x.landings ++ [l] })
  if s'.timers.contains (due, .resultLand u) || s'.agenda.contains (.ev (.resultLand u)) && due ≤ s.cycle then s'
  else at' s' due (.resultLand u)

/-- A result of the word in focus set to land. -/
def land (s : State) (u : Agent) (due : Nat) (writes : List RegWrite) : State := landOf s u s.cycle s.focus.pc due writes

/-- Whether a result's word issued before that of another: in an earlier cycle, or in one cycle at a lower address (R33). -/
def Landing.before (a b : Landing) : Bool := a.at_ < b.at_ || (a.at_ = b.at_ && a.pc < b.pc)

/-- A result put behind those issued no later than it. -/
def Landing.into (l : Landing) : List Landing → List Landing
  | [] => [l]
  | x :: r => if l.before x then l :: x :: r else x :: l.into r

/-- Results in the order of their issue. -/
def issueOrder (ls : List Landing) : List Landing := ls.foldl (fun r l => l.into r) []

/-! ## Trap causes (R406) -/

/-- The code of a cause. -/
def Cause.code : Cause → Nat
  | .none => 0x00 | .illegalOp => 0x01 | .illegalEng => 0x02 | .reservedField => 0x03 | .viewRange => 0x04
  | .align => 0x05 | .bufferAccess => 0x06 | .prot => 0x10 | .sealed => 0x11 | .orderKind => 0x12
  | .staleHandle => 0x13 | .regionMixed => 0x14 | .format => 0x15 | .boundOverrun => 0x20 | .claimBusy => 0x21
  | .claimShape => 0x22 | .notCommitted => 0x23 | .nondeterministic => 0x24 | .vintageSpace => 0x30
  | .vintageState => 0x31 | .uncorrectable => 0x40 | .checksum => 0x41 | .checkerMismatch => 0x42
  | .windowFull => 0x50 | .fabricNack => 0x51 | .linkDown => 0x52

/-- A trap with nothing recorded beside its cause. -/
def trapOf (c : Cause) : TrapInfo := { cause := c, error := 0, info := 0, qkind := 0, qidx := 0, qpos := 0, cond := 0 }

/-- Whether EINFO names an address, a vintage, a handle or a device for a cause; of the others it is 0 (R101, R392). -/
def Cause.informs : Cause → Bool
  | .align | .prot | .sealed | .orderKind | .format | .reservedField | .staleHandle | .regionMixed | .vintageState | .fabricNack
  | .linkDown => true
  | _ => false

/-- A trap that names an address or a number. -/
def trapAt (c : Cause) (info : Nat) : TrapInfo := { trapOf c with info := if c.informs then BitVec.ofNat 64 info else 0 }

/-! ## Shadows of a register set (R103) -/

/-- Whether a register write is one of a register set of a control core. -/
def RegWrite.ofSet (set : Nat) : RegWrite → Bool
  | .cc n _ _ => n = set
  | .ccPred n _ _ => n = set
  | .load (.cc n _) _ _ _ _ _ => n = set
  | _ => false

/-- The results still to land in a register set. -/
def Ctl.landingsOf (c : Ctl) (set : Nat) : List Landing := c.landings.filter (fun l => l.writes.any (RegWrite.ofSet set))

/-- The state of a set as a shadow keeps it (R103). -/
def Ctl.snap (c : Ctl) (set : Nat) : Shadow := 
  { regs := (c.ctxOf set).regs, landings := c.landingsOf set, misses := 0, awaits := false }

/-- The control core with a set's shadow captured at a context start, an ERET or the entry of monitor mode (R103); while an action of
the set is still to match, the shadow before that action stays. -/
def Ctl.capture (c : Ctl) (set : Nat) : Ctl :=
  { c with shadows := if c.outward.any (fun o => o.set = set) then c.shadows else tput c.shadows set (c.snap set) }

/-! ## Taking a trap or an event on a control core (R97, R98, R101) -/

/-- The move to monitor mode: EPC, ECAUSE and EINFO written, the mode and the context loaded in graph mode recorded, whichever mode was
interrupted; the PC at TVEC; the monitor's set has its shadow captured at its start (entry 52). -/
def Ctl.enter (c : Ctl) (epc ecause einfo : Word) (now : Nat) : Ctl :=
  ({ c with
    epc := epc, ecause := ecause, einfo := einfo,
    pmode := c.monitor, pctx := c.ctx, monitor := true, acted := false,
    mon := { c.mon with regs := { c.mon.regs with pc := c.tvec.toNat }, state := .runnable, wait := .none, ready := now } }
    : Ctl).capture 8

/-- A trap of the word at a text offset. The first word at TVEC issues two cycles after the trap, one after an event (entry 120). -/
def ccTrap (s : State) (d : Nat) (epc : Nat) (cause : Cause) (einfo : Word) : State :=
  onCtl s d (fun c => c.enter (BitVec.ofNat 64 epc) (BitVec.ofNat 64 cause.code) einfo (s.cycle + 2))

/-- The result of a set's outward action lands, before those of the words that its set has issued since: the shadow that the action's
match captured receives it too, so that a restored core finds it (R33, R103, R104). -/
def landOutside (s : State) (d set due : Nat) (ws : List RegWrite) : State :=
  landOf (onCtl s d (fun c => match tfind c.shadows set with
    | some sh =>
      let l : Landing := { at_ := 0, pc := 0, due := due, writes := ws }
      { c with shadows := tput c.shadows set { sh with landings := sh.landings ++ [l], awaits := false } }
    | none => c)) (.ctl d) 0 0 due ws

/-- A set's wait ends: its next word issues no earlier than a cycle. -/
def ccWake (s : State) (d set ready : Nat) : State :=
  onCtl s d (fun c => c.onCtx set (fun x =>
    { x with wait := .none, state := if x.state == .waiting then .runnable else x.state, ready := max x.ready ready }))

/-- The result of a blocking outward action lands, and its set goes on in that cycle. -/
def ccDeliver (s : State) (d set due : Nat) (ws : List RegWrite) : State := ccWake (landOutside s d set due ws) d set due

/-- The outcome of a wait lands, and its set goes on in that cycle. A restored core waits again, so no shadow receives it. -/
def ccOutcome (s : State) (d set due : Nat) (ws : List RegWrite) : State := ccWake (land s (.ctl d) due ws) d set due

/-- A blocking word of a set traps after its issue: the set stands at that word again, and traps there when it is the one loaded; one
that an event has interrupted returns to that word, and one that is not loaded meets the trap when it issues it again. -/
def ccTrapAgain (s : State) (d set : Nat) (cause : Cause) (info : Word) : State :=
  let c := ctlOf s d
  let pc := (c.ctxOf set).regs.pc - 8
  let s := ccWake (onCtl s d (fun c =>
    let c := c.onCtx set (fun x => { x with regs := { x.regs with pc := pc } })
    if c.monitor && !c.pmode && c.pctx = set then { c with epc := BitVec.ofNat 64 pc } else c)) d set s.cycle
  if c.set = set then ccTrap s d pc cause info else s

/-- A blocking word of a set met data that cannot be corrected (R408). -/
def ccMisread (s : State) (d set : Nat) : State := ccTrapAgain s d set .uncorrectable 0

/-- ECAUSE of a monitor event (R101). -/
def eventCause (code : Nat) : Word := fieldAt code 32 ||| fieldAt 1 8

/-- The oldest held event taken, when there is one (R97): EPC is the address of the next word. -/
def Ctl.takeEvent (c : Ctl) (now : Nat) : Ctl :=
  match c.events with
  | [] => c
  | e :: r => { c.enter (BitVec.ofNat 64 (c.ctxOf c.set).regs.pc) (eventCause e) 0 now with events := r }

/-- A monitor event of a die: taken now in graph mode or in an idle monitor, held otherwise (R97). -/
def postEvent (s : State) (d code : Nat) : State :=
  onCtl s d (fun c =>
    let c := { c with events := c.events ++ [code] }
    if !c.monitor || c.mon.wait == .idle then c.takeEvent (s.cycle + 1) else c)

/-- The first other RUNNABLE context in ascending number after the loaded one, wrapping round (R96). -/
def Ctl.nextCtx (c : Ctl) : Option Nat :=
  ((List.range 7).map (fun i => (c.ctx + 1 + i) % 8)).find? (fun n => (c.ctxOf n).state == .runnable)

/-- A context loaded by a switch: its first word issues 12 cycles after the last, and the words it issues are counted anew (R96). -/
def Ctl.load (c : Ctl) (n : Nat) : Ctl :=
  ({ c with ctx := n }).onCtx n (fun x => { x with ready := max x.ready (c.lastIssue + 12), issued := 0 })

/-- Return from monitor mode (R98): the mode and context of MSTAT, at EPC; in place of a DONE context the next RUNNABLE one, round robin
from its number. The return captures the shadow of what it resumes (R103), and a held event is taken before that issues.
The count of R96 starts anew (entry 171). -/
def Ctl.ret (c : Ctl) (now : Nat) : Ctl :=
  let c := if c.pmode then
      { c with mon := { c.mon with regs := { c.mon.regs with pc := c.epc.toNat }, ready := now } }.capture 8
    else
      let c := { c with monitor := false, ctx := c.pctx }
      if (c.ctxOf c.pctx).state == .done then
        (match c.nextCtx with
        | some n => (c.load n).capture n
        | none => c)
      else (c.onCtx c.pctx (fun x =>
        { x with regs := { x.regs with pc := c.epc.toNat }, ready := max x.ready now, issued := 0 })).capture c.pctx
  c.takeEvent now

/-! ## Traps of a task (R54, R407) -/

/-- A trap of a core's task, kept until the end of the cycle: its class by R407, what it records, and both PCs. -/
def coreTrap (s : State) (d c cls : Nat) (t : TrapInfo) (apc xpc : Nat) : State :=
  later (onCore s d c (fun x => { x with traps := x.traps ++ [(cls, t, apc, xpc)] })) (.settle d c)

/-- A trap of the AP's word at the address in focus. -/
def apTrap (s : State) (t : TrapInfo) : State :=
  coreTrap s s.focus.die s.focus.core 0 t s.focus.pc s.core.xp.pc

/-- A trap of the XP's word at the address in focus. -/
def xpTrap (s : State) (t : TrapInfo) : State :=
  coreTrap s s.focus.die s.focus.core 1 t s.core.ap.pc s.focus.pc

/-! ## Errors and events to the host (R400, R413, R414) -/

/-- A device-to-host event with the next number, sent again until it is acknowledged. -/
def hostEvent (s : State) (e : HostEvent) : State :=
  let n := s.nextEvent
  at' (emit { s with nextEvent := n + 1, events := s.events ++ [(n, e)] } (.event n e)) (s.cycle + 250000) (.eventResend n)

/-- An error record that names no unit but a die. -/
def noUnit (d : Nat) : ErrUnit := { kind := 0, place := d, index := 0, sub := 0 }

/-- An error record written to a die's ring, sent to the host, and posted as monitor event 2. -/
def logError (s : State) (d code cause : Nat) (u : ErrUnit) (info : Word) (score : Nat) : State :=
  let r : ErrRec :=
    { w0 := fieldAt code 48 ||| fieldAt cause 40 ||| fieldAt u.kind 36 ||| fieldAt u.place 28 ||| fieldAt u.index 12 |||
        fieldAt u.sub 0
      w1 := BitVec.ofNat 64 (tickOf s.cycle), w2 := info, w3 := fieldAt s.nextEvent 16 ||| fieldAt score 0 }
  let s := onDie s d (fun x => { x with errors := tput x.errors (x.errcnt % 64) r, errcnt := x.errcnt + 1 })
  postEvent (hostEvent s (.error r)) d 2

end Sys2Proof.Machine
end

