-- ==== Sys2Proof/Machine/Float.lean ====
section
/-! DEFINITION. Number formats and rounding (R66 to R93): floating-point values as exact numbers, one rounding from the exact
result, stochastic rounding, the random word, block-scaled and bit-plane encodings. -/

namespace Sys2Proof.Machine

/-! ## Formats (R67 to R70) -/

/-- The floating-point formats. -/
inductive Fmt where
  | e4m3 | e5m2 | bf16 | f16 | f32
  deriving DecidableEq, Repr

/-- Exponent bits. -/
def Fmt.ebits : Fmt → Nat
  | .e4m3 => 4 | .e5m2 => 5 | .bf16 => 8 | .f16 => 5 | .f32 => 8

/-- Mantissa bits. -/
def Fmt.mbits : Fmt → Nat
  | .e4m3 => 3 | .e5m2 => 2 | .bf16 => 7 | .f16 => 10 | .f32 => 23

/-- Bias. -/
def Fmt.bias : Fmt → Nat
  | .e4m3 => 7 | .e5m2 => 15 | .bf16 => 127 | .f16 => 15 | .f32 => 127

/-- Bytes of an element. -/
def Fmt.bytes : Fmt → Nat
  | .e4m3 => 1 | .e5m2 => 1 | .bf16 => 2 | .f16 => 2 | .f32 => 4

/-- Whether the format saturates in place of infinity (R74). -/
def Fmt.isFp8 : Fmt → Bool
  | .e4m3 => true | .e5m2 => true | _ => false

/-- The canonical NaN (R68 to R70). -/
def Fmt.nan : Fmt → Nat
  | .e4m3 => 0x7F | .e5m2 => 0x7E | .bf16 => 0x7FC0 | .f16 => 0x7E00 | .f32 => 0x7FC00000

/-- The largest finite value's encoding, sign clear. -/
def Fmt.maxFinite : Fmt → Nat
  | .e4m3 => 0x7E | .e5m2 => 0x7B | .bf16 => 0x7F7F | .f16 => 0x7BFF | .f32 => 0x7F7FFFFF

/-- The sign bit's weight. -/
def Fmt.signBit (f : Fmt) : Nat := 2 ^ (f.ebits + f.mbits)

/-- The value of an encoding (R67). -/
def decodeF (f : Fmt) (x : Nat) : FVal :=
  let neg := x / f.signBit % 2 = 1
  let e := x / 2 ^ f.mbits % 2 ^ f.ebits
  let m := x % 2 ^ f.mbits
  let top := 2 ^ f.ebits - 1
  if f = .e4m3 ∧ e = top ∧ m = 7 then .nan
  else if f ≠ .e4m3 ∧ e = top then (if m = 0 then .inf neg else .nan)
  else if e = 0 then .fin neg m (1 - (f.bias : Int) - f.mbits)
  else .fin neg (2 ^ f.mbits + m) ((e : Int) - f.bias - f.mbits)

/-- Whether a value is NaN. -/
def FVal.isNan : FVal → Bool
  | .nan => true
  | _ => false

/-- Whether a value is finite. -/
def FVal.isFin : FVal → Bool
  | .fin _ _ _ => true
  | _ => false

/-- Whether a value is zero. -/
def FVal.isZero : FVal → Bool
  | .fin _ m _ => m == 0
  | _ => false

/-- The sign of a value. -/
def FVal.neg : FVal → Bool
  | .nan => false
  | .inf n => n
  | .fin n _ _ => n

/-! ## Rounding (R73, R74, R77) -/

/-- The rounding modes of RM for a floating-point result. -/
inductive Round where
  | rne | rtz | rsr | rup
  deriving DecidableEq, Repr

/-- The mode that RM names. -/
def Round.of (rm : BitVec 2) : Round := match rm.toNat with | 0 => .rne | 1 => .rtz | 2 => .rsr | _ => .rup

/-- A sign on an encoding. -/
def Fmt.signed (f : Fmt) (neg : Bool) (x : Nat) : Nat := if neg then f.signBit + x else x

/-- The result of an overflow (R74); up says that stochastic rounding chose the upper neighbour. -/
def overflowF (f : Fmt) (mode : Round) (neg up : Bool) : Nat :=
  let inf := f.signed neg ((2 ^ f.ebits - 1) * 2 ^ f.mbits)
  let big := f.signed neg f.maxFinite
  if f.isFp8 then big
  else match mode with
    | .rne => inf
    | .rtz => big
    | .rup => if neg then big else inf
    | .rsr => if up then inf else big

/-- An infinite result: E4M3 has none (R74). -/
def infF (f : Fmt) (neg : Bool) : Nat :=
  if f = .e4m3 then f.signed neg f.maxFinite else f.signed neg ((2 ^ f.ebits - 1) * 2 ^ f.mbits)

/-- An exact number of magnitude q·2^e, plus something below one unit of q when sticky, rounded once into a format. The
random word r is used by stochastic rounding alone. Beside the encoding, whether the result overflowed. -/
def roundFlag (f : Fmt) (mode : Round) (r : Nat) (neg : Bool) (q : Nat) (e : Int) (sticky : Bool) : Nat × Bool :=
  if q = 0 then (f.signed neg 0, false)
  else
    let emin : Int := 1 - (f.bias : Int)
    let qe : Int := max ((q.log2 : Int) + e) emin - f.mbits
    let sh : Int := qe - e
    let den := 2 ^ sh.toNat
    let q := q * 2 ^ (-sh).toNat
    let lo := q / den
    let rest := q % den
    let exact := rest = 0 ∧ ¬ sticky
    let up : Bool := match mode with
      | .rne => 2 * rest > den || (2 * rest = den && (sticky || lo % 2 = 1))
      | .rtz => false
      | .rup => !neg && !(rest = 0 && !sticky)
      | .rsr => r < rest * 2 ^ 32 / den
    let n := if up then lo + 1 else lo
    let carry := n = 2 ^ (f.mbits + 1)
    let n' := if carry then n / 2 else n
    let qe' := if carry then qe + 1 else qe
    let exp : Nat := if n' < 2 ^ f.mbits then 0 else (qe' + f.mbits + f.bias).toNat
    let enc := exp * 2 ^ f.mbits + n' % 2 ^ f.mbits
    if exp > 2 ^ f.ebits ∨ enc > f.maxFinite then (overflowF f mode neg (up || decide exact), true)
    else (f.signed neg enc, false)

/-- An exact number rounded once into a format. -/
def roundMag (f : Fmt) (mode : Round) (r : Nat) (neg : Bool) (q : Nat) (e : Int) (sticky : Bool) : Nat :=
  (roundFlag f mode r neg q e sticky).1

/-- A value rounded into a format. -/
def roundF (f : Fmt) (mode : Round) (r : Nat) : FVal → Nat
  | .nan => f.nan
  | .inf neg => infF f neg
  | .fin neg m e => roundMag f mode r neg m e false

/-- Whether rounding a finite value to nearest overflows (R74). -/
def overflows (f : Fmt) : FVal → Bool
  | .fin neg m e => (roundFlag f .rne 0 neg m e false).2
  | _ => false

/-! ## Exact arithmetic (R76) -/

/-- The exact sum; opposite infinities give NaN, an exact zero is +0 unless both operands are −0. -/
def addV : FVal → FVal → FVal
  | .nan, _ => .nan
  | _, .nan => .nan
  | .inf a, .inf b => if a = b then .inf a else .nan
  | .inf a, _ => .inf a
  | _, .inf b => .inf b
  | .fin na ma ea, .fin nb mb eb =>
    let e := min ea eb
    let x : Int := (ma * 2 ^ (ea - e).toNat : Nat)
    let y : Int := (mb * 2 ^ (eb - e).toNat : Nat)
    let t := (if na then -x else x) + (if nb then -y else y)
    if t = 0 then .fin (na && nb) 0 e else .fin (t < 0) t.natAbs e

/-- The negated value. -/
def negV : FVal → FVal
  | .nan => .nan
  | .inf a => .inf (!a)
  | .fin n m e => .fin (!n) m e

/-- The magnitude. -/
def absV : FVal → FVal
  | .nan => .nan
  | .inf _ => .inf false
  | .fin _ m e => .fin false m e

/-- The exact product; zero times infinity gives NaN. -/
def mulV : FVal → FVal → FVal
  | .nan, _ => .nan
  | _, .nan => .nan
  | .inf a, .inf b => .inf (a != b)
  | .inf a, .fin n m _ => if m = 0 then .nan else .inf (a != n)
  | .fin n m _, .inf b => if m = 0 then .nan else .inf (n != b)
  | .fin na ma ea, .fin nb mb eb => .fin (na != nb) (ma * mb) (ea + eb)

/-- Whether one value is below another; −0 is below +0, and a NaN makes it false (R76). -/
def ltV : FVal → FVal → Bool
  | .nan, _ => false
  | _, .nan => false
  | .inf a, .inf b => a && !b
  | .inf a, .fin _ _ _ => a
  | .fin _ _ _, .inf b => !b
  | .fin na ma ea, .fin nb mb eb =>
    let e := min ea eb
    let x := ma * 2 ^ (ea - e).toNat
    let y := mb * 2 ^ (eb - e).toNat
    if na && !nb then true
    else if !na && nb then false
    else if na then decide (y < x) else decide (x < y)

/-- Whether two values are the same; +0 and −0 are not, and a NaN makes it false (R76). -/
def eqV (a b : FVal) : Bool := !a.isNan && !b.isNan && !ltV a b && !ltV b a

/-- The lesser value; a NaN gives NaN. -/
def minV (a b : FVal) : FVal := if a.isNan || b.isNan then .nan else if ltV b a then b else a

/-- The greater value; a NaN gives NaN. -/
def maxV (a b : FVal) : FVal := if a.isNan || b.isNan then .nan else if ltV a b then b else a

/-- The floor of a square root, bit by bit from the top. -/
def isqrtFrom : Nat → Nat → Nat → Nat
  | 0, _, r => r
  | k + 1, n, r =>
    let t := r + 2 ^ k
    isqrtFrom k n (if t * t ≤ n then t else r)

/-- The floor of a square root. -/
def isqrt (n : Nat) : Nat := isqrtFrom (n.log2 / 2 + 1) n 0

/-- A quotient of magnitudes rounded once: mantissas and exponents of a nonzero dividend and divisor. -/
def divMag (f : Fmt) (mode : Round) (r : Nat) (neg : Bool) (ma : Nat) (ea : Int) (mb : Nat) (eb : Int) : Nat :=
  let k := 128 + mb.log2
  let n := ma * 2 ^ k
  roundMag f mode r neg (n / mb) (ea - eb - k) (n % mb != 0)

/-- Division: x/0 is an infinity, 0/0 and ∞/∞ are NaN. -/
def divF (f : Fmt) (mode : Round) (r : Nat) : FVal → FVal → Nat
  | .nan, _ => f.nan
  | _, .nan => f.nan
  | .inf _, .inf _ => f.nan
  | .inf a, .fin n _ _ => infF f (a != n)
  | .fin n _ _, .inf b => f.signed (n != b) 0
  | .fin na ma ea, .fin nb mb eb =>
    if mb = 0 then (if ma = 0 then f.nan else infF f (na != nb))
    else if ma = 0 then f.signed (na != nb) 0
    else divMag f mode r (na != nb) ma ea mb eb

/-- Square root: a negative number gives NaN, −0 gives −0. -/
def sqrtF (f : Fmt) : FVal → Nat
  | .nan => f.nan
  | .inf neg => if neg then f.nan else infF f false
  | .fin neg m e =>
    if m = 0 then f.signed neg 0
    else if neg then f.nan
    else
      let odd : Nat := (e % 2).toNat
      let n := m * 2 ^ (odd + 256)
      let q := isqrt n
      roundMag f .rne 0 false q ((e - odd) / 2 - 128) (q * q != n)

/-- Reciprocal square root: ±0 gives an infinity of its sign, a negative number NaN. -/
def rsqrtF (f : Fmt) : FVal → Nat
  | .nan => f.nan
  | .inf neg => if neg then f.nan else 0
  | .fin neg m e =>
    if m = 0 then infF f neg
    else if neg then f.nan
    else
      let odd : Nat := (e % 2).toNat
      let k := 256 + 2 * m.log2
      let d := m * 2 ^ odd
      let q := isqrt (2 ^ (2 * k) / d)
      roundMag f .rne 0 false q (-((e - odd) / 2) - k) (q * q * d != 2 ^ (2 * k))

/-- The bits of ln 2 after the binary point: floor of ln 2 · 2^192 (entry 7). -/
def ln2Bits : Nat := 4350955369971217654477563090224794165364344896676135745069

/-- The terms y^k/k! of an exponential series in 192-bit fixed point: fuel, the index of the term, the term, the sum. -/
def expSeries : Nat → Nat → Nat → Nat → Nat → Nat
  | 0, _, _, _, acc => acc
  | n + 1, y, k, term, acc =>
    let term' := term * y / 2 ^ 192 / k
    expSeries n y (k + 1) term' (acc + term')

/-- 2^f for a fraction f of 192 bits, in 192-bit fixed point (entry 7). -/
def exp2Frac (frac : Nat) : Nat := expSeries 64 (frac * ln2Bits / 2 ^ 192) 1 (2 ^ 192) (2 ^ 192)

/-- A dyadic number's floor, and its fraction in 192 bits. -/
def splitV (neg : Bool) (m : Nat) (e : Int) : Int × Nat :=
  let x : Int := if neg then -(m : Int) else m
  if e ≥ 0 then (x * 2 ^ e.toNat, 0)
  else
    let d : Int := 2 ^ (-e).toNat
    (x / d, ((x % d) * 2 ^ 192 / d).toNat)

/-- 2 to a power, rounded to nearest (entry 7). -/
def exp2F (f : Fmt) : FVal → Nat
  | .nan => f.nan
  | .inf neg => if neg then 0 else infF f false
  | .fin neg m e =>
    if m = 0 then roundMag f .rne 0 false 1 0 false
    else if (m.log2 : Int) + e > 12 then (if neg then 0 else overflowF f .rne false true)
    else
      let p := splitV neg m e
      if p.2 = 0 then (if p.1 < -400 then 0 else roundMag f .rne 0 false 1 p.1 false)
      else if p.1 < -400 then 0
      else roundMag f .rne 0 false (exp2Frac p.2) (p.1 - 192) true

/-- The binary logarithm's fraction by squaring: fuel, a number from 1 up to 2 in 192-bit fixed point, the bits so far. -/
def log2Bits : Nat → Nat → Nat → Nat
  | 0, _, acc => acc
  | n + 1, y, acc =>
    let y2 := y * y / 2 ^ 192
    if y2 ≥ 2 ^ 193 then log2Bits n (y2 / 2) (2 * acc + 1) else log2Bits n y2 (2 * acc)

/-- The binary logarithm, rounded to nearest; of ±0 −∞, of a negative number NaN (entry 7). -/
def log2F (f : Fmt) : FVal → Nat
  | .nan => f.nan
  | .inf neg => if neg then f.nan else infF f false
  | .fin neg m e =>
    if m = 0 then infF f true
    else if neg then f.nan
    else
      let l := m.log2
      let n : Int := (l : Int) + e
      if m = 2 ^ l then roundMag f .rne 0 (n < 0) n.natAbs 0 false
      else
        let t : Int := n * 2 ^ 80 + (log2Bits 80 (m * 2 ^ 192 / 2 ^ l) 0 : Nat)
        if t ≥ 0 then roundMag f .rne 0 false t.toNat (-80) true
        else roundMag f .rne 0 true (-t - 1).toNat (-80) true

/-- The natural exponential of a value, as a number in fixed point: mantissa and exponent, below one unit exact (entry 7). -/
def expV (neg : Bool) (m : Nat) (e : Int) : Nat × Int :=
  -- x · log2 e as floor and fraction: x / ln 2
  let x : Int := if neg then -(m : Int) else m
  let num : Int := if e ≥ 0 then x * 2 ^ (e.toNat + 384) else x * 2 ^ 384
  let den : Int := if e ≥ 0 then ln2Bits else ln2Bits * 2 ^ (-e).toNat
  let y := num / den
  let fl := y / 2 ^ 192
  let fr := (y % 2 ^ 192).toNat
  (exp2Frac fr, fl - 192)

/-! ## Integers (R66, R73, R75) -/

/-- The signed value of the low w bits of a number. -/
def signedOf (w : Nat) (x : Nat) : Int := if x % 2 ^ w ≥ 2 ^ (w - 1) then (x % 2 ^ w : Nat) - 2 ^ w else (x % 2 ^ w : Nat)

/-- The low w bits of an integer. -/
def wrapInt (w : Nat) (x : Int) : Nat := (x % 2 ^ w).toNat

/-- An exact integer narrowed to w bits by RM: modulo 2^w, clamped to the signed range, clamped to the unsigned range. -/
def narrowInt (w : Nat) (rm : BitVec 2) (x : Int) : Nat :=
  match rm.toNat with
  | 1 => wrapInt w (max (-(2 ^ (w - 1))) (min (2 ^ (w - 1) - 1) x))
  | 2 => (max 0 (min (2 ^ w - 1) x)).toNat
  | _ => wrapInt w x

/-- A value rounded to an integer, to nearest with ties to even. -/
def nearestInt (neg : Bool) (m : Nat) (e : Int) : Int :=
  let n : Nat :=
    if e ≥ 0 then m * 2 ^ e.toNat
    else
      let d := 2 ^ (-e).toNat
      let lo := m / d
      let rest := m % d
      if 2 * rest > d || (2 * rest = d && lo % 2 = 1) then lo + 1 else lo
  if neg then -(n : Int) else n

/-- A magnitude m·2^e rounded to an integer in a floating-point mode, r the random word (R177). -/
def roundInt (mode : Round) (r : Nat) (neg : Bool) (m : Nat) (e : Int) : Int :=
  let x : Int :=
    if e ≥ 0 then (m * 2 ^ e.toNat : Nat)
    else
      let k := 2 ^ (-e).toNat
      let q := m / k
      let rest := m % k
      let up := match mode with
        | .rne => decide (k < 2 * rest) || (decide (2 * rest = k) && decide (q % 2 = 1))
        | .rtz => false
        | .rsr => decide (r < rest * 2 ^ 32 / k)
        | .rup => decide (rest ≠ 0) && !neg
      (if up then q + 1 else q : Nat)
  if neg then -x else x

/-- A value converted to an integer of w bits by RM (R75). -/
def floatToInt (w : Nat) (rm : BitVec 2) : FVal → Nat
  | .nan => 0
  | .inf neg =>
    match rm.toNat with
    | 1 => if neg then 2 ^ (w - 1) else 2 ^ (w - 1) - 1
    | 2 => if neg then 0 else 2 ^ w - 1
    | _ => 0
  | .fin neg m e => narrowInt w rm (nearestInt neg m e)

/-- An integer as a value. -/
def intV (x : Int) : FVal := .fin (x < 0) x.natAbs 0

/-! ## Element types (R36, R72) -/

/-- An element: an integer of w bits, or a floating-point number. -/
inductive Elem where
  | int (w : Nat)
  | flt (f : Fmt)
  deriving DecidableEq, Repr

/-- The element of TY, with the FP8 flavour of the view (R36, R72). -/
def elemOf (ty : BitVec 3) (fl8 : Bool) : Elem :=
  match ty.toNat with
  | 0 => .int 8 | 1 => .int 16 | 2 => .int 32 | 3 => .int 64
  | 4 => .flt .bf16 | 5 => .flt .f16 | 6 => .flt .f32 | _ => .flt (if fl8 then .e5m2 else .e4m3)

/-- Bytes of an element. -/
def Elem.bytes : Elem → Nat
  | .int w => w / 8
  | .flt f => f.bytes

/-- The element of a page format code 1 to 9 (R81). -/
def elemOfCode (code : Nat) : Elem :=
  match code with
  | 1 => .int 8 | 2 => .int 16 | 3 => .int 32 | 4 => .int 64
  | 5 => .flt .e4m3 | 6 => .flt .e5m2 | 7 => .flt .bf16 | 8 => .flt .f16 | _ => .flt .f32

/-- An element's value, integers as signed or unsigned. -/
def Elem.value (t : Elem) (unsigned : Bool) (x : Nat) : FVal :=
  match t with
  | .int w => if unsigned then intV (x % 2 ^ w : Nat) else intV (signedOf w x)
  | .flt f => decodeF f x

/-- A value as an element, rounded or narrowed by RM; r is the random word. -/
def Elem.pack (t : Elem) (rm : BitVec 2) (r : Nat) (v : FVal) : Nat :=
  match t with
  | .int w => floatToInt w rm v
  | .flt f => roundF f (Round.of rm) r v

/-- An element converted to another type by R75; integers are read as signed. -/
def convertElem (src dst : Elem) (rm : BitVec 2) (r x : Nat) : Nat :=
  match src, dst with
  | .int ws, .int wd => narrowInt wd (if wd < ws then rm else 0) (signedOf ws x)
  | _, _ => dst.pack rm r (src.value false x)

/-- Element n of a 256-byte operand, as its bits. -/
def laneOf (size : Nat) (v : Vec) (n : Nat) : Nat := (v >>> (8 * size * n)).toNat % 2 ^ (8 * size)

/-- Elements laid out from byte 0 on, as a number. -/
def packLanes (size : Nat) : List Nat → Nat
  | [] => 0
  | x :: r => x % 2 ^ (8 * size) + 2 ^ (8 * size) * packLanes size r

/-! ## The random word (R78, R79) -/

/-- Rotation left of 32 bits. -/
def rotl32 (x n : Nat) : Nat := (x * 2 ^ n + x / 2 ^ (32 - n)) % 2 ^ 32

/-- The rounds of Mix: rotations, round number, key and state. -/
def mixRounds : List (Nat × Nat) → Nat → (Nat → Nat) → Nat × Nat × Nat × Nat → Nat × Nat × Nat × Nat
  | [], _, _, x => x
  | (ra, rb) :: rest, i, k, (x0, x1, x2, x3) =>
    let x0 := (x0 + x1 + k (i % 4)) % 2 ^ 32
    let x3 := rotl32 (x3 ^^^ x0) ra
    let x2 := (x2 + x3 + k ((i + 1) % 4)) % 2 ^ 32
    let x1 := rotl32 (x1 ^^^ x2) rb
    mixRounds rest (i + 1) (fun n => if n = i % 4 then (k n + 0x9E3779B9) % 2 ^ 32 else k n) (x0, x1, x2, x3)

/-- Mix (R79). -/
def mix (k0 k1 k2 k3 x0 x1 x2 x3 : Nat) : Nat × Nat × Nat × Nat :=
  mixRounds [(16, 12), (8, 7), (13, 19), (24, 5), (11, 17), (15, 9), (6, 21), (20, 14), (10, 23), (18, 3)] 0
    (fun n => match n with | 0 => k0 | 1 => k1 | 2 => k2 | _ => k3) (x0, x1, x2, x3)

/-- What the random words of one rounding instruction share: seed, serial, text offset, iteration count, shard (R78). -/
structure Draw where
  seed   : Nat
  serial : Nat
  text   : Nat
  iter   : Nat
  shard  : Nat
  deriving DecidableEq, Repr

/-- The random word of an element; step is counter word 3 (R78). -/
def Draw.word (d : Draw) (elem step : Nat) : Nat :=
  (mix ((d.seed % 2 ^ 32) ^^^ (d.serial % 2 ^ 32)) ((d.seed / 2 ^ 32 % 2 ^ 32) ^^^ (d.serial / 2 ^ 32 % 2 ^ 16))
    0x4D796C6C 0x69646F6E (d.text % 2 ^ 32) (d.iter % 2 ^ 32) (d.shard % 2 ^ 24 * 256 + elem % 256) step).1

/-! ## Block-scaled pages (R83 to R85) -/

/-- The element of a block-scaled code: 11 E4M3, 12 E5M2, 13 i8. -/
def blockElem (code : Nat) : Elem := match code with | 11 => .flt .e4m3 | 12 => .flt .e5m2 | _ => .int 8

/-- Max of a block-scaled code (R84). -/
def blockMax (code : Nat) : Nat := match code with | 11 => 448 | 12 => 57344 | _ => 127

/-- A value times a power of two. -/
def scaleV (v : FVal) (k : Int) : FVal := match v with | .fin n m e => .fin n m (e + k) | x => x

/-- The value of an element byte under a scale byte (R83, R85). -/
def blockValue (code c x : Nat) : FVal :=
  if c = 255 then .nan else scaleV ((blockElem code).value false x) ((c : Int) - 127)

/-- The first of a run of exponents for which a magnitude fits: fuel and the exponent tried. -/
def leastScale (mx : Nat) (m : Nat) (e : Int) : Nat → Int → Int
  | 0, k => k
  | n + 1, k =>
    -- m·2^e ≤ mx·2^k
    let d := e - k
    if (if d ≥ 0 then m * 2 ^ d.toNat ≤ mx else m ≤ mx * 2 ^ (-d).toNat) then k else leastScale mx m e n (k + 1)

/-- The encoding of a block's 32 values: the scale byte and the element bytes (R84); the elements of an FP8 block are rounded
in RM, the random word of element i being r i (R178). -/
def encodeBlockIn (code : Nat) (rm : BitVec 2) (r : Nat → Nat) (vs : List FVal) : Nat × List Byte :=
  if vs.any (fun v => !v.isFin) then (255, vs.map (fun _ => 0))
  else
    let big := vs.foldl (fun a v => if ltV a (absV v) then absV v else a) (.fin false 0 0)
    let k : Int := match big with
      | .fin _ m e => if m = 0 then -127 else min 127 (leastScale (blockMax code) m e 254 (-127))
      | _ => -127
    let pack (i : Nat) (v : FVal) : Nat := match blockElem code, scaleV v (-k) with
      | .int _, .fin n m e => wrapInt 8 (max (-127) (min 127 (nearestInt n m e)))
      | t, x => t.pack rm (r i) x
    ((k + 127).toNat, List.zipWith (fun i v => BitVec.ofNat 8 (pack i v)) (List.range vs.length) vs)

/-- The encoding of a block by a memory write: to nearest (R84). -/
def encodeBlock (code : Nat) (vs : List FVal) : Nat × List Byte := encodeBlockIn code 0 (fun _ => 0) vs

/-! ## Bit-plane pages (R86, R87) -/

/-- The bytes of a bit-plane block of 256 values of 8 bits, P planes. -/
def encodePlanes (p : Nat) (xs : List Nat) : List Byte :=
  (List.range (32 * p)).map (fun i =>
    let q := i / 32
    BitVec.ofNat 8 ((List.range 8).foldl (fun acc b => acc + (xs.getD (8 * (i % 32) + b) 0 / 2 ^ (7 - q) % 2) * 2 ^ b) 0))

/-- The 8-bit value of element j of a bit-plane block read with p planes; planes beyond P read zero. -/
def planeValue (pages p : Nat) (bs : List Byte) (j : Nat) : Nat :=
  (List.range (min p pages)).foldl (fun acc q =>
    acc + ((bs.getD (32 * q + j / 8) 0).toNat / 2 ^ (j % 8) % 2) * 2 ^ (7 - q)) 0

end Sys2Proof.Machine
end

