-- ==== Sys2Proof/Machine/Phys.lean ====
section
/-! DEFINITION. The physical map, and where the memory of a withdrawn unit stands (R284, R286, R410 to R412). -/

namespace Sys2Proof.Machine

/-! ## The physical map (R286) -/

/-- The first address of the fence reserve, which no page frame may lie in (R412). -/
def fenceBase : Nat := 0x00B1AE5E0000

/-- The end of the DRAM range for frames and page tables. -/
def dramEnd : Nat := 0x00B2AE5E0000

/-- The first address of the hotness area of die 0. -/
def hotnessBase : Nat := 0x00B2CE5E0000

/-- The first address of the pool of a logical die. -/
def poolBase (d : Nat) : Nat := 0x010000000000 + d * 0x40000000

/-- The bytes of a pool. -/
def poolSize : Nat := 0x30000000

/-- The logical die whose pool holds an address. -/
def poolDie (pa : Nat) : Option Nat :=
  if pa < 0x010000000000 then none
  else
    let r := pa - 0x010000000000
    if r / 0x40000000 < 8 ∧ r % 0x40000000 < poolSize then some (r / 0x40000000) else none

/-- Whether n bytes from an address lie in one pool, or in the DRAM range for frames. -/
def isFrame (pa n : Nat) : Bool :=
  pa + n ≤ fenceBase || ((poolDie pa).isSome && poolDie pa == poolDie (pa + n - 1))

/-- The 256-byte pieces that n bytes from an address lie in, each with the bytes in it. -/
def pieces256 (pa n : Nat) : List (Nat × Nat) :=
  if n = 0 then []
  else (List.range ((pa + n - 1) / 256 + 1 - pa / 256)).map (fun i =>
    let a := max pa ((pa / 256 + i) * 256)
    (a, min (pa + n) ((pa / 256 + i + 1) * 256) - a))

/-! ## Units of memory and their reserve slots (R284, R286, R410 to R412) -/

/-- The unit whose score an error at a physical address charges (R408). -/
def unitOfPa (pa : Nat) : HwUnit :=
  match poolDie pa with
  | some d => .poolGroup d ((pa - poolBase d) / 256 % 64 / 4)
  | none => .pch (pa / 256 % 1152 / 288) (pa / 256 % 1152 % 288)

/-- The place of a physical address in its unit: the unit's 256-byte pieces in ascending order (entry 142). -/
def unitOffset (pa : Nat) : Nat :=
  match poolDie pa with
  | some d => let o := pa - poolBase d; o / 16384 * 1024 + o / 256 % 4 * 256 + o % 256
  | none => pa / 256 / 1152 * 256 + pa % 256

/-- The physical address at a place of a unit. -/
def unitPa (u : HwUnit) (off : Nat) : Nat :=
  match u with
  | .poolGroup d g => poolBase d + off / 1024 * 16384 + (4 * g + off / 256 % 4) * 256 + off % 256
  | .pch h p => (off / 256 * 1152 + (288 * h + p)) * 256 + off % 256
  | _ => off

/-- The bytes of the reserve slot a unit needs (R412). -/
def slotBytes : HwUnit → Nat
  | .poolGroup _ _ => 48 * 1048576
  | .pch _ _ => 640 * 1048576
  | _ => 0

/-- Where the memory stands that serves a physical address: in the reserve slot of its unit while that is withdrawn or fenced (R410,
R411). -/
def servedPa (s : State) (pa : Nat) : Nat :=
  match s.withdrawn.find? (fun w => w.hw == unitOfPa pa && w.slot.isSome) with
  | some w => w.slot.getD 0 + unitOffset pa
  | none => pa

/-- The address under which the model keeps the byte at a physical address: in a reserve slot in use, that of the unit's own byte, of which
the slot holds the only copy in service (R410, entry 142). -/
def keptPa (s : State) (pa : Nat) : Nat :=
  match s.withdrawn.find? (fun w => match w.slot with | some a => decide (a ≤ pa) && decide (pa < a + slotBytes w.hw) | none => false) with
  | some w => unitPa w.hw (pa - w.slot.getD 0)
  | none => pa

/-- A run of physical bytes as the model keeps them: cut at 256-byte pieces while a reserve slot is in use. -/
def physRuns (s : State) (pa n : Nat) : List (Nat × Nat) :=
  if s.withdrawn.all (fun w => w.slot.isNone) then [(pa, n)]
  else (pieces256 pa n).map (fun p => (keptPa s p.1, p.2))

end Sys2Proof.Machine
end

