-- ==== Sys2Proof/Machine/Faults.lean ====
section
/-! DEFINITION. Suspicion scores, withdrawal and tests of units, soft errors found by reads, and poisoned words (R402 to R412,
R416). -/

namespace Sys2Proof.Machine

/-! ## Scores (R402, R410, R415) -/

/-- The score of a unit. -/
def scoreOf (s : State) : HwUnit → Nat
  | .plot d c k => tget (dieOf s d).pscore (16 * c + k) 0
  | .core d c => tget (dieOf s d).cscore c 0
  | .poolGroup d g => tget (dieOf s d).gscore g 0
  | .pch h p => tget s.hscore (512 * h + p) 0
  | .link d h => tget (dieOf s d).lscore h 0
  | .fport h f => tget s.fscore (4 * h + f) 0
  | .bank _ _ => 0
  | .hport _ => 0
  | .pair _ => 0

/-- The state with a unit's score set. -/
def setScore (s : State) (u : HwUnit) (n : Nat) : State :=
  match u with
  | .plot d c k => onDie s d (fun x => { x with pscore := tset x.pscore (16 * c + k) n 0 })
  | .core d c => onDie s d (fun x => { x with cscore := tset x.cscore c n 0 })
  | .poolGroup d g => onDie s d (fun x => { x with gscore := tset x.gscore g n 0 })
  | .pch h p => { s with hscore := tset s.hscore (512 * h + p) n 0 }
  | .link d h => onDie s d (fun x => { x with lscore := tset x.lscore h n 0 })
  | .fport h f => { s with fscore := tset s.fscore (4 * h + f) n 0 }
  | .bank _ _ => s
  | .hport _ => s
  | .pair _ => s

/-- The die whose ring and THRESH a unit's errors use: its own, for a hub unit die (hub number · 2) and THRESH of die0. -/
def unitDie : HwUnit → Nat
  | .plot d _ _ => d
  | .core d _ => d
  | .poolGroup d _ => d
  | .pch h _ => 2 * h
  | .link d _ => d
  | .fport h _ => 2 * h
  | .bank d _ => d
  | .hport p => 4 * p
  | .pair d => d

/-- The threshold of a unit. -/
def threshOf (s : State) : HwUnit → Nat
  | .pch _ _ => (dieOf s 0).thresh
  | .fport _ _ => (dieOf s 0).thresh
  | u => (dieOf s (unitDie u)).thresh

/-- The unit as an error record names it (R414). -/
def errUnitOf : HwUnit → ErrUnit
  | .core d c => { kind := 1, place := d, index := c, sub := 0 }
  | .plot d c k => { kind := 2, place := d, index := c, sub := k }
  | .poolGroup d g => { kind := 3, place := d, index := g, sub := 0 }
  | .pch h p => { kind := 5, place := h, index := p, sub := 0 }
  | .link d h => { kind := 6, place := d, index := h, sub := 0 }
  | .fport h f => { kind := 7, place := h, index := f, sub := 0 }
  | .bank d b => { kind := 4, place := d, index := b, sub := 0 }
  | .hport p => { kind := 8, place := 2 * p, index := 0, sub := 0 }
  | .pair d => { kind := 9, place := d, index := 0, sub := 0 }

/-- The cycles of a unit's test (R410). -/
def testLength : HwUnit → Nat
  | .plot _ _ _ => 65536
  | .core _ _ => 262144
  | .poolGroup _ _ => 1048576
  | .pch _ _ => 4194304
  | .link _ _ => 65536
  | .fport _ _ => 25000
  | .bank _ _ => 0
  | .hport _ => 0
  | .pair _ => 0

/-- The reserve slot for a unit: the highest bytes free in the fence reserve. -/
def findSlot (s : State) (bytes : Nat) : Option Nat :=
  ((dramEnd :: s.reserve.map (fun r => r.1)).filter (fun t =>
    fenceBase + bytes ≤ t && s.reserve.all (fun r => t ≤ r.1 || r.1 + r.2 + bytes ≤ t))).foldl (fun best t =>
      match best with
      | none => some (t - bytes)
      | some b => some (max b (t - bytes))) none

/-- Whether a unit is withdrawn already: waiting for its test, under it, or fenced. -/
def isWithdrawn (s : State) (u : HwUnit) : Bool := s.withdrawn.any (fun w => w.hw == u)

/-- Whether a fabric port is in service: its link is up and it is not withdrawn (R385, R410). -/
def portUp (s : State) (p : Nat) : Bool := tget s.ports p false && !isWithdrawn s (.fport (p / 4) (p % 4))

/-- Whether a host port is in service: its link is up and it has passed the self-test (R382, R428). -/
def hostPortUp (s : State) (p : Nat) : Bool := tget s.ports (16 + p) false && !isWithdrawn s (.hport p)

/-- Whether a host port can carry a stream to the cellar: in service, and opened by the handoff (R425, R427). -/
def streamPort (s : State) (p : Nat) : Bool := hostPortUp s p && s.boot.open_.contains p

/-- Whether a physical core is out of service (R404, R411). -/
def coreOut (s : State) (d c : Nat) : Bool :=
  s.withdrawn.any (fun w => match w.hw with
    | .plot d' c' _ => d' = d && c' = c
    | .core d' c' => d' = d && c' = c
    | _ => false)

/-- The physical core that serves a logical core: its own, or the lowest in service above it, wrapping. -/
def physCore (s : State) (d c : Nat) : Nat :=
  ((List.range 32).map (fun i => (c + i) % 32)).find? (fun p => !coreOut s d p) |>.getD c

/-- Whether a physical die serves no logical die: it lies outside the partition, or a link of it to a hub is withdrawn, or every core of it
(R21, R410, R411). -/
def dieOut (s : State) (p : Nat) : Bool :=
  decide (s.partition ≤ p) || (List.range 4).any (fun h => isWithdrawn s (.link p h)) || (List.range 32).all (coreOut s p)

/-- The physical die that serves a logical die: its own, or the lowest in service above it, wrapping (R411). -/
def physDie (s : State) (d : Nat) : Nat :=
  ((List.range 8).map (fun i => (d + i) % 8)).find? (fun p => !dieOut s p) |>.getD d

/-- The physical core that serves a logical core, as its die and its number there. -/
def physPlace (s : State) (d c : Nat) : Nat × Nat := let p := physDie s d; (p, physCore s p c)

/-- The physical core that a logical core's task runs on, or that would serve its next one. -/
def physOf (s : State) (d c : Nat) : Nat × Nat :=
  match (coreOf s d c).task with
  | some t => (t.phys / 32, t.phys % 32)
  | none => physPlace s d c

/-- The injection armed for a structure of the physical core that serves a logical core (R416). -/
def armedOn (s : State) (d c target : Nat) : Option Nat :=
  let p := physOf s d c
  tfind (coreOf s p.1 p.2).inject target

/-- The control pair that serves a logical die: that of the physical die that serves it; if that is fenced, that of die d XOR 1; if that is too,
the lowest in service above it, wrapping (R104, R411). -/
def pairOf (s : State) (d : Nat) : Nat :=
  let p := physDie s d
  let serves (q : Nat) : Bool := !s.fencedPairs.contains q && !dieOut s q
  if serves p then p else ((List.range 8).map (fun i => ((p ^^^ 1) + i) % 8)).find? serves |>.getD p

/-- Whether every die, core and control pair is in service. -/
def wholeDevice (s : State) : Bool := s.fencedPairs.isEmpty && s.withdrawn.isEmpty && decide (8 ≤ s.partition)

/-- Whether the control pair that serves a logical die runs it in this cycle: one that serves several runs them cycle by cycle, in ascending
number (R21, entry 141). -/
def pairTurn (s : State) (d : Nat) : Bool :=
  wholeDevice s || (let served := (List.range 8).filter (fun e => pairOf s e = pairOf s d)
    served[s.cycle % served.length]? == some d)

/-- Whether an injection makes every row compared on a plot mismatch (R403). -/
def injectedPlot (s : State) : HwUnit → Bool
  | .plot d c k =>
    let i := (dieOf s d).inj
    bit i 31 && bits i 30 29 = 1 && bits i 23 19 = c && bits i 18 15 = k
  | _ => false

/-- The tests that run on a plot whose every compared row mismatches are going to fail, whatever becomes of the injection (R403). -/
def spoilTests (s : State) : State :=
  { s with withdrawn := s.withdrawn.map (fun w => if w.state == .testing && injectedPlot s w.hw then { w with bad := true } else w) }

/-- The logical cores whose tasks run on the physical core that a unit belongs to, by their keys. -/
def tasksOn (s : State) (u : HwUnit) : List Nat :=
  let on := fun p c => (s.cores.filter (fun k => (k.2.task.map (fun t => t.phys)) == some (coreKey p c))).map (fun k => k.1)
  match u with
  | .plot d c _ => on d c
  | .core d c => on d c
  | _ => []

/-- A unit withdrawn at its threshold (R404, R410, R412). -/
def withdraw (s : State) (u : HwUnit) : State :=
  let bytes := slotBytes u
  if bytes = 0 then { s with withdrawn := s.withdrawn ++ [{ hw := u, state := .waiting, slot := none, holds := tasksOn s u, score := 0, until_ := 0, bad := false }] }
  else match findSlot s bytes with
    | some pa => { s with
      withdrawn := s.withdrawn ++ [{ hw := u, state := .waiting, slot := some pa, holds := [], score := 0, until_ := 0, bad := false }]
      reserve := s.reserve ++ [(pa, bytes)] }
    | none => logError s (unitDie u) 0x4007 0 (errUnitOf u) 0 (scoreOf s u)

/-- A score raised, saturating at 65,535; the unit is withdrawn when it reaches the threshold. -/
def addScore (s : State) (u : HwUnit) (n : Nat) : State :=
  let v := min 65535 (scoreOf s u + n)
  let s := setScore s u v
  if v ≥ threshOf s u && !isWithdrawn s u then withdraw s u else s

/-! ## Soft errors (R408, R409, R416) -/

/-- What a read of a protected word is found to be. -/
inductive ReadError where
  | clean | corrected | rebuilt | uncorrectable
  deriving DecidableEq, Repr

/-- The bytes poisoned together at an address: a 128-bit word of pool, a 64-byte burst of DRAM (R408). -/
def poisonUnit (pa : Nat) : Nat × Nat := if (poolDie pa).isSome then (pa / 16 * 16, 16) else (pa / 64 * 64, 64)

/-- Whether one of n bytes from an address is poisoned. -/
def isPoisoned (s : State) (pa n : Nat) : Bool :=
  s.poison.any (fun p => let u := poisonUnit p; p < pa + n && pa < p + u.2)

/-- The record of a corrected error of a unit, in a die's ring: one per unit in 2^20 cycles (R413). -/
def recordCorrected (s : State) (d : Nat) (u : ErrUnit) (pa score : Nat) : State :=
  if s.corrected.any (fun c => c.1 == u && c.2 = s.cycle / 1048576) then s
  else logError { s with corrected := s.corrected.filter (fun c => c.1 != u) ++ [(u, s.cycle / 1048576)] } d 0x4001 0 u (BitVec.ofNat 64 pa) score

/-- A corrected error of a unit: score and record (R408). -/
def foundCorrected (s : State) (u : HwUnit) (pa : Nat) : State :=
  let s := addScore s u 1
  recordCorrected s (unitDie u) (errUnitOf u) pa (scoreOf s u)

/-- An uncorrectable error of a unit, found: score and record (R408). -/
def foundUncorrectable (s : State) (u : HwUnit) (pa : Nat) : State :=
  let s := addScore s u 64
  logError s (unitDie u) 0x4002 0x40 (errUnitOf u) (BitVec.ofNat 64 pa) (scoreOf s u)

/-- A word poisoned (R409). -/
def poisonAt (s : State) (pa : Nat) : State :=
  let p := (poisonUnit pa).1
  if s.poison.contains p then s else { s with poison := s.poison ++ [p] }

/-- Poison cleared where a write covers a whole word (R409). -/
def clearPoison (s : State) (pa n : Nat) : State :=
  { s with poison := s.poison.filter (fun p => !(pa ≤ p && p + (poisonUnit p).2 ≤ pa + n)) }

/-- The ARM bit of a die's INJMEM cleared when its injection is used or replaced (R416). -/
def disarm (s : State) (d : Nat) : State := onDie s d (fun x => { x with injmem := x.injmem &&& ~~~(fieldAt 1 31) })

/-- Whether the rebuild of a pool word from its group's other banks fails: one of them holds a poisoned word in its row, or the parity bank an
error that cannot be corrected (R285, R408, entry 168). -/
def rebuildFails (s : State) (d pa : Nat) : Bool :=
  let o := pa - poolBase d
  s.strikes.contains (.parity d (o / 1024 * 16 + o % 256 / 16)) ||
  (List.range 4).any (fun i => i ≠ o / 256 % 4 && isPoisoned s (poolBase d + o / 1024 * 1024 + 256 * i + o % 256 / 16 * 16) 16)

/-- What an armed injection does to a read of an address that a unit serves: mode 0 corrected, 1 uncorrectable, 2 poison (R416). -/
def injected (s : State) (mode pa : Nat) (u : HwUnit) : ReadError × State :=
  match mode with
  | 0 => (.corrected, foundCorrected s u pa)
  | 1 => match u with
    | .poolGroup d _ => (if rebuildFails s d pa then .uncorrectable else .rebuilt, foundUncorrectable s u pa)
    | _ => (.uncorrectable, foundUncorrectable s u pa)
  | _ => (.uncorrectable, foundUncorrectable (poisonAt s pa) u pa)

/-- The worse of two findings. -/
def ReadError.worse : ReadError → ReadError → ReadError
  | .uncorrectable, _ => .uncorrectable
  | _, .uncorrectable => .uncorrectable
  | .rebuilt, _ => .rebuilt
  | _, .rebuilt => .rebuilt
  | .corrected, _ => .corrected
  | _, b => b

/-- The injection armed on the bank or channel that serves an address, used by a read there: one on the reserve slot's channel while the unit
is served from its slot (R410, R416). -/
def armedError (s : State) (pa : Nat) : ReadError × State :=
  let q := servedPa s pa
  match poolDie q with
  | some d =>
    let k := 64 * d + (q - poolBase d) / 256 % 64
    match tfind s.injPool k with
    | some m => injected (disarm { s with injPool := tdel s.injPool k } d) m pa (unitOfPa q)
    | none => (.clean, s)
  | none =>
    let k := q / 256 % 1152
    match tfind s.injHub k with
    | some m => injected (disarm { s with injHub := tdel s.injHub k } m.2) m.1 pa (unitOfPa q)
    | none => (.clean, s)

/-- The errors that a read of n bytes of physical memory meets: the injections armed on the banks and channels it reads, and poisoned
words. -/
def readErrors (s : State) (pa n : Nat) : ReadError × State :=
  let r := if s.injPool.isEmpty && s.injHub.isEmpty then (.clean, s)
    else (pieces256 pa n).foldl (fun (r : ReadError × State) p => let e := armedError r.2 p.1; (r.1.worse e.1, e.2)) (.clean, s)
  if isPoisoned s pa n then (.uncorrectable, r.2) else r

/-- The errors that reads of several runs meet, one after another. -/
def runsErrors : List (Nat × Nat) → State → ReadError × State
  | [], s => (.clean, s)
  | p :: rest, s =>
    let e := readErrors s p.1 p.2
    let r := runsErrors rest e.2
    (e.1.worse r.1, r.2)

/-- A soft error that has been found is in its structure no more. -/
def unstrike (s : State) (x : Strike) : State := { s with strikes := s.strikes.filter (fun y => y != x) }

/-- The die-to-hub links that a request of a die (8: of a hub) for an address crosses: to DRAM that to the channel's hub, to the pool of another die
those of both dies to the hub beside it (entry 164). -/
def linksTo (d pa : Nat) : List (Nat × Nat) :=
  match poolDie pa with
  | none => if d < 8 then [(d, pa / 256 % 1152 / 288)] else []
  | some p => if p = d then [] else (if d < 8 then [(d, p / 2)] else []) ++ [(p, p / 2)]

/-- A request over a die-to-hub link whose flits have failed their replays: it is answered UNCORRECTABLE (R408). -/
def linkError (s : State) (d pa : Nat) : Bool × State :=
  match (if s.strikes.isEmpty then none else (linksTo d pa).find? (fun l => s.strikes.contains (.link l.1 l.2))) with
  | some l => (true, foundUncorrectable (unstrike s (.link l.1 l.2)) (.link (physDie s l.1) l.2) pa)
  | none => (false, s)

/-- The injection armed for a structure of a physical core (TARGET 0 register space, 1 WB, 2 AB, 3 CB), used by a read of it:
whether the read meets an uncorrectable error. -/
def coreReadError (s : State) (d c target : Nat) : Bool × State :=
  let p := physOf s d c
  match armedOn s d c target with
  | none => (false, s)
  | some m =>
    let s := disarm (onCore s p.1 p.2 (fun x => { x with inject := tdel x.inject target })) p.1
    if m = 0 then (false, foundCorrected s (.core p.1 p.2) 0) else (true, foundUncorrectable s (.core p.1 p.2) 0)

end Sys2Proof.Machine
end

