-- ==== Sys2Proof/Machine/Paging.lean ====
section
/-! DEFINITION. Page tables, translation, vintage cells and shadows: from a virtual address to the bytes of
physical memory an access reaches (R20, R286 to R293, R300 to R304, R242, R245). -/

namespace Sys2Proof.Machine

/-! ## Latency (R20) -/

/-- The path latency from a die to the home of an address (R20): own pool 24, another pool 96, HBM 420. A pool group served
from its reserve slot has the latency of HBM (R411). -/
def pathLat (s : State) (d pa : Nat) : Nat :=
  match poolDie pa with
  | none => 420
  | some p =>
    if s.withdrawn.any (fun w => w.hw == .poolGroup p ((pa / 256) % 64 / 4) && w.slot.isSome) then 420
    else if p = d then 24 else 96

/-! ## Page-table entries (R289 to R291) -/

/-- A leaf as a walk finds it: the page's first VA and size, the entry's halves, and the entry's physical address. -/
structure Leaf where
  va    : Nat
  size  : Nat
  word  : Word
  half2 : Word
  pte   : Nat
  deriving DecidableEq, Repr

/-- HOME of a leaf: 0 device, 1 host, 2 another device. -/
def Leaf.home (l : Leaf) : Nat := bits l.word 60 59

/-- RES of a leaf. -/
def Leaf.res (l : Leaf) : Bool := bit l.word 61

/-- WR of a leaf. -/
def Leaf.wr (l : Leaf) : Bool := bit l.word 58

/-- SEAL of a leaf. -/
def Leaf.seal (l : Leaf) : Bool := bit l.word 57

/-- VINT of a leaf. -/
def Leaf.vintaged (l : Leaf) : Bool := bit l.word 56

/-- FRESH of a leaf. -/
def Leaf.fresh (l : Leaf) : Bool := bit l.word 55

/-- KIND of a leaf. -/
def Leaf.kind (l : Leaf) : PageKind := match bits l.word 54 53 with | 0 => .so | 1 => .rc | _ => .un

/-- FMT of a leaf (R81). -/
def Leaf.fmt (l : Leaf) : Nat := bits l.word 52 49

/-- GEOM of a leaf. -/
def Leaf.geom (l : Leaf) : Nat := bits l.word 48 45

/-- The frame's physical address. -/
def Leaf.frame (l : Leaf) : Nat := bits l.word 35 0 * 4096

/-- The scale page's physical address. -/
def Leaf.scale (l : Leaf) : Nat := bits l.half2 47 7 * 128

/-- The bytes of the page size SIZE. -/
def pageBytes (size : Nat) : Nat := match size with | 0 => 4096 | 1 => 65536 | _ => 2097152

/-- Why a walk gives no translation (R291): PROT, PROT with PTE_MALFORMED, or FORMAT. -/
inductive WalkFail where
  | unmapped | malformed | format
  deriving DecidableEq, Repr

/-- The checks of R291 on a leaf entry found at a level; the frame of a page homed on this device is checked whether or not the page is
resident (R286, R288). -/
def leafFail (m : Memory) (level pa : Nat) (e h2 : Word) (va : Nat) : Option WalkFail :=
  let fmt := bits e 52 49
  let geom := bits e 48 45
  let size := bits e 44 43
  let home := bits e 60 59
  let frame := bits e 35 0 * 4096
  let first := pa - 16 * (va / 4096 % 16)
  if fmt ≥ 14 || (if fmt = 10 then geom < 2 || geom > 8 else geom != 0) || (11 ≤ fmt && fmt ≤ 13 && !bit e 42) then
    some .format
  else if bits e 41 36 != 0 || bits e 54 53 = 3 || home = 3 || size = 3 || level ≥ 2 || (level = 1 && size != 2)
      || (level = 0 && size = 2) then some .malformed
  else if (!bit e 42 && h2 != 0) || bits h2 63 48 != 0 || bits h2 6 0 != 0 then some .malformed
  else if size = 1 && (List.range 16).any (fun i => wordAt m (first + 16 * i) != e || wordAt m (first + 16 * i + 8) != h2) then
    some .malformed
  else if home = 1 && (bit e 61 || bits e 35 0 != 0 || size = 0) then some .malformed
  else if home = 0 && (!isFrame frame (pageBytes size) || frame % pageBytes size != 0
      || ((poolDie frame).isSome != (size = 0))) then some .malformed
  else none

/-- The walk from a table of a level down (R289): n is the level plus one; the leaf's own checks are made where checked says so. -/
def walkFrom (checked : Bool) (m : Memory) (va : Nat) : Nat → Nat → Except WalkFail Leaf
  | 0, _ => .error .malformed
  | n + 1, t =>
    let pa := t + 16 * (va / 2 ^ (12 + 9 * n) % (if n = 4 then 256 else 512))
    let e := wordAt m pa
    let h2 := wordAt m (pa + 8)
    if !bit e 63 then .error .unmapped
    else if !bit e 62 then
      if n = 0 || bits e 61 36 != 0 || h2 != 0 then .error .malformed else walkFrom checked m va n (bits e 35 0 * 4096)
    else match if checked then leafFail m n pa e h2 va else none with
      | some f => .error f
      | none =>
        let size := pageBytes (bits e 44 43)
        .ok { va := va / size * size, size := size, word := e, half2 := h2, pte := pa - (if bits e 44 43 = 1 then 16 * (va / 4096 % 16) else 0) }

/-- The leaf of an address: the device's own mappings at the top of the space (R287), else the page tables. -/
def walkWith (checked : Bool) (s : State) (asid va : Nat) : Except WalkFail Leaf :=
  if va ≥ 0x00FF000000000000 then
    if 0x00FFF00000000000 ≤ va ∧ va < 0x00FFF00000000000 + 8 * 0x400000 then
      let d := (va - 0x00FFF00000000000) / 0x400000
      .ok { va := 0x00FFF00000000000 + d * 0x400000, size := 0x400000,
            word := fieldAt 1 63 ||| fieldAt 1 62 ||| fieldAt 1 61 ||| fieldAt 1 53 ||| fieldAt ((hotnessBase + d * 0x400000) / 4096) 0,
            half2 := 0, pte := 0 }
    else .error .unmapped
  else walkFrom checked s.mem va 5 (spaceOf s asid).root

/-- The leaf of an address, checked as an access checks it (R291). -/
def walk (s : State) (asid va : Nat) : Except WalkFail Leaf := walkWith true s asid va

/-- The leaf of a mapped address, whatever its other fields hold. -/
def mappedLeaf (s : State) (asid va : Nat) : Option Leaf := (walkWith false s asid va).toOption

/-- The trap of a failed walk (R291): its cause and error code. -/
def WalkFail.trap : WalkFail → Cause × Nat
  | .unmapped => (.prot, 0)
  | .malformed => (.prot, 0x2002)
  | .format => (.format, 0)

/-! ## Cells (R300 to R302) -/

/-- The piece of a page that a cell copies: 64 KiB of a DRAM page, the whole of a pool page. -/
def pieceOf (l : Leaf) (va : Nat) : Nat × Nat := if l.size = 4096 then (l.va, 4096) else (va / 65536 * 65536, 65536)

/-- The cell of a vintage for a piece. -/
def cellOf (s : State) (asid vint va : Nat) : Option Cell :=
  s.cells.find? (fun c => c.asid == asid && c.vint == vint && c.va == va)

/-! ## TLBs (R292, R293) -/

/-- Whether a translation held serves an access. -/
def TlbEntry.serves (e : TlbEntry) (asid vint va : Nat) : Bool :=
  e.asid == asid && e.va ≤ va && va < e.va + e.size && (if bit e.leaf 56 then e.vint == vint else true)

/-- The materialisation of a piece's cell that runs. -/
def makingOf (s : State) (asid vint va : Nat) : Option Materialise :=
  s.making.find? (fun m => m.asid == asid && m.vint == vint && m.va == va)

/-- The slots of the cell directory's table of an address space's launch (R301). -/
def slotCount (s : State) (asid : Nat) : Nat :=
  match s.launches.find? (fun l => l.asid == asid && !l.done) with
  | some l => max 1 l.slots
  | none => 1

/-- The slot at which a piece's cell of a vintage is looked for first (R301). -/
def firstSlot (n vint va : Nat) : Nat := (vint * 0x9E37 ^^^ va / 4096) % n

/-- The first free slot upward from one, wrapping, and how many taken slots come before it; fuel bounds the probes. -/
def freeSlotFrom (taken : Nat → Bool) (n : Nat) : Nat → Nat → Nat → Nat × Nat
  | 0, slot, hops => (slot % n, hops)
  | fuel + 1, slot, hops => if taken (slot % n) then freeSlotFrom taken n fuel (slot + 1) (hops + 1) else (slot % n, hops)

/-- The slot that a new cell of a piece takes, and the collisions of a probe that finds none (R301). -/
def newSlot (s : State) (asid vint va : Nat) : Nat × Nat :=
  let mine := s.cells.filter (fun c => c.asid == asid)
  freeSlotFrom (fun k => mine.any (fun c => c.slot == k)) (slotCount s asid) mine.length (firstSlot (slotCount s asid) vint va) 0

/-- The collisions that a probe of the cell directory meets (R293): the taken slots before the cell's own, or before the first free one. -/
def collisions (s : State) (asid vint va : Nat) : Nat :=
  let n := slotCount s asid
  let h := firstSlot n vint va
  match cellOf s asid vint va with
  | some c => (s.cells.filter (fun k => k.asid == asid && (k.slot + n - h) % n < (c.slot + n - h) % n)).length
  | none => (newSlot s asid vint va).2

/-- A translation as a TLB holds it: the piece's frame, in the vintage where one has a cell. -/
def tlbEntryOf (s : State) (asid vint va : Nat) (l : Leaf) : TlbEntry :=
  if l.vintaged && vint != 0 then
    let p := pieceOf l va
    match cellOf s asid vint p.1 with
    | some c => { asid := asid, vint := vint, va := p.1, size := p.2, leaf := l.word, half2 := l.half2, frame := c.frame,
                  noCell := false }
    | none => { asid := asid, vint := vint, va := p.1, size := p.2, leaf := l.word, half2 := l.half2,
                frame := l.frame + (p.1 - l.va), noCell := true }
  else { asid := asid, vint := 0, va := l.va, size := l.size, leaf := l.word, half2 := l.half2, frame := l.frame,
         noCell := false }

/-- A TLB, its most recently used entry first, with an entry added or used again. -/
def tlbUse (t : List TlbEntry) (e : TlbEntry) : List TlbEntry :=
  e :: t.filter (fun x => !(x.asid == e.asid && x.vint == e.vint && x.va == e.va && x.size == e.size))

/-- The set of a die's TLB that an entry belongs to (R292; the index is entry 13). -/
def TlbEntry.set (e : TlbEntry) : Nat := e.va / e.size % 512

/-- A core's TLB after an entry's use: 64 entries, the least recently used dropped (R292). -/
def tlbCore (t : List TlbEntry) (e : TlbEntry) : List TlbEntry := (tlbUse t e).take 64

/-- The entries of a list, at most n of a set. -/
def keepWays (set : Nat) : Nat → List TlbEntry → List TlbEntry
  | _, [] => []
  | n, e :: r => if e.set ≠ set then e :: keepWays set n r else match n with | 0 => keepWays set 0 r | k + 1 => e :: keepWays set k r

/-- A die's TLB after an entry's use: 8 ways, the least recently used of the set dropped (R292). -/
def tlbDie (t : List TlbEntry) (e : TlbEntry) : List TlbEntry := keepWays e.set 8 (tlbUse t e)

/-- The TLBs with a translation installed: the core's, when a core asked, and the die's. -/
def tlbInstall (s : State) (d : Nat) (core : Option Nat) (e : TlbEntry) : State :=
  let s := onDie s d (fun x => { x with tlb := tlbDie x.tlb e })
  match core with
  | some c => onCore s d c (fun x => { x with tlb := tlbCore x.tlb e })
  | none => s

/-- What an agent finds for an address: the page with the frame it is served from and the cycles that the translation adds,
a trap, or a page that is not resident, which no TLB holds. -/
inductive Found where
  | page (l : Leaf) (frame va : Nat) (noCell : Bool) (added : Nat)
  | absent (l : Leaf) (added : Nat)
  | trap (c : Cause) (err : Nat)
  deriving DecidableEq, Repr

/-- A held translation as what an agent finds. -/
def TlbEntry.found (e : TlbEntry) (added : Nat) : Found :=
  let size := pageBytes (bits e.leaf 44 43)
  let size := if e.va ≥ 0x00FF000000000000 then 0x400000 else size
  .page { va := e.va / size * size, size := size, word := e.leaf, half2 := e.half2, pte := 0 } e.frame e.va e.noCell added

/-- The home hub of a page: VA[22:21] (R292). -/
def hubOf (va : Nat) : Nat := va / 2 ^ 21 % 4

/-- The directory entries that a walk of a level down reads (R289). -/
def dirsFrom (m : Memory) (va : Nat) : Nat → Nat → List Nat
  | 0, _ => []
  | n + 1, t =>
    let pa := t + 16 * (va / 2 ^ (12 + 9 * n) % (if n = 4 then 256 else 512))
    let e := wordAt m pa
    if bit e 63 && !bit e 62 then pa :: dirsFrom m va n (bits e 35 0 * 4096) else []

/-- The directory entries that a walk for an address reads; none for the device's own mappings. -/
def dirsOf (s : State) (asid va : Nat) : List Nat :=
  if va ≥ 0x00FF000000000000 then [] else dirsFrom s.mem va 5 (spaceOf s asid).root

/-- The cycles that a walk adds for an access that has missed in the TLBs, and the walker with the directory entries it has read: 1,024 of
them stay in its cache, the most recently read (R293). A page that is not resident has no frame of a cell to be looked for. -/
def walkCost (s : State) (asid vint va : Nat) (l : Leaf) : Nat × State :=
  let dirs := dirsOf s asid va
  let held := tget s.walkers (hubOf va) []
  let misses := (dirs.filter (fun p => !held.contains p)).length
  let probes := if l.vintaged && vint != 0 then 1 + collisions s asid vint (pieceOf l va).1 else 0
  (16 + 40 + 420 + 420 * misses + 420 * probes,
    { s with walkers := tput s.walkers (hubOf va) ((dirs ++ held.filter (fun p => !dirs.contains p)).take 1024) })

/-- The entries of the tables that a walk reads in memory: the directory entries that the walker does not hold, and the leaf's. -/
def walkRuns (s : State) (asid va : Nat) (l : Leaf) : List (Nat × Nat) :=
  ((dirsOf s asid va).filter (fun p => !(tget s.walkers (hubOf va) []).contains p) ++ (if l.pte = 0 then [] else [l.pte])).map (fun p => (p, 16))

/-- Whether a walk for an address would read a poisoned entry. -/
def walkPoisoned (s : State) (asid va : Nat) : Bool :=
  !s.poison.isEmpty && (dirsOf s asid va ++ (match mappedLeaf s asid va with | some l => [l.pte] | none => [])).any (fun p => isPoisoned s p 16)

/-- Whether a page is in flight to the host (R299). -/
def leaving (s : State) (asid : Nat) (l : Leaf) : Bool := s.faults.any (fun f => f.asid == asid && f.va == l.va && f.toHost)

/-- A walk of the tables for an agent whose TLBs miss: its result enters the TLBs when it completes; who is a task core's number, 32 for
the scheduler, none for an agent that waits for no walk and holds no translation (entry 115). -/
def walkFor (s : State) (d : Nat) (who : Option Nat) (asid vint va : Nat) : Found × State :=
  if walkPoisoned s asid va then (.trap .uncorrectable 0, s)
  else match walk s asid va with
  | .error f => (.trap f.trap.1 f.trap.2, s)
  | .ok l =>
    let e := runsErrors (walkRuns s asid va l) s
    let s := e.2
    if e.1 == .uncorrectable then (.trap .uncorrectable 0, s)
    else if l.home = 2 then (.trap .prot 0, s)
    else
      let w : Nat × State := match who with
        | none => (0, s)
        | some _ => walkCost s asid vint va l
      if !l.res || l.home = 1 || leaving s asid l then (.absent l w.1, w.2)
      else
        let e := tlbEntryOf s asid vint va l
        (.page l e.frame e.va e.noCell w.1, match who with
          | none => w.2
          | some c => at' w.2 (s.cycle + w.1) (.tlbWalkComplete d c asid vint va))

/-- The translation of a die's TLB. -/
def dieHeld (s : State) (d asid vint va : Nat) : Option TlbEntry :=
  (dieOf s d).tlb.find? (fun (e : TlbEntry) => e.serves asid vint va)

/-- Translation of an address for an agent of a die, through its core's TLB when it is a task core's (R292, R293). The latencies of an
agent that is no task core count no translation (entry 115). -/
def translate (s : State) (d : Nat) (core : Option Nat) (asid vint va : Nat) : Found × State :=
  let held := match core with
    | some c => (coreOf s d c).tlb.find? (fun (e : TlbEntry) => e.serves asid vint va)
    | none => none
  match held, core with
  | some e, some c => (e.found 0, onCore s d c (fun x => { x with tlb := tlbUse x.tlb e }))
  | some e, none => (e.found 0, s)
  | none, _ => match dieHeld s d asid vint va with
    | some e => (e.found (if core.isSome then 16 else 0), match core with
      | some c => tlbInstall s d (some c) e
      | none => s)
    | none => walkFor s d core asid vint va

/-- Translation of an address for a die's scheduler, which shares the die's TLB (R292). -/
def dieTranslate (s : State) (d asid vint va : Nat) : Found × State :=
  match dieHeld s d asid vint va with
  | some e => (e.found 0, tlbInstall s d none e)
  | none => walkFor s d (some 32) asid vint va

/-- Whether two runs of bytes overlap. -/
def overlaps (a n b m : Nat) : Bool := a < b + m && b < a + n

/-! ## Shadows (R242, R245) -/

/-- The words of region i of a record (R234). -/
def regionWords (recd : List Word) (i : Nat) : List Word := (List.range 4).map (fun k => wordOf recd (8 + 4 * i + k))

/-- A region as its descriptor gives it: kind, element size, address, and count and stride of each dimension, the outermost first. -/
structure Box where
  kind : Nat
  elem : Nat
  va   : Nat
  dims : List (Nat × Nat)
  deriving DecidableEq, Repr

/-- Count d of a descriptor. -/
def countOf (w : List Word) (d : Nat) : Nat := bits (wordOf w 1) (16 * d + 15) (16 * d)

/-- Stride d of a descriptor. -/
def strideOf (w : List Word) (d : Nat) : Nat := bits (wordOf w (2 + d / 2)) (32 * (d % 2) + 31) (32 * (d % 2))

/-- The box of a descriptor. -/
def boxOf (w : List Word) : Box :=
  { kind := bits (wordOf w 0) 57 56, elem := 2 ^ bits (wordOf w 0) 61 58, va := bits (wordOf w 0) 55 0,
    dims := (List.range (bits (wordOf w 0) 63 62 + 1)).map (fun d => (countOf w d, strideOf w d)) }

/-- The bytes from the first to past the last of elements of e bytes. -/
def extent (e : Nat) (dims : List (Nat × Nat)) : Nat := dims.foldl (fun acc d => acc + (d.1 - 1) * d.2) e

/-- The bytes from the first to past the last of a box. -/
def Box.len (b : Box) : Nat := extent b.elem b.dims

/-- Whether a box of elements of e bytes has no gaps (R245). -/
def dense (e : Nat) : List (Nat × Nat) → Bool
  | [] => true
  | [d] => d.2 = e
  | d :: d' :: r => d.2 = d'.1 * d'.2 && dense e (d' :: r)

/-- Region i of a record. -/
def recBox (r : List Word) (i : Nat) : Box := boxOf (regionWords r i)

/-- Whether an offset from element 0 lies in an element of e bytes: the outermost digit is one that the inner dimensions can make good. -/
def inElement (e : Nat) : List (Nat × Nat) → Nat → Bool
  | [], x => x < e
  | d :: ds, x =>
    let lo := (x + d.2 - extent e ds) / d.2
    (List.range (min d.1 (x / d.2 + 1) - lo)).any (fun k => inElement e ds (x - (lo + k) * d.2))

/-- Whether an address lies in an element of a box. -/
def Box.has (b : Box) (va : Nat) : Bool := b.va ≤ va && inElement b.elem b.dims (va - b.va)

/-- The entry of a live record. -/
def entryOf (s : State) (d serial : Nat) : Option Entry := (dieOf s d).entries.find? (fun e => e.serial == serial)

/-- The shadow's physical address for an address, when a shadow of the record holds its block. -/
def shadowPa (d : Nat) (sh : TaskShadow) (va : Nat) : Option Nat :=
  match sh.blocks.find? (fun b => b.1 == va / 4096 * 4096) with
  | some b => some (poolBase d + b.2 + va % 4096)
  | none => none

/-- The record of a serial, in its window or kept after it has left. -/
def recordOf (s : State) (d serial : Nat) : Option Entry :=
  (entryOf s d serial).orElse (fun _ => (dieOf s d).departed.find? (fun w => w.serial == serial))

/-- Where a record's own access is served from, if it is from a shadow: the shadow of the writer that a region which holds the byte is
redirected to (R245); else the record's own shadow of a region which holds it; else, of a byte of no such region, the first of its own
that holds the byte's block (R242). -/
def recordShadow (s : State) (d : Nat) (e : Entry) (va : Nat) : Option Nat :=
  let here := e.shadows.filter (fun sh => sh.filled)
  match e.redirects.find? (fun r => (recBox e.recd r.1).has va) with
  | some r => (recordOf s d (r.2 / 8)).bind (fun w => (w.shadows.filter (fun sh => sh.region = r.2 % 8)).findSome? (fun sh => shadowPa d sh va))
  | none => ((here.filter (fun sh => (recBox e.recd sh.region).has va)).findSome? (fun sh => shadowPa d sh va)).or
      (here.findSome? (fun sh => shadowPa d sh va))

/-- The entry of a task whose accesses in a vintage shadows may serve. -/
def shadowedEntry (s : State) (t : Running) (vint : Nat) : Option Entry :=
  if vint != t.vt.toNat then none
  else (entryOf s t.wdie t.serial).filter (fun e => !e.shadows.isEmpty || !e.redirects.isEmpty)

/-- Where an access of a task is served from a shadow, and how many of n bytes are served alike: by one run of a shadow, or by the page. -/
def taskShadow (s : State) (t : Running) (vint va n : Nat) : Option Nat × Nat :=
  match shadowedEntry s t vint with
  | none => (none, n)
  | some e =>
    let first := recordShadow s t.wdie e va
    let n := min n (4096 - va % 4096)
    (first, 1 + ((List.range (n - 1)).takeWhile (fun i => recordShadow s t.wdie e (va + 1 + i) = first.map (fun pa => pa + 1 + i))).length)

/-- The task a core runs. -/
def runningOf (s : State) (d : Nat) (core : Option Nat) : Option Running :=
  match core with
  | some c => (coreOf s d c).task
  | none => none

/-! ## Splitting an access at its pages (R130, R317) -/

/-- A part of an access on one page: physical address, length, the page, and the added cycles of its translation. For a write
to a piece whose cell is still to be made, need names the piece. -/
structure Part where
  va    : Nat
  pa    : Nat
  len   : Nat
  leaf  : Leaf
  added : Nat
  need  : Bool
  deriving DecidableEq, Repr

/-- Why an access stops at a part: a trap, or a page that is not resident. -/
inductive Stop where
  | trap (c : Cause) (err va : Nat)
  | absent (va : Nat) (l : Leaf) (added : Nat)
  deriving DecidableEq, Repr

/-- What an access must satisfy on each page, in the order of R111 and R130: write permission, a page of codes 0 to 9 only,
a page that is not UN, for a read that names a FREE vintage a page that is not vintaged; and whether a page homed on the host traps. -/
structure Need where
  write    : Bool
  raw      : Bool
  ordered  : Bool
  hostTrap : Bool
  stale    : Bool := false
  deriving DecidableEq, Repr

/-- The first check that a page fails. -/
def Need.fails (n : Need) (l : Leaf) : Option Cause :=
  if n.write && !l.wr then some .prot
  else if n.raw && l.fmt ≥ 10 then some .format
  else if n.write && l.seal then some .sealed
  else if n.ordered && l.kind == .un then some .orderKind
  else if n.stale && l.vintaged then some .vintageState
  else none

/-- What EINFO names for a check that a page fails: the vintage that is FREE, else the address (R101, R130). -/
def Need.names (c : Cause) (vint va : Nat) : Nat := if c == .vintageState then vint else va

/-- The runs of physical bytes that a write writes at its home. -/
def WriteAct.runs : WriteAct → List (Nat × Nat)
  | .bytes ps => ps.map (fun p => (p.1, p.2.length))
  | .amo _ pa size _ _ _ _ _ => [(pa, size)]
  | .barrier _ pa _ _ => [(pa, 32)]
  | .blocks _ bs => bs.flatMap (fun b => [(b.pa, 32), (b.scale, 1)])
  | .planes _ rs _ _ => rs

/-- The address in a cell still being made that a read is served from: that of a piece which a write of the reader's core, or one that has
entered its die's memory interface, waits to change (R302, R304, R329; entry 125). Another reader finds no cell and reads the base. -/
def makingPa (s : State) (d core asid vint : Nat) (l : Leaf) (va : Nat) : Option Nat :=
  (makingOf s asid vint (pieceOf l va).1).bind (fun m =>
    if s.writes.any (fun w => decide (w.die = d) && (decide (w.core = core) || decide (w.dieAt ≤ s.cycle))
        && w.act.runs.any (fun r => overlaps r.1 r.2 m.frame m.size)) then some (m.frame + (va - m.va)) else none)

/-- The page that an access of a task to a block of its shadow is made under: its home where it is mapped; a block of the hull that no page
maps is one of raw bytes of kind SO (R242). -/
def shadowLeaf (s : State) (asid va : Nat) : Leaf :=
  (mappedLeaf s asid va).getD { va := va / 4096 * 4096, size := 4096, word := fieldAt 1 63 ||| fieldAt 1 62 ||| fieldAt 1 61 ||| fieldAt 1 58,
                                half2 := 0, pte := 0 }

/-- What an access finds whose byte a shadow serves: the page, though its home is absent or not mapped. -/
def homeOrShadow (r : Found × State) (served : Option Leaf) : Found × State :=
  match r.1, served with
  | .page l f va nc added, _ => (.page l f va nc added, r.2)
  | .absent _ added, some k => (.page k k.frame k.va false added, r.2)
  | .trap _ _, some k => (.page k k.frame k.va false 0, r.2)
  | x, none => (x, r.2)

/-- The parts of an access in ascending address order, up to the first that stops it; each takes at least a byte, which fuel counts. A byte
that a shadow serves needs no home (R242). -/
def splitFrom (d : Nat) (core : Option Nat) (asid vint : Nat) (n : Need) : Nat → Nat → Nat → State → List Part × Option Stop × State
  | 0, _, _, s => ([], none, s)
  | fuel + 1, va, len, s =>
    if len = 0 then ([], none, s)
    else if va ≥ 2 ^ 56 then ([], some (.trap .prot 0 va), s)
    else
      let r := homeOrShadow (translate s d core asid vint va) (match runningOf s d core with
        | some t => (taskShadow s t vint va 1).1.map (fun _ => shadowLeaf s asid va)
        | none => none)
      match r.1 with
      | .trap c e => ([], some (.trap c e va), r.2)
      | .absent l added =>
        if n.hostTrap && l.home = 1 then ([], some (.trap .prot 0 va), r.2)
        else match n.fails l with
          | some c => ([], some (.trap c 0 (Need.names c vint va)), r.2)
          | none => ([], some (.absent va l added), r.2)
      | .page l frame fva noCell added =>
        match n.fails l with
        | some c => ([], some (.trap c 0 (Need.names c vint va)), r.2)
        | none =>
          let size := if l.vintaged && vint != 0 then (pieceOf l va).2 else l.size
          let room := min len ((va / size + 1) * size - va)
          let sh := match runningOf s d core with
            | some t => taskShadow s t vint va room
            | none => (none, room)
          let here := min room (max 1 sh.2)
          let p : Part := match sh.1 with
            | some pa => { va := va, pa := pa, len := here, leaf := l, added := added, need := false }
            | none =>
              let bare := noCell && l.vintaged && vint != 0
              let made := if bare && !n.write then makingPa s d (core.getD 32) asid vint l va else none
              { va := va, pa := made.getD (frame + (va - fva)), len := here, leaf := l, added := added, need := n.write && bare }
          let rest := splitFrom d core asid vint n fuel (va + here) (len - here) r.2
          (p :: rest.1, rest.2.1, rest.2.2)

/-- The parts of an access in ascending address order, up to the first that stops it. -/
def splitAccess (d : Nat) (core : Option Nat) (asid vint : Nat) (n : Need) (va len : Nat) (s : State) : List Part × Option Stop × State :=
  splitFrom d core asid vint n (len + 1) va len s

end Sys2Proof.Machine
end

