-- ==== Sys2Proof/Machine/Access.lean ====
section
/-! DEFINITION. Accesses to memory: what a read returns, the order of an agent's accesses, writes on their way to their home and
their performance there, atomic operations and barrier updates, vintage cells (R142, R145, R302 to R305, R312 to R330). -/

namespace Sys2Proof.Machine

/-! ## Order (R315) -/

/-- Nothing has been reached. -/
def Reach.zero : Reach := ⟨0, 0, 0, 0⟩

/-- The later of two reaches. -/
def Reach.join (a b : Reach) : Reach := ⟨max a.rd b.rd, max a.wr b.wr, max a.die b.die, max a.core b.core⟩

/-- What follows a read performed in a cycle: a later read not before it, a later write after it at every scope. -/
def readReach (due : Nat) : Reach := ⟨due, due + 1, due + 1, due + 1⟩

/-- Whether others see a write only once it is performed: a release (R313), and one whose bytes are made at its home. -/
def Pending.late (w : Pending) : Bool := w.release || match w.act with | .bytes _ => false | _ => true

/-- Whether a core of a die is shown a write of another agent that is not yet performed: a plain write of its own core that has entered its
memory port, and one of its die that has entered the die's memory interface (R312, R313). -/
def Pending.shown (w : Pending) (now d core : Nat) : Bool :=
  !w.late && w.die = d && d < 8 && ((w.core = core && core < 32 && w.coreAt ≤ now) || w.dieAt ≤ now)

/-- What follows a write. -/
def Pending.reach (w : Pending) : Reach := if w.late then ⟨w.due, w.due, w.due, w.due⟩ else ⟨w.due, w.due, w.dieAt, w.coreAt⟩

/-- How far an agent's accesses have come. -/
def markOf (s : State) (a : AgentId) : OrderMark :=
  (s.order.find? (fun m => m.agent == a)).getD
    { agent := a, so := .zero, mem := .zero, all := .zero, rel := 0, acq := .zero, floor := .zero }

/-- Whether one of some runs of bytes overlaps one of others. -/
def runsMeet (xs ys : List (Nat × Nat)) : Bool := xs.any (fun x => ys.any (fun y => overlaps x.1 x.2 y.1 y.2))

/-- The loads of a core in flight: when each is performed, and the runs of bytes that it reads. -/
def loadsOf (x : Core) : List (Nat × List (Nat × Nat)) :=
  x.landings.flatMap (fun l => l.writes.filterMap (fun w => match w with
    | .load _ _ ps _ _ _ => some (l.due, ps)
    | .cond _ _ _ ps _ _ _ => some (l.due, ps)
    | _ => none)) ++
  x.aq.flatMap (fun q => (q.2.filter (fun e => !e.landed)).map (fun e =>
    (e.due, e.pieces.filterMap (fun p => match p with | .mem pa n => some (pa, n) | .bytes _ => none))))

/-- What a control core's set must follow of its own stores that overlap, while the checker has still to match them (R103, R315). -/
def outwardReach (s : State) (a : AgentId) (runs : List (Nat × Nat)) : Reach :=
  match a with
  | .ctx d set => (ctlOf s d).outward.foldl (fun acc o => match o.act with
    | .store _ _ ps _ _ plan => if o.set = set && runsMeet (ps.map (fun p => (p.1, p.2.length))) runs then acc.join plan else acc
    | _ => acc) .zero
  | _ => .zero

/-- What an access must follow because it overlaps earlier ones (R315, R329): a read, the writes of its agent whose bytes are made at their
home; a write, every write of its agent, and every write that its die shows already, whose value its agent may have read; both, the loads of
their AP and the stores of their control core's set that have still to match. -/
def overlapReach (s : State) (a : AgentId) (d core : Nat) (isRead : Bool) (runs : List (Nat × Nat)) : Reach :=
  let ws := s.writes.foldl (fun (acc : Reach) w =>
    let mine := w.agent == a
    if (if isRead then mine && (match w.act with | .bytes _ => false | _ => true) else mine || w.shown s.cycle d core) && runsMeet w.act.runs runs then
      acc.join (if mine then w.reach else { w.reach with rd := 0, core := 0 })
    else acc) (outwardReach s a runs)
  match a with
  | .ap _ _ _ => (loadsOf (coreOf s d core)).foldl (fun acc l => if runsMeet l.2 runs then acc.join (readReach l.1) else acc) ws
  | _ => ws

/-- What an access must follow: the accesses of its agent that are ordered before it (R315, R322). -/
def boundsOf (s : State) (a : AgentId) (d core : Nat) (kind : PageKind) (release isRead : Bool) (runs : List (Nat × Nat)) : Reach :=
  let m := markOf s a
  let r := m.floor.join (overlapReach s a d core isRead runs)
  let r := if kind == .so then r.join m.so else r
  let r := if kind == .un then r else r.join m.acq
  if release then r.join m.mem else r

/-- The cycle in which an access is performed: not before what it must follow. -/
def accessDue (s : State) (a : AgentId) (d core : Nat) (kind : PageKind) (release : Bool) (base : Nat) (runs : List (Nat × Nat))
    (isRead : Bool) : Nat :=
  let r := boundsOf s a d core kind release isRead runs
  max base (if isRead then r.rd else r.wr)

/-- The marks after an access of an agent. -/
def noteAccess (s : State) (a : AgentId) (kind : PageKind) (release : Bool) (r : Reach) : State :=
  let m := markOf s a
  let m' : OrderMark :=
    { m with so := if kind == .so then m.so.join r else m.so, mem := if kind == .un then m.mem else m.mem.join r, all := m.all.join r,
             rel := if release then max m.rel r.rd else m.rel }
  { s with order := s.order.filter (fun x => x.agent != a) ++ [m'] }

/-- The marks after an acquire of an agent that reads in a cycle (R315). -/
def noteAcquire (s : State) (a : AgentId) (due : Nat) : State :=
  let m := markOf s a
  { s with order := s.order.filter (fun x => x.agent != a) ++ [{ m with acq := m.acq.join (readReach due) }] }

/-- A fence of an agent: its earlier SO and RC accesses are ordered before every later one, and for the domain those to UN pages too
(R322). -/
def fenceMark (s : State) (a : AgentId) (domain : Bool) : State :=
  let m := markOf s a
  { s with order := s.order.filter (fun x => x.agent != a) ++ [{ m with floor := m.floor.join (if domain then m.all else m.mem) }] }

/-- The cycle in which an acquire lands: after the releases of its agent that come before it (R315). -/
def acquireDue (s : State) (a : AgentId) (due : Nat) : Nat := max due (markOf s a).rel

/-! ## Reads (R312, R313, R329) -/

/-- Bytes with a run of others laid over them: the bytes start at pa, the others at b. -/
def overlay (bs : List Byte) (pa : Nat) (b : Nat) (xs : List Byte) : List Byte :=
  (List.range bs.length).map (fun i =>
    if b ≤ pa + i ∧ pa + i < b + xs.length then xs.getD (pa + i - b) 0 else bs.getD i 0)

/-- Whether a read sees a write that is not yet performed: the agent's own earlier writes; a plain write of its own core, and
one of its own die that has entered the die's memory interface (R312, R313). -/
def Pending.visible (w : Pending) (now : Nat) (who : AgentId) (d core seq : Nat) : Bool :=
  if w.agent == who then w.seq < seq else w.shown now d core

/-- A write put among others, before the first that is performed no earlier. -/
def putByDue (w : Pending) : List Pending → List Pending
  | [] => [w]
  | x :: r => if x.due < w.due then x :: putByDue w r else w :: x :: r

/-- Writes in the order in which they are performed, those of one cycle as they were issued. -/
def byDue : List Pending → List Pending
  | [] => []
  | w :: r => putByDue w (byDue r)

/-- The bytes that an agent of a die and core (8 for no die, 32 for no core) reads now: of the writes it sees, the one performed last
prevails, as it will at the home (R329). -/
def readNow (s : State) (who : AgentId) (d core seq pa n : Nat) : List Byte :=
  (byDue (s.writes.filter (fun w => w.visible s.cycle who d core seq))).foldl (fun bs w => match w.act with
    | .bytes ps => ps.foldl (fun bs p => overlay bs pa p.1 p.2) bs
    | _ => bs) (bytesAt s.mem pa n)

/-- The bytes of several runs read now, one after another, and whether one of them is uncorrectable. -/
def readRuns (s : State) (who : AgentId) (d core seq : Nat) : List (Nat × Nat) → List Byte × Bool × State
  | [] => ([], false, s)
  | p :: rest =>
    let e := readErrors s p.1 p.2
    let l := linkError e.2 d p.1
    let r := readRuns l.2 who d core seq rest
    (readNow s who d core seq p.1 p.2 ++ r.1, e.1 == .uncorrectable || l.1 || r.2.1, r.2.2)

/-- Whether a read meets an error that its bank's parity rebuilds: it is tried again in the next cycle as a rebuilt read, which takes 26
cycles where a direct one takes 24 (R285). -/
def rebuilds (s : State) (runs : List (Nat × Nat)) : Bool := runs.any (fun p => (readErrors s p.1 p.2).1 == .rebuilt)

/-- How much later than a direct read a rebuilt one lands. -/
def rebuildDelay : Nat := 3

/-- The runs of physical bytes of an access's parts. -/
def runsOf (ps : List Part) : List (Nat × Nat) := ps.map (fun p => (p.pa, p.len))

/-- The latency to the home of an address: of a cell not yet taken, to its base's. -/
def latTo (s : State) (d pa : Nat) : Nat :=
  pathLat s d (match s.making.find? (fun m => decide (m.frame ≤ pa) && decide (pa < m.frame + m.size)) with | some m => m.base | none => pa)

/-- The cycles from issue until every part of an access has come back or gone out: path latency and translation of each. -/
def partsLat (s : State) (d : Nat) (ps : List Part) : Nat := ps.foldl (fun m p => max m (latTo s d p.pa + p.added)) 0

/-- The cycle in which a cell that holds an address is ready, for a cell still being made. -/
def cellReadyAt (s : State) (pa : Nat) : Nat :=
  s.making.foldl (fun acc m => if m.frame ≤ pa ∧ pa < m.frame + m.size then max acc m.readyAt else acc) 0

/-- The cycle before which a read finds no bytes in a cell still being made: the next one while it is not taken. -/
def cellHold (s : State) (runs : List (Nat × Nat)) : Nat :=
  s.making.foldl (fun acc m => if runsMeet runs [(m.frame, m.size)] then max acc (if m.taken then m.readyAt else s.cycle + 1) else acc) 0

/-- The least order an access of several pages must keep: SO if one page is, else RC if one is. -/
def kindOf (ps : List Part) : PageKind :=
  if ps.any (fun p => p.leaf.kind == .so) then .so else if ps.any (fun p => p.leaf.kind == .rc) then .rc else .un

/-- The parts of an access in groups of one kind, in their order: each is ordered by its own page's kind (R317). -/
def kindRuns : List Part → List (List Part)
  | [] => []
  | p :: rest => match kindRuns rest with
    | [] => [[p]]
    | g :: gs => if g.all (fun q => q.leaf.kind == p.leaf.kind) then (p :: g) :: gs else [p] :: g :: gs

/-- The marks after an access, each part by its own page's kind (R317). -/
def noteParts (s : State) (a : AgentId) (release : Bool) (r : Reach) (ps : List Part) : State :=
  (kindRuns ps).foldl (fun s g => noteAccess s a (kindOf g) release r) s

/-- The cycle in which the data of a read lands, for a read issued now: no part of it before what that part must follow. -/
def readDue (s : State) (who : AgentId) (d core : Nat) (ps : List Part) : Nat :=
  let base := s.cycle + partsLat s d ps
  let base := ps.foldl (fun acc p => let r := cellReadyAt s p.pa; if r = 0 then acc else max acc (r + latTo s d p.pa)) base
  (kindRuns ps).foldl (fun acc g => accessDue s who d core (kindOf g) false acc (runsOf g) true) base

/-- The cycle before which a read of a barrier object that arrives now from outside the die whose pool holds it is not answered: every write
that has entered that die's memory interface is performed at its home by then (R321). -/
def barrierHold (s : State) (d : Nat) (runs : List (Nat × Nat)) : Nat :=
  runs.foldl (fun acc r => match poolDie r.1 with
    | none => acc
    | some p =>
      if p = d || !s.barriers.any (fun b => overlaps b 32 r.1 r.2) then acc
      else s.writes.foldl (fun acc w => if w.die = p && w.dieAt ≤ s.cycle then max acc w.due else acc) acc) 0

/-- The cycle before which a read of an agent's request is not answered, set once, when it arrives (R321, R331), and the state that remembers it;
zero when nothing holds it. -/
def readHold (s : State) (a : AgentId) (num d : Nat) (runs : List (Nat × Nat)) : Nat × State :=
  let mine (h : HeldRead) : Bool := h.agent == a && h.num = num && h.runs == runs
  match s.heldReads.find? mine with
  | some h => if s.cycle < h.until_ then (h.until_, s) else (0, { s with heldReads := s.heldReads.filter (fun h => !mine h) })
  | none =>
    let t := barrierHold s d runs
    if s.cycle < t then
      (t, { s with heldReads := s.heldReads.filter (fun h => s.cycle ≤ h.until_) ++ [{ agent := a, num := num, runs := runs, until_ := t }] })
    else (0, s)

/-! ## Rename area and cells (R242, R300 to R305) -/

/-- The offset in the pool at which a die's rename area begins (entry 14). -/
def renameBase (x : Die) : Nat := poolSize - x.renameMib * 1048576

/-- Whether n 4 KiB units from an offset of the rename area are free. -/
def unitsFree (x : Die) (off n : Nat) : Bool := !x.renameUsed.any (fun u => overlaps u.1 (4096 * u.2) off (4096 * n))

/-- The lowest free run of n units of a die's rename area. -/
def findUnits (x : Die) (n : Nat) : Option Nat :=
  let starts := renameBase x :: x.renameUsed.map (fun u => u.1 + 4096 * u.2)
  let fits := starts.filter (fun o => o + 4096 * n ≤ poolSize && unitsFree x o n)
  match fits with
  | [] => none
  | o :: r => some (r.foldl min o)

/-- The free 4 KiB units of a die's rename area. -/
def freeUnits (x : Die) : Nat := x.renameMib * 256 - x.renameUsed.foldl (fun a u => a + u.2) 0

/-- The running launch of an address space. -/
def launchOfAsid (s : State) (asid : Nat) : Option Launch := s.launches.find? (fun l => l.asid == asid && !l.done)

/-- The physical address of piece i of a launch's cell store. -/
def storePiece (s : State) (l : Launch) (i : Nat) : Option Nat :=
  match walk s l.asid (l.cellVa + 65536 * i) with
  | .ok f => some (f.frame + (l.cellVa + 65536 * i - f.va))
  | .error _ => none

/-- Where the cell of a piece comes from: the rename area of its page's die, or the cell store of its address space's launch (R300). -/
def cellSource (asid : Nat) (l : Leaf) : Nat := if l.size = 4096 then (poolDie l.frame).getD 0 else 8 + asid

/-- A free cell for a piece: its frame, and the state with it taken. -/
def takeCell (s : State) (asid : Nat) (l : Leaf) : Option (Nat × State) :=
  if l.size = 4096 then
    match poolDie l.frame with
    | none => none
    | some d => match findUnits (dieOf s d) 1 with
      | none => none
      | some o => some (poolBase d + o, onDie s d (fun x => { x with renameUsed := x.renameUsed ++ [(o, 1)] }))
  else
    match launchOfAsid s asid with
    | none => none
    | some lc =>
      let frames := (List.range (lc.cellLen / 65536)).filterMap (storePiece s lc)
      match frames.find? (fun f => !s.cells.any (fun c => c.frame == f) && !s.making.any (fun m => m.frame == f)) with
      | none => none
      | some f => some (f, s)

/-- Whether a writer still waits for the cell that it asked for. -/
def CellWait.live (s : State) (w : CellWait) : Bool :=
  match w.waiter with
  | .late _ _ _ id _ => s.making.any (fun m => m.id == id)
  | .ap d c => (coreOf s d c).ap.wait == .cell w.id
  | .cmd d c id => (coreOf s d c).cmds.any (fun m => m.id == id)
  | .fill d serial => (match entryOf s d serial with
    | some e => e.pending.isNone && (e.state == .dispatched || e.state == .halted)
    | none => false)
  | _ => true

/-- Cycles from the start of a materialisation until its cell is ready (R303). -/
def cellTime (l : Leaf) : Nat :=
  if l.size = 4096 then (if l.fresh then 16 + 8 + 24 else 24 + 16 + 8 + 24)
  else if l.fresh then 256 + 8 + 420 else 420 + 256 + 8 + 420

/-- A physical address of bytes that move from one place to another. -/
def movedPa (old new size pa : Nat) : Nat := if old ≤ pa ∧ pa < old + size then new + (pa - old) else pa

/-- A write whose bytes move. -/
def WriteAct.onPa (f : Nat → Nat) : WriteAct → WriteAct
  | .bytes ps => .bytes (ps.map (fun p => (f p.1, p.2)))
  | .amo op pa size b c u dst pc => .amo op (f pa) size b c u dst pc
  | .barrier op pa v pc => .barrier op (f pa) v pc
  | .blocks code bs => .blocks code (bs.map (fun b => { b with pa := f b.pa }))
  | .planes geom rs first vals => .planes geom (rs.map (fun r => (f r.1, r.2))) first vals

/-- A landing whose bytes move. -/
def RegWrite.onPa (f : Nat → Nat) : RegWrite → RegWrite
  | .load dst signed ps a seq pc => .load dst signed (ps.map (fun p => (f p.1, p.2))) a seq pc
  | .cond p i zero ps a seq start => .cond p i zero (ps.map (fun p => (f p.1, p.2))) a seq start
  | w => w

/-- The accesses in flight of a core, with the bytes that they read moved. -/
def Core.onPa (x : Core) (f : Nat → Nat) : Core :=
  { x with
    landings := x.landings.map (fun l => { l with writes := l.writes.map (RegWrite.onPa f) })
    aq := x.aq.map (fun q => (q.1, q.2.map (fun e => { e with pieces := e.pieces.map (fun p => match p with
      | .mem pa n => .mem (f pa) n
      | .bytes b => .bytes b) }))) }

/-- Where a cell stands that is not yet taken: beyond the physical space. -/
def lateFrame (id : Nat) : Nat := 2 ^ 48 + 65536 * id

/-- The writes that wait for a cell still being made. -/
def cellWrites (s : State) (m : Materialise) : List Pending := s.writes.filter (fun w => runsMeet w.act.runs [(m.frame, m.size)])

/-- A materialisation that waited for the first write to reach the hub starts (R303): its cell is taken, and what is under way to it finds it
there; none when no cell is free. -/
def beginCell (s : State) (m : Materialise) (l : Leaf) : Option (Nat × State) :=
  (takeCell s m.asid l).map (fun r =>
    let f := movedPa m.frame r.1 m.size
    let n : Materialise := { m with frame := r.1, readyAt := s.cycle + cellTime l, taken := true }
    let t := { r.2 with
      making := r.2.making.map (fun x => if x.id == m.id then n else x)
      writes := r.2.writes.map (fun w => { w with act := w.act.onPa f })
      cores := r.2.cores.map (fun x => (x.1, x.2.onPa f)) }
    (r.1, (cellWrites t n).foldl (fun t w => at' t w.due (.writePerformedAtHome w.id)) (at' t n.readyAt (.cellReady m.id))))

/-- A reach some cycles on. -/
def Reach.later (r : Reach) (n : Nat) : Reach := ⟨r.rd + n, r.wr + n, r.die + n, r.core + n⟩

/-- An agent's marks put off by some cycles: what it has under way comes that much later. -/
def OrderMark.later (o : OrderMark) (n : Nat) : OrderMark :=
  { o with so := o.so.later n, mem := o.mem.later n, all := o.all.later n, floor := o.floor.later n }

/-- Writes put off by some cycles, with what their agents order after them. -/
def putOffWrites (s : State) (late : List Pending) (n : Nat) : State :=
  let after (w : Pending) : Bool := late.any (fun x => x.agent == w.agent && x.seq ≤ w.seq)
  { s with
    writes := s.writes.map (fun w => if after w then { w with due := w.due + n } else w)
    timers := s.timers ++ (s.writes.filter after).map (fun w => (w.due + n, .writePerformedAtHome w.id))
    order := s.order.map (fun o => if late.any (fun x => x.agent == o.agent) then o.later n else o) }

/-- A materialisation and the writes to it put off by a cycle: no cell was free for it. -/
def putOffCell (s : State) (m : Materialise) : State :=
  putOffWrites { s with making := s.making.map (fun x => if x.id == m.id then { x with readyAt := x.readyAt + 1 } else x) } (cellWrites s m) 1

/-- Whether writers wait for a cell of a source that have reached the hub by a cycle (R305). -/
def cellQueue (s : State) (src now : Nat) : Bool := s.cellWaits.any (fun w => w.src == src && w.hubAt ≤ now && w.live s)

/-- The cell of a vintage for a write to a piece that reaches its home hub in a cycle: the one it has, or the one that is being made for it
(R304). A write at the hub has one taken and its materialisation started, unless none is free, or writers wait that came before and this one's
turn has not come (R305); one on its way there will ask for it when it arrives. The cell enters the directory when it is ready (R303). -/
def ensureCell (s : State) (asid vint : Nat) (l : Leaf) (va arrival : Nat) (served : Bool) : Option (Nat × State) :=
  let p := pieceOf l va
  let refused := !served && cellQueue s (cellSource asid l) s.cycle
  match cellOf s asid vint p.1, makingOf s asid vint p.1 with
  | some c, _ => some (c.frame, s)
  | none, some m =>
    if m.taken then some (m.frame, s)
    else if s.cycle < arrival then
      some (m.frame, { s with making := s.making.map (fun x => if x.id == m.id then { x with readyAt := min x.readyAt (arrival + cellTime l) } else x) })
    else if refused then none else beginCell s m l
  | none, none =>
    let n := nextSeq s
    let m : Materialise := { id := n.1, asid := asid, vint := vint, va := p.1, size := p.2, fresh := l.fresh, base := l.frame + (p.1 - l.va),
                             frame := lateFrame n.1, readyAt := max s.cycle arrival + cellTime l, taken := false }
    let t := { n.2 with making := n.2.making ++ [m] }
    if s.cycle < arrival then some (m.frame, t) else if refused then none else beginCell t m l

/-- The parts of a write with every cell they need; when a cell is not free, the part that needs it, the parts before it, and the state with
the cells of those. -/
def cellParts (s : State) (asid vint : Nat) : List Part → Except (Part × List Part × State) (List Part × State)
  | [] => .ok ([], s)
  | p :: rest =>
    match (if p.need then
        (ensureCell s asid vint p.leaf p.va (s.cycle + p.added) false).map (fun r =>
          ({ p with pa := r.1 + (p.va - (pieceOf p.leaf p.va).1), need := false }, r.2))
      else some (p, s)) with
    | none => .error (p, [], s)
    | some (q, t) => match cellParts t asid vint rest with
      | .ok r => .ok (q :: r.1, r.2)
      | .error e => .error (e.1, q :: e.2.1, e.2.2)

/-- The translations of "no cell" of a vintage's piece dropped from every TLB (R295, R304). -/
def dropTlbs (s : State) (f : TlbEntry → Bool) : State :=
  { s with dies := s.dies.map (fun d => (d.1, { d.2 with tlb := d.2.tlb.filter (fun e => !f e) })),
           cores := s.cores.map (fun c => (c.1, { c.2 with tlb := c.2.tlb.filter (fun e => !f e) })) }

/-! ## Atomic operations (R112, R142) -/

/-- f32 addition to nearest. -/
def faddF32 (a b : Nat) : Nat := roundF .f32 .rne 0 (addV (decodeF .f32 a) (decodeF .f32 b))

/-- The new value of an atomic operation, word forms on bits 31:0. -/
def amoNew (op : AmoOp) (size : Nat) (old operand cmp : Nat) : Nat :=
  let w := 8 * size
  let old := old % 2 ^ w
  let b := operand % 2 ^ w
  match op with
  | .add => (old + b) % 2 ^ w
  | .and => old &&& b
  | .or => old ||| b
  | .xor => old ^^^ b
  | .min => if signedOf w old ≤ signedOf w b then old else b
  | .max => if signedOf w old ≤ signedOf w b then b else old
  | .minu => min old b
  | .maxu => max old b
  | .swap => b
  | .cas => if old = cmp % 2 ^ w then b else old
  | .fadd =>
    if size = 4 then faddF32 old b
    else faddF32 (old % 2 ^ 32) (b % 2 ^ 32) + 2 ^ 32 * faddF32 (old / 2 ^ 32) (b / 2 ^ 32)

/-- The operation of a minor. -/
def amoOf (minor : Nat) : AmoOp :=
  match minor with
  | 0 => .add | 1 => .and | 2 => .or | 3 => .xor | 4 => .min | 5 => .max | 6 => .minu | 7 => .maxu | 8 => .swap
  | 9 => .cas | _ => .fadd

/-! ## Barriers (R144 to R146) -/

/-- The words 0 to 2 of a barrier object after an update and the phase rule that follows it. -/
def barrierStep (op : BarOp) (v w0 w1 w2 : Word) : Word × Word × Word :=
  let phase := bits w0 0 0
  let expect := bits w0 31 16
  let arrived := bits w0 47 32
  let pending := bits w1 47 0
  let ebytes := bits w2 47 0
  let u := match op with
    | .init => (0, bits v 15 0, 0, bits v 63 16, bits v 63 16)
    | .exp => (phase, expect, arrived, (pending + bits v 47 0) % 2 ^ 48, ebytes)
    | .arr => (phase, expect, min 65535 (arrived + v.toNat), pending, ebytes)
    | .land => (phase, expect, arrived, (pending + 2 ^ 48 - v.toNat % 2 ^ 48) % 2 ^ 48, ebytes)
  let (phase, expect, arrived, pending, ebytes) := u
  let done := expect ≤ arrived ∧ pending = 0
  let phase := if done then 1 - phase else phase
  let arrived := if done then arrived - expect else arrived
  let pending := if done then ebytes else pending
  (fieldAt arrived 32 ||| fieldAt expect 16 ||| fieldAt phase 0, fieldAt pending 0, fieldAt ebytes 0)

/-- Memory after an update of the barrier object at an address. -/
def barrierAt (m : Memory) (op : BarOp) (pa : Nat) (v : Word) : Memory :=
  let r := barrierStep op v (wordAt m pa) (wordAt m (pa + 8)) (wordAt m (pa + 16))
  let m := writeBytes m pa (wordsBytes [r.1, r.2.1, r.2.2])
  match op with
  | .init => writeBytes m (pa + 24) (wordBytes 0)
  | _ => m

/-! ## Writes (R312, R330) -/

/-- A write handed to the memory system: it reaches its core at once, its die after at most 24 cycles, its home when it is
due, none of them before what it must follow. -/
def issueBound (s : State) (agent : AgentId) (d core : Nat) (kind : PageKind) (release : Bool) (base hub : Nat) (act : WriteAct) (r : Reach) :
    State × Nat :=
  let n := nextSeq s
  let due := max base r.wr
  let w : Pending := { id := n.1, agent := agent, die := d, core := core, seq := n.1, at_ := s.cycle, hubAt := hub,
                       coreAt := min due (max (s.cycle + 1) r.core),
                       dieAt := min due (max (s.cycle + 24) r.die), due := due, kind := kind, release := release, act := act }
  let s := noteAccess n.2 agent kind release w.reach
  (at' { s with writes := s.writes ++ [w] } due (.writePerformedAtHome n.1), due)

/-- A write handed to the memory system after what its agent's order puts before it. -/
def issueWrite (s : State) (agent : AgentId) (d core : Nat) (kind : PageKind) (release : Bool) (base : Nat) (act : WriteAct) : State × Nat :=
  issueBound s agent d core kind release base s.cycle act (boundsOf s agent d core kind release false act.runs)

/-- Memory after the bytes of a write. -/
def storeBytes (s : State) (pa : Nat) (bs : List Byte) : State :=
  clearPoison { s with mem := writeBytes s.mem pa bs } pa bs.length

/-- The register write by which an atomic's old value lands. -/
def oldValue (dst : RegDst) (v : Word) : List RegWrite :=
  match dst with
  | .none => []
  | .cc set r => [.cc set r v]
  | .ap r => [.ap r v]

/-- Whether two values are the same value of an element. -/
def sameV (a b : FVal) : Bool :=
  match a, b with
  | .nan, .nan => true
  | .inf x, .inf y => x == y
  | .fin x m e, .fin y k f =>
    x == y && (m = 0 && k = 0 || (let low := min e f; m * 2 ^ (e - low).toNat == k * 2 ^ (f - low).toNat))
  | _, _ => false

/-- A block of a block-scaled page after some of its elements are written, decoded and encoded at its home in one access (R84, R85): a
block that keeps its values keeps its bytes; a write of a part of it leaves it as poisoned as it was (R409). -/
def putBlock (code : Nat) (s : State) (b : BlockPut) : State :=
  let old := bytesAt s.mem b.pa 32
  let c := byteAt s.mem b.scale
  let was := old.map (fun x => blockValue code c.toNat x.toNat)
  let now := was.take b.first ++ b.vals ++ was.drop (b.first + b.vals.length)
  let enc := if (List.zipWith sameV was now).all id then (c.toNat, old) else encodeBlock code now
  let s := { s with mem := writeBytes s.mem b.scale [BitVec.ofNat 8 enc.1] }
  if b.vals.length = 32 then storeBytes s b.pa enc.2 else { s with mem := writeBytes s.mem b.pa enc.2 }

/-- Bytes dealt among runs of memory. -/
def dealRuns : List (Nat × Nat) → List Byte → List (Nat × List Byte)
  | [], _ => []
  | p :: rest, bs => (p.1, bs.take p.2) :: dealRuns rest (bs.drop p.2)

/-- A block of a bpi page after some of its elements are written, encoded anew at its home in one access (R86). -/
def putPlanes (geom : Nat) (runs : List (Nat × Nat)) (first : Nat) (vals : List FVal) (s : State) : State :=
  let bs := runs.flatMap (fun r => bytesAt s.mem r.1 r.2)
  let was := (List.range 256).map (planeValue geom geom bs)
  let now := was.take first ++ vals.map (fun v => floatToInt 8 0 v) ++ was.drop (first + vals.length)
  (dealRuns runs (encodePlanes geom now)).foldl (fun s p =>
    if vals.length = 256 then storeBytes s p.1 p.2 else { s with mem := writeBytes s.mem p.1 p.2 }) s

/-- The runs of memory that a write's performance reads and that an error there would spoil: the words of a barrier object that is updated
(R145); an atomic looks at its own. -/
def WriteAct.reads : WriteAct → List (Nat × Nat)
  | .barrier op pa _ _ => if op == .init then [] else [(pa, 24)]
  | _ => []

/-- What a write does at its home (R312); an atomic's old value then lands at its agent, four cycles later at an AP (R129). -/
def performWrite (s : State) (w : Pending) : State :=
  match w.act with
  | .bytes ps => ps.foldl (fun s p => storeBytes s p.1 p.2) s
  | .blocks code bs => bs.foldl (putBlock code) s
  | .planes geom runs first vals => putPlanes geom runs first vals s
  | .barrier op pa v _ =>
    let s := { s with mem := barrierAt s.mem op pa v, barriers := if s.barriers.contains pa then s.barriers else pa :: s.barriers }
    if op == .init then clearPoison s pa 32 else s
  | .amo op pa size operand cmp agent dst pc =>
    let e := readErrors s pa size
    let s := e.2
    let old := natAt s.mem pa size
    if e.1 == .uncorrectable then
      match agent with
      | .ctl d => (match dst with | .cc set _ => ccMisread s d set | _ => s)
      | .core d c => coreTrap s d c 0 (trapOf .uncorrectable) pc (coreOf s d c).xp.pc
    else
    let s := storeBytes s pa (leBytes size (amoNew op size old operand.toNat cmp.toNat))
    let at_ := if e.1 == .rebuilt then s.cycle + rebuildDelay else s.cycle
    match agent with
    | .ctl d => (match dst with
      | .cc set r => ccDeliver s d set at_ [.cc set r (BitVec.ofNat 64 old)]
      | _ => s)
    | .core _ _ => landOf s agent w.at_ pc (at_ + 4) (oldValue dst (BitVec.ofNat 64 old))

/-- The cycle in which a write into a cell still being made is performed, whose path takes lat cycles and which reaches the hub in a cycle: after
the cell is ready, after the writes that have reached the hub before it, and before those that reach it later (R303, R304). -/
def cellTurn (s : State) (m : Materialise) (lat arrival : Nat) : Nat :=
  let ws := cellWrites s m
  let lo := (ws.filter (fun w => decide (w.hubAt ≤ arrival))).foldl (fun acc w => max acc w.due) (m.readyAt + lat)
  (ws.filter (fun w => decide (arrival < w.hubAt))).foldl (fun acc w => min acc (w.due - 1)) lo

/-- The base cycle of a write's performance: path and translation of its slowest part; into a cell that is being made, its turn there. -/
def writeBase (s : State) (d from_ : Nat) (ps : List Part) : Nat :=
  ps.foldl (fun acc p => match s.making.find? (fun m => decide (m.frame ≤ p.pa) && decide (p.pa < m.frame + m.size)) with
    | some m => max acc (cellTurn s m (pathLat s d m.base) (from_ + p.added))
    | none => acc) (from_ + partsLat s d ps)

/-- The cycle in which a write reaches its home hub, its translations made. -/
def hubCycle (from_ : Nat) (ps : List Part) : Nat := ps.foldl (fun m p => max m (from_ + p.added)) from_

/-- What a write does at some of its parts: count of them from a place on. -/
def WriteAct.slice (act : WriteAct) (ps : List Part) (first count : Nat) : WriteAct :=
  if ps.length ≤ count then act
  else match act with
    | .bytes bs => .bytes ((bs.drop first).take count)
    | .blocks code bs => .blocks code (bs.filter (fun b => ((ps.drop first).take count).any (fun p => decide (p.pa ≤ b.pa) && decide (b.pa < p.pa + p.len))))
    | a => if first = 0 then a else .bytes []

/-- The groups of a write's parts handed to the memory system one after another in ascending order, each by its own kind (R130, R317); the
cycle by which all are performed. -/
def issueGroups (agent : AgentId) (d core : Nat) (release : Bool) (from_ : Nat) (ps : List Part) (act : WriteAct) :
    List (List Part) → Nat → Nat → State → State × Nat
  | [], _, due, s => (s, due)
  | g :: rest, first, due, s =>
    let a := act.slice ps first g.length
    let w := issueBound s agent d core (kindOf g) release (max due (writeBase s d from_ g)) (hubCycle from_ g) a
      (boundsOf s agent d core (kindOf g) release false a.runs)
    issueGroups agent d core release from_ ps act rest (first + g.length) w.2 w.1

/-- A write of several parts handed to the memory system from a cycle on, and performed not before another. -/
def issueParts (s : State) (agent : AgentId) (d core : Nat) (release : Bool) (from_ floor : Nat) (ps : List Part) (act : WriteAct) : State × Nat :=
  issueGroups agent d core release from_ ps act (kindRuns ps) 0 floor s

/-- The bytes of a write divided among its parts. -/
def dealBytes : List Part → List Byte → List (Nat × List Byte)
  | [], _ => []
  | p :: rest, bs => (p.pa, bs.take p.len) :: dealBytes rest (bs.drop p.len)

/-- The physical address of a byte of an access's parts. -/
def partPa (ps : List Part) (va : Nat) : Option Part := ps.find? (fun p => decide (p.va ≤ va) && decide (va < p.va + p.len))

/-- Values written to a block-scaled page from an address on, as its blocks take them: at the parts that hold the blocks. -/
def blockPuts (ps : List Part) (va : Nat) (vals : List FVal) : List BlockPut :=
  let first := va / 32 * 32
  (List.range (ceilDiv (va + vals.length - first) 32)).filterMap (fun i =>
    let b := first + 32 * i
    let lo := max va b
    let hi := min (va + vals.length) (b + 32)
    (partPa ps b).map (fun p => { pa := p.pa + (b - p.va), scale := p.leaf.scale + (b - p.leaf.va) / 32, first := lo - b,
                                  vals := (vals.drop (lo - va)).take (hi - lo) }))

/-- The cycles that a crossing of the fabric's units adds to a write's visibility in the domain, beyond its home (R113, R143). -/
def domainCrossing : Nat := 4380

/-- The earliest cycle by which every write of some agents is visible at a scope: 0 core, 1 die, 2 device, 3 domain (R312); writes to UN
pages count when asked for. -/
def seenBy (s : State) (mine : AgentId → Bool) (un : Bool) (scope : Nat) : Nat :=
  s.writes.foldl (fun acc w =>
    if mine w.agent && (un || w.kind != .un) then
      max acc (match scope with | 0 => w.reach.core | 1 => w.reach.die | 2 => w.due | _ => w.due + domainCrossing)
    else acc) 0

/-- The earliest cycle by which a fence of a scope finds every write of some agents visible: UN writes count for the domain alone (R322). -/
def visibleBy (s : State) (mine : AgentId → Bool) (scope : Nat) : Nat := seenBy s mine (scope = 3) scope

/-- The earliest cycle by which the writes of an agent, of every kind of page, are visible at a scope, as the posts' release orders them
(R316, R319). -/
def releasedBy (s : State) (a : AgentId) (scope : Nat) : Nat := seenBy s (fun x => x == a) true scope

end Sys2Proof.Machine
end

