-- ==== Sys2Proof/Machine/Flags.lean ====
section
/-! DEFINITION. The relations of the compare groups and what the predicates take from them (R76, R106, R108, R133, R168, R172). -/

namespace Sys2Proof.Machine

/-- The relations of the compare words, in the order of their minors. -/
inductive Rel where
  | eq | ne | lt | le | ltu | leu
  deriving DecidableEq, Repr

/-- A relation of two 64-bit values. -/
def Rel.holds (r : Rel) (a b : Word) : Bool :=
  match r with
  | .eq => a == b
  | .ne => a != b
  | .lt => a.slt b
  | .le => a.sle b
  | .ltu => a.ult b
  | .leu => a.ule b

/-- A relation of two floating-point values: −0 is below +0, a NaN makes every ordered relation false and NE true (R76); LTU
and LEU are the unordered forms (R172). -/
def Rel.holdsV (r : Rel) (a b : FVal) : Bool :=
  match r with
  | .eq => eqV a b
  | .ne => !eqV a b
  | .lt => ltV a b
  | .le => ltV a b || eqV a b
  | .ltu => a.isNan || b.isNan || ltV a b
  | .leu => a.isNan || b.isNan || ltV a b || eqV a b

/-- The signed minimum or maximum of two 64-bit values. -/
def minS (a b : Word) : Word := if a.sle b then a else b

/-- The signed maximum. -/
def maxS (a b : Word) : Word := if a.sle b then b else a

/-- The unsigned minimum. -/
def minU (a b : Word) : Word := if a.ule b then a else b

/-- The unsigned maximum. -/
def maxU (a b : Word) : Word := if a.ule b then b else a

/-- Quotient and remainder of R106: by zero all ones and the dividend; the most negative number by −1 itself and zero. -/
def divide (signed : Bool) (a b : Word) : Word × Word :=
  if b = 0 then (BitVec.allOnes 64, a)
  else if signed then
    (if a = 0x8000000000000000 ∧ b = BitVec.allOnes 64 then (a, 0)
     else
      let q := BitVec.ofInt 64 (a.toInt.tdiv b.toInt)
      (q, a - q * b))
  else
    let q := a / b
    (q, a - q * b)

end Sys2Proof.Machine
end

