-- ==== Sys2Proof/Machine/Operands.lean ====
section
/-! DEFINITION. The operand forms: immediates and addresses (R35), registers of the control core and the AP, views, latches and
256-byte operands of the XP (R34, R42, R43, R163), offsets of the phase map (R432). -/

namespace Sys2Proof.Machine

/-! ## Immediates and addresses (R35) -/

/-- A signed immediate as 64 bits. -/
def sext {n : Nat} (x : BitVec n) : Word := x.signExtend 64

/-- An unsigned immediate as 64 bits. -/
def zext {n : Nat} (x : BitVec n) : Word := x.setWidth 64

/-- The bytes that SZ names. -/
def szBytes (sz : BitVec 2) : Nat := 2 ^ sz.toNat

/-- A branch target: PC + 8 times the signed word offset. -/
def branchTarget (pc : Nat) (off : BitVec 25) : Word := BitVec.ofNat 64 pc + sext off * 8

/-- An address of format FM from a base and an index: base + index + signed OFF12 times the size. -/
def fmAddr (base index : Word) (f : FM) : Word := base + index + sext f.off * BitVec.ofNat 64 (szBytes f.sz)

/-! ## The control core -/

/-- The register set that runs on the control core in focus. -/
def ccRegs (s : State) : RegSet := let c := ctlOf s s.focus.die; (c.ctxOf c.set).regs

/-- Register n of the control core in focus. -/
def ccGet (s : State) (n : BitVec 10) : Word := (ccRegs s).get n.toNat

/-- The set that runs: a context number, or 8. -/
def ccSet (s : State) : Nat := (ctlOf s s.focus.die).set

/-- Whether a word's predicate holds on the control core in focus. -/
def ccHolds (h : Hdr) (s : State) : Bool := holdsOn h (ccRegs s).p

/-- A result of the control core in focus, set to land. -/
def ccLand (s : State) (lat : Nat) (ws : List RegWrite) : State := land s (.ctl s.focus.die) (s.cycle + lat) ws

/-- A word's result in register D, when its predicate holds. -/
def ccResult (h : Hdr) (s : State) (d : BitVec 10) (lat : Nat) (v : Word) : Out :=
  .next (if ccHolds h s then ccLand s lat [.cc (ccSet s) d.toNat v] else s)

/-- A word's result in predicate D, when its predicate holds. -/
def ccPredResult (h : Hdr) (s : State) (d : BitVec 10) (b : Bool) : Out :=
  .next (if ccHolds h s then ccLand s 1 [.ccPred (ccSet s) d.toNat b] else s)

/-- A trap of the control core's word in focus. -/
def ccTrapHere (s : State) (c : Cause) (info : Word) : State := ccTrap s s.focus.die s.focus.pc c info

/-! ## The access processor -/

/-- Register n of the AP in focus. -/
def apGet (s : State) (n : BitVec 10) : Word := s.core.aGet n.toNat

/-- Whether a word's predicate holds on the AP in focus. -/
def apHolds (h : Hdr) (s : State) : Bool := holdsOn h s.core.apPreds

/-- A result of the core in focus, set to land. -/
def coreLand (s : State) (lat : Nat) (ws : List RegWrite) : State := land s (.core s.focus.die s.focus.core) (s.cycle + lat) ws

/-- A word's result in register D, when its predicate holds. -/
def apResult (h : Hdr) (s : State) (d : BitVec 10) (lat : Nat) (v : Word) : Out :=
  .next (if apHolds h s then coreLand s lat [.ap d.toNat v] else s)

/-- A word's result in predicate D, when its predicate holds. -/
def apPredResult (h : Hdr) (s : State) (d : BitVec 10) (b : Bool) : Out :=
  .next (if apHolds h s then coreLand s 1 [.apPred d.toNat b] else s)

/-! ## The execute processor (R34, R42, R43, R163) -/

/-- Whether a word's predicate holds on the XP in focus. -/
def xpHolds (h : Hdr) (s : State) : Bool := holdsOn h s.core.xpPreds

/-- The bytes of an operand of a view: 8, 256, 1,024 and 4,096. -/
def viewBytes (v : Nat) : Nat := match v with | 0 => 8 | 1 => 256 | 2 => 1024 | _ => 4096

/-- Whether a view word keeps the conditions of R42; its reserved bits are read by nothing. -/
def viewOk (v : Nat) (w : Word) : Bool :=
  let stride := bits w 47 44
  let count := bits w 43 34
  let base := bits w 16 0
  let size := viewBytes v
  size ≤ 2 ^ stride && stride ≤ 12 && 1 ≤ count && count ≤ 512 && base % size = 0
    && base + (count - 1) * 2 ^ stride + size ≤ 131072

/-- The byte offset of operand n of a view; none when n is not below COUNT (VIEW_RANGE). -/
def slotOf (c : Core) (v n : Nat) : Option Nat :=
  let w := c.view v
  if n < bits w 43 34 then some (bits w 16 0 + n * 2 ^ bits w 47 44) else none

/-- The FP8 flavour of a view: E5M2 when true. -/
def fl8 (c : Core) (v : Nat) : Bool := bit (c.view v) 48

/-- A source of scalar or vector class as a number: a latch, or the bytes of a slot; none for VIEW_RANGE. -/
def srcOf (c : Core) (v : Nat) (x : BitVec 10) : Option Nat :=
  let size := viewBytes v
  if x.getLsbD 9 then some ((c.latch (x.toNat % 16)).toNat % 2 ^ (8 * size))
  else (slotOf c v (x.toNat % 512)).map (fun o => natAt c.space o size)

/-- A scalar source. -/
def sSrcOf (c : Core) (x : BitVec 10) : Option Word := (srcOf c 0 x).map (BitVec.ofNat 64)

/-- A vector source. -/
def vSrcOf (c : Core) (x : BitVec 10) : Option Vec := (srcOf c 1 x).map (BitVec.ofNat 2048)

/-- The writes of a result of at most 256 bytes: the bytes from an offset of its register on, and its latch; with WS the latch alone, of
which a result of a part of its operand writes only those bytes (R33, R43, R373, entry 15), and its index is not held to the view's
COUNT (entry 132). None for VIEW_RANGE. -/
def resultWrites (c : Core) (v : Nat) (d : BitVec 10) (bs : List Byte) (at_ : Nat) : Option (List RegWrite) :=
  let size := viewBytes v
  let n := d.toNat % 16
  if d.getLsbD 9 then
    some [if bs.length = size ∧ at_ = 0 then .latch n (vecOf (bs ++ List.replicate (256 - size) 0)) else .latchPart n at_ bs]
  else (slotOf c v (d.toNat % 512)).map (fun o => [.space (o + at_) bs, .latchOf n o size])

/-- The trap of an operand index at or beyond its view's COUNT (R42). -/
def viewTrap (s : State) : State := xpTrap s (trapOf .viewRange)

/-- A word of the XP that lands writes when its predicate holds; none is VIEW_RANGE. -/
def xpLand (h : Hdr) (s : State) (lat : Nat) (ws : Core → Option (List RegWrite)) : Out :=
  .next (if xpHolds h s then
    let e := coreReadError s s.focus.die s.focus.core 0
    if e.1 then xpTrap e.2 (trapOf .uncorrectable)
    else match ws e.2.core with
      | some w => coreLand e.2 lat w
      | none => viewTrap e.2
  else s)

/-- A scalar result. -/
def sResult (c : Core) (d : BitVec 10) (v : Word) : Option (List RegWrite) := resultWrites c 0 d (wordBytes v) 0

/-- A vector result. -/
def vResult (c : Core) (d : BitVec 10) (v : Vec) : Option (List RegWrite) := resultWrites c 1 d (vecBytes v) 0

/-! ## The phase map (R432) -/

/-- The phase range of a buffer (1 WB, 2 AB, 3 CB) of the running task: base and size. -/
def phaseRange (c : Core) (buf : Nat) : Nat × Nat :=
  match c.task with
  | none => (0, 0)
  | some t => let w := wordOf t.desc (5 + buf); (bits w 23 0, bits w 47 24)

/-- Whether an offset is phase-mapped. -/
def isMappedOff (c : Core) (buf o : Nat) : Bool := let r := phaseRange c buf; r.1 ≤ o && o < r.1 + r.2

/-- The offset that a destination (dst) or a source names, in a half that is current. -/
def resolveIn (c : Core) (half : BitVec 3) (dst : Bool) (buf o : Nat) : Nat :=
  let r := phaseRange c buf
  let h := half.getLsbD (buf - 1)
  if isMappedOff c buf o && (if dst then h else !h) then o + r.2 else o

/-- The offset that a destination or a source names now. -/
def resolve (c : Core) (dst : Bool) (buf o : Nat) : Nat := resolveIn c c.half dst buf o

/-- Whether a run of bytes that starts at a phase-mapped offset passes the end of its range. -/
def passesRange (c : Core) (buf o n : Nat) : Bool := let r := phaseRange c buf; isMappedOff c buf o && r.1 + r.2 < o + n

/-- The bytes of a typed buffer: 1 WB, 2 AB, 3 CB (R282). -/
def bufBytes (buf : Nat) : Nat := if buf = 3 then 8388608 else 16777216

/-- A typed buffer of a core. -/
def bufOf (c : Core) (buf : Nat) : Memory := match buf with | 1 => c.wb | 2 => c.ab | _ => c.cb

/-- The core with bytes of a typed buffer written. -/
def putBuf (c : Core) (buf o : Nat) (bs : List Byte) : Core :=
  match buf with
  | 1 => { c with wb := writeBytes c.wb o bs }
  | 2 => { c with ab := writeBytes c.ab o bs }
  | _ => { c with cb := writeBytes c.cb o bs }

end Sys2Proof.Machine
end

