-- ==== Sys2Proof/Machine/ApInt.lean ====
section
/-! DEFINITION. Access processor: integer, compare and predicate words (R132, R133). -/

namespace Sys2Proof.Machine

/-- D = A + B (R132). -/
def execApAdd (h : Hdr) (f : F3) (s : State) : Out :=
  apResult h s f.d 1 (apGet s f.a + apGet s f.b)

/-- D = A − B (R132). -/
def execApSub (h : Hdr) (f : F3) (s : State) : Out :=
  apResult h s f.d 1 (apGet s f.a - apGet s f.b)

/-- D = A AND B (R132). -/
def execApAnd (h : Hdr) (f : F3) (s : State) : Out :=
  apResult h s f.d 1 (apGet s f.a &&& apGet s f.b)

/-- D = A OR B (R132). -/
def execApOr (h : Hdr) (f : F3) (s : State) : Out :=
  apResult h s f.d 1 (apGet s f.a ||| apGet s f.b)

/-- D = A XOR B (R132). -/
def execApXor (h : Hdr) (f : F3) (s : State) : Out :=
  apResult h s f.d 1 (apGet s f.a ^^^ apGet s f.b)

/-- D = A shifted left by B[5:0] (R132). -/
def execApShl (h : Hdr) (f : F3) (s : State) : Out :=
  apResult h s f.d 1 (apGet s f.a <<< ((apGet s f.b).toNat % 64))

/-- D = A shifted right by B[5:0], zero fill (R132). -/
def execApShr (h : Hdr) (f : F3) (s : State) : Out :=
  apResult h s f.d 1 (apGet s f.a >>> ((apGet s f.b).toNat % 64))

/-- D = the low 64 bits of A·B (R132). -/
def execApMul (h : Hdr) (f : F3) (s : State) : Out :=
  apResult h s f.d 3 (apGet s f.a * apGet s f.b)

/-- D = the low 64 bits of A·B + C (R132). -/
def execApMadd (h : Hdr) (f : F3) (s : State) : Out :=
  apResult h s f.d 3 (apGet s f.a * apGet s f.b + apGet s f.c)

/-- D = the signed minimum (R132). -/
def execApMin (h : Hdr) (f : F3) (s : State) : Out :=
  apResult h s f.d 1 (minS (apGet s f.a) (apGet s f.b))

/-- D = the signed maximum (R132). -/
def execApMax (h : Hdr) (f : F3) (s : State) : Out :=
  apResult h s f.d 1 (maxS (apGet s f.a) (apGet s f.b))

/-- D = A if p[C] is 1, else B (R132). -/
def execApSel (h : Hdr) (f : F3) (s : State) : Out :=
  apResult h s f.d 1 (if predGet s.core.apPreds f.c.toNat then apGet s f.a else apGet s f.b)

/-- D = A + the signed immediate (R132). -/
def execApAddi (h : Hdr) (f : FI) (s : State) : Out :=
  apResult h s f.d 1 (apGet s f.a + sext f.imm)

/-- D = A AND the unsigned immediate (R132). -/
def execApAndi (h : Hdr) (f : FI) (s : State) : Out :=
  apResult h s f.d 1 (apGet s f.a &&& zext f.imm)

/-- D = A OR the unsigned immediate (R132). -/
def execApOri (h : Hdr) (f : FI) (s : State) : Out :=
  apResult h s f.d 1 (apGet s f.a ||| zext f.imm)

/-- D = A shifted left by IMM25[5:0] (R132). -/
def execApShli (h : Hdr) (f : FI) (s : State) : Out :=
  apResult h s f.d 1 (apGet s f.a <<< (f.imm.toNat % 64))

/-- D = A shifted right by IMM25[5:0], zero fill (R132). -/
def execApShri (h : Hdr) (f : FI) (s : State) : Out :=
  apResult h s f.d 1 (apGet s f.a >>> (f.imm.toNat % 64))

/-- D = the low 64 bits of A times the signed immediate (R132). -/
def execApMuli (h : Hdr) (f : FI) (s : State) : Out :=
  apResult h s f.d 3 (apGet s f.a * sext f.imm)

/-- D = the signed immediate shifted left by 25 (R132). -/
def execApLui (h : Hdr) (f : FI) (s : State) : Out :=
  apResult h s f.d 1 (sext f.imm <<< 25)

/-- p[D] = the relation EQ of A and B (R133). -/
def execApCmpEq (h : Hdr) (f : F3) (s : State) : Out :=
  apPredResult h s f.d (Rel.holds .eq (apGet s f.a) (apGet s f.b))

/-- p[D] = the relation NE of A and B (R133). -/
def execApCmpNe (h : Hdr) (f : F3) (s : State) : Out :=
  apPredResult h s f.d (Rel.holds .ne (apGet s f.a) (apGet s f.b))

/-- p[D] = the relation LT of A and B (R133). -/
def execApCmpLt (h : Hdr) (f : F3) (s : State) : Out :=
  apPredResult h s f.d (Rel.holds .lt (apGet s f.a) (apGet s f.b))

/-- p[D] = the relation LE of A and B (R133). -/
def execApCmpLe (h : Hdr) (f : F3) (s : State) : Out :=
  apPredResult h s f.d (Rel.holds .le (apGet s f.a) (apGet s f.b))

/-- p[D] = the relation LTU of A and B (R133). -/
def execApCmpLtu (h : Hdr) (f : F3) (s : State) : Out :=
  apPredResult h s f.d (Rel.holds .ltu (apGet s f.a) (apGet s f.b))

/-- p[D] = the relation LEU of A and B (R133). -/
def execApCmpLeu (h : Hdr) (f : F3) (s : State) : Out :=
  apPredResult h s f.d (Rel.holds .leu (apGet s f.a) (apGet s f.b))

/-- p[D] = the relation EQ of A and the signed immediate (R133). -/
def execApCmpiEq (h : Hdr) (f : FI) (s : State) : Out :=
  apPredResult h s f.d (Rel.holds .eq (apGet s f.a) (sext f.imm))

/-- p[D] = the relation NE of A and the signed immediate (R133). -/
def execApCmpiNe (h : Hdr) (f : FI) (s : State) : Out :=
  apPredResult h s f.d (Rel.holds .ne (apGet s f.a) (sext f.imm))

/-- p[D] = the relation LT of A and the signed immediate (R133). -/
def execApCmpiLt (h : Hdr) (f : FI) (s : State) : Out :=
  apPredResult h s f.d (Rel.holds .lt (apGet s f.a) (sext f.imm))

/-- p[D] = the relation LE of A and the signed immediate (R133). -/
def execApCmpiLe (h : Hdr) (f : FI) (s : State) : Out :=
  apPredResult h s f.d (Rel.holds .le (apGet s f.a) (sext f.imm))

/-- p[D] = the relation LTU of A and the signed immediate (R133). -/
def execApCmpiLtu (h : Hdr) (f : FI) (s : State) : Out :=
  apPredResult h s f.d (Rel.holds .ltu (apGet s f.a) (sext f.imm))

/-- p[D] = the relation LEU of A and the signed immediate (R133). -/
def execApCmpiLeu (h : Hdr) (f : FI) (s : State) : Out :=
  apPredResult h s f.d (Rel.holds .leu (apGet s f.a) (sext f.imm))

/-- p[D] = p[A] AND p[B] (R133). -/
def execApPand (h : Hdr) (f : F3) (s : State) : Out :=
  apPredResult h s f.d (predGet s.core.apPreds f.a.toNat && predGet s.core.apPreds f.b.toNat)

/-- p[D] = p[A] OR p[B] (R133). -/
def execApPor (h : Hdr) (f : F3) (s : State) : Out :=
  apPredResult h s f.d (predGet s.core.apPreds f.a.toNat || predGet s.core.apPreds f.b.toNat)

/-- p[D] = the complement of p[A] (R133). -/
def execApPnot (h : Hdr) (f : F3) (s : State) : Out :=
  apPredResult h s f.d (!predGet s.core.apPreds f.a.toNat)

end Sys2Proof.Machine
end

