-- ==== Sys2Proof/Machine/Lanes.lean ====
section
/-! DEFINITION. The lanes of 256-byte operands: element-wise results, masks, reduction trees (R91 to R93, R164), and the shapes of
the vector words over them. -/

namespace Sys2Proof.Machine

/-! ## Lanes (R164) -/

/-- The lanes of elements of some bytes in a 256-byte operand. -/
def lanesIn (size : Nat) (v : Vec) : List Nat := (List.range (256 / size)).map (laneOf size v)

/-- A 256-byte operand of lanes. -/
def ofLanes (size : Nat) (xs : List Nat) : Vec := BitVec.ofNat 2048 (packLanes size xs)

/-- The element type of a word whose operands go through vw1. -/
def elemIn (c : Core) (ty : BitVec 3) : Elem := elemOf ty (fl8 c 1)

/-- The lanes of a vector source. -/
def vLanes (c : Core) (size : Nat) (x : BitVec 10) : Option (List Nat) := (vSrcOf c x).map (lanesIn size)

/-- The number of a mask in C[2:0]. -/
def maskNo (x : BitVec 10) : Nat := x.toNat % 8

/-- Whether a mask selects a lane: the bit of the lane's first byte. -/
def selects (m : Mask) (size i : Nat) : Bool := m.getLsbD (size * i)

/-- The byte mask in which the lanes of some bytes that hold are all ones. -/
def laneMask (size : Nat) : List Bool → Nat
  | [] => 0
  | b :: r => (if b then 2 ^ size - 1 else 0) + 2 ^ size * laneMask size r

/-- Each bit of a byte mask as a byte of ones. -/
def spreadMask (m : Mask) : Vec :=
  BitVec.ofNat 2048 (packLanes 1 ((List.range 256).map (fun i => if m.getLsbD i then 255 else 0)))

/-- Bytes taken from one operand where a mask is 1, else from another. -/
def blend (m : Mask) (a b : Vec) : Vec := let k := spreadMask m; (a &&& k) ||| (b &&& ~~~k)

/-! ## The random words of a word (R78) -/

/-- The global iteration count: the passes the XP has completed of its loop, zero outside one. -/
def iterations (c : Core) : Nat := match c.xp.loop with | some l => l.pass | none => 0

/-- What the random words of the word in focus share. -/
def drawOf (s : State) (c : Core) : Draw :=
  match c.task with
  | some t => { seed := t.seed.toNat, serial := t.serial, text := s.focus.pc - (t.image + t.textOff), iter := iterations c, shard := t.shard }
  | none => { seed := 0, serial := 0, text := s.focus.pc, iter := iterations c, shard := 0 }

/-! ## Integer lanes (R73, R170) -/

/-- An integer operand: unsigned under .satu, else signed. -/
def intIn (w : Nat) (rm : BitVec 2) (x : Nat) : Int := if rm = 2 then (x % 2 ^ w : Nat) else signedOf w x

/-! ## Shapes of vector words -/

/-- A word of one vector source; f gives a lane from the element type, the lane number and the source lane. -/
def xpVec1 (h : Hdr) (f : F3) (s : State) (lat : Nat) (g : Elem → Nat → Nat → Nat) : Out :=
  xpLand h s lat (fun c => do
    let e := elemIn c f.ty
    let a ← vLanes c e.bytes f.a
    vResult c f.d (ofLanes e.bytes (List.zipWith (g e) (List.range a.length) a)))

/-- A word of two vector sources. -/
def xpVec2 (h : Hdr) (f : F3) (s : State) (lat : Nat) (g : Elem → Nat → Nat → Nat → Nat) : Out :=
  xpLand h s lat (fun c => do
    let e := elemIn c f.ty
    let a ← vLanes c e.bytes f.a
    let b ← vLanes c e.bytes f.b
    vResult c f.d (ofLanes e.bytes (List.zipWith (fun i p => g e i p.1 p.2) (List.range a.length) (a.zip b))))

/-- A word of three vector sources. -/
def xpVec3 (h : Hdr) (f : F3) (s : State) (lat : Nat) (g : Elem → Nat → Nat → Nat → Nat → Nat) : Out :=
  xpLand h s lat (fun c => do
    let e := elemIn c f.ty
    let a ← vLanes c e.bytes f.a
    let b ← vLanes c e.bytes f.b
    let k ← vLanes c e.bytes f.c
    vResult c f.d (ofLanes e.bytes (List.zipWith (fun i p => g e i p.1 p.2.1 p.2.2) (List.range a.length) (a.zip (b.zip k)))))

/-- A two-source integer word: the exact result of the lanes' values under RM (R170). -/
def xpInt2 (h : Hdr) (f : F3) (s : State) (lat : Nat) (g : Int → Int → Int) : Out :=
  xpVec2 h f s lat (fun e _ a b =>
    let w := 8 * e.bytes
    narrowInt w f.rm (g (intIn w f.rm a) (intIn w f.rm b)))

/-- A floating-point word of two sources: one rounding in RM (R174). -/
def xpFlt2 (h : Hdr) (f : F3) (s : State) (lat : Nat) (g : FVal → FVal → FVal) : Out :=
  let d := drawOf s s.core
  xpVec2 h f s lat (fun e i a b => e.pack f.rm (d.word i 0) (g (e.value false a) (e.value false b)))

/-- A floating-point word of three sources. -/
def xpFlt3 (h : Hdr) (f : F3) (s : State) (lat : Nat) (g : FVal → FVal → FVal → FVal) : Out :=
  let d := drawOf s s.core
  xpVec3 h f s lat (fun e i a b k => e.pack f.rm (d.word i 0) (g (e.value false a) (e.value false b) (e.value false k)))

/-- A compare into a mask: integers by the relation of their values, floating point by R76 and R172. -/
def xpCompare (h : Hdr) (f : F3) (s : State) (r : Rel) : Out :=
  xpLand h s 2 (fun c => do
    let e := elemIn c f.ty
    let a ← vLanes c e.bytes f.a
    let b ← vLanes c e.bytes f.b
    let test (p : Nat × Nat) : Bool := match e with
      | .int w => (match r with
        | .eq => p.1 == p.2
        | .ne => p.1 != p.2
        | .lt => decide (signedOf w p.1 < signedOf w p.2)
        | .le => decide (signedOf w p.1 ≤ signedOf w p.2)
        | .ltu => decide (p.1 < p.2)
        | .leu => decide (p.1 ≤ p.2))
      | .flt t => r.holdsV (decodeF t p.1) (decodeF t p.2)
    some [.xpMask f.d.toNat (BitVec.ofNat 256 (laneMask e.bytes ((a.zip b).map test))) (BitVec.allOnes 256)])

/-! ## Reduction trees (R91 to R93) -/

/-- Neighbours joined, the lower lane on the left. -/
def pairUp {α : Type} (op : α → α → α) : List α → List α
  | a :: b :: r => op a b :: pairUp op r
  | l => l

/-- Some levels of the tree. -/
def treeLevels {α : Type} (op : α → α → α) : Nat → List α → List α
  | 0, l => l
  | k + 1, l => treeLevels op k (pairUp op l)

/-- The number of levels over n lanes. -/
def levelsOf (size : Nat) : Nat := (256 / size).log2

/-- The operations of the reductions. -/
inductive Reduce where
  | sum | max | min
  deriving DecidableEq, Repr

/-- The identity of a reduction, as the bits of an element (R91). -/
def Reduce.identity (k : Reduce) : Elem → Nat
  | .int w => (match k with | .sum => 0 | .max => 2 ^ (w - 1) | .min => 2 ^ (w - 1) - 1)
  | .flt t => (match k with | .sum => 0 | .max => roundF t .rne 0 (.inf true) | .min => roundF t .rne 0 (.inf false))

/-- One step of a reduction; r is its random word. -/
def Reduce.apply (k : Reduce) (e : Elem) (rm : BitVec 2) (r a b : Nat) : Nat :=
  match e with
  | .int w => (match k with
    | .sum => narrowInt w rm (intIn w rm a + intIn w rm b)
    | .max => if signedOf w a ≤ signedOf w b then b else a
    | .min => if signedOf w a ≤ signedOf w b then a else b)
  | .flt t => (match k with
    | .sum => roundF t (Round.of rm) r (addV (decodeF t a) (decodeF t b))
    | .max => roundF t .rne 0 (maxV (decodeF t a) (decodeF t b))
    | .min => roundF t .rne 0 (minV (decodeF t a) (decodeF t b)))

/-- The lanes of an operand with their numbers, those that a mask leaves out replaced by an identity. -/
def maskedLanes (m : Mask) (size identity : Nat) (xs : List Nat) : List (Nat × Nat) :=
  List.zipWith (fun i x => (i, if selects m size i then x else identity)) (List.range xs.length) xs

/-- Some levels of a reduction over the selected lanes; each step draws by the lowest lane of its right operand (R78). -/
def reduceLanes (k : Reduce) (e : Elem) (rm : BitVec 2) (d : Draw) (m : Mask) (levels : Nat) (xs : List Nat) : List Nat :=
  (treeLevels (fun (a b : Nat × Nat) => (a.1, k.apply e rm (d.word b.1 0) a.2 b.2)) levels
    (maskedLanes m e.bytes (k.identity e) xs)).map (fun p => p.2)

/-- One step of a prefix sum at distance 2^k (R92); the lanes below it keep their bits, a NaN's too (entry 175). -/
def prefixStep (e : Elem) (rm : BitVec 2) (d : Draw) (k : Nat) (ys : List Nat) : List Nat :=
  List.zipWith (fun i (p : Option Nat × Nat) => match p.1 with
    | none => p.2
    | some x => Reduce.sum.apply e rm (d.word i k) x p.2)
    (List.range ys.length) ((List.replicate (2 ^ k) none ++ ys.map some).zip ys)

/-- Steps k, k + 1, … of a prefix sum. -/
def prefixSteps (e : Elem) (rm : BitVec 2) (d : Draw) : Nat → Nat → List Nat → List Nat
  | 0, _, ys => ys
  | n + 1, k, ys => prefixSteps e rm d n (k + 1) (prefixStep e rm d k ys)

/-- A reduction to a scalar. -/
def xpReduce (h : Hdr) (f : F3) (s : State) (k : Reduce) : Out :=
  let d := drawOf s s.core
  xpLand h s (2 + levelsOf (elemIn s.core f.ty).bytes) (fun c => do
    let e := elemIn c f.ty
    let a ← vLanes c e.bytes f.a
    let r := reduceLanes k e f.rm d (c.xmGet (maskNo f.c)) (levelsOf e.bytes) a
    sResult c f.d (BitVec.ofNat 64 (r.headD 0)))

/-- A reduction of groups of lanes, each result in its group's lowest lane. -/
def xpGroups (h : Hdr) (f : F3) (s : State) (k : Reduce) : Out :=
  let d := drawOf s s.core
  let g := f.c.toNat / 8 % 16
  xpLand h s (2 + g) (fun c => do
    let e := elemIn c f.ty
    let a ← vLanes c e.bytes f.a
    let r := reduceLanes k e f.rm d (c.xmGet (maskNo f.c)) g a
    vResult c f.d (ofLanes e.bytes (r.flatMap (fun x => x :: List.replicate (2 ^ g - 1) 0))))

end Sys2Proof.Machine
end

