-- ==== Sys2Proof/Machine/Pager.lean ====
section
/-! DEFINITION. Pages that are not resident: requests to the pager of the home hub, and the waiters it answers (R131, R141, R296,
R299). -/

namespace Sys2Proof.Machine

/-- The fault outstanding for the page of a leaf. -/
def faultOf (s : State) (asid va : Nat) : Option PageFault := s.faults.find? (fun f => f.asid == asid && f.va == va)

/-- Whether the pager has answered one who looks again at a page it waits for that the page cannot be made resident: it meets PROT (R296,
R401). -/
def pageFailed (s : State) (asid va : Nat) (who : Waiter) : Bool :=
  s.failed.any (fun f => f.asid == asid && f.va == va && f.who == who && decide (s.cycle ≤ f.until_))

/-- What a failed page answered to one who has looked is forgotten. -/
def tookFailure (s : State) (asid va : Nat) (who : Waiter) : State :=
  { s with failed := s.failed.filter (fun f => !(f.asid == asid && f.va == va && f.who == who)) }

/-- What one who waits was told of failed pages holds until a cycle: nothing of it once that cycle is past. -/
def toldUntil (s : State) (who : Waiter) (until_ : Nat) : State :=
  let kept := s.failed.filter (fun f => s.cycle ≤ f.until_ && !(f.who == who && until_ ≤ s.cycle))
  { s with failed := kept.map (fun f => if f.who == who then { f with until_ := until_ } else f) }

/-- A request for residency of a page: it joins the fault outstanding for the page, or starts one, which the host serves (R296); one who
waits is noted once.
A page in flight to the host is fetched again after its flight (R299). -/
def requestPage (s : State) (asid vint : Nat) (write : Bool) (l : Leaf) (w : Option Waiter) : State :=
  match faultOf s asid l.va with
  | some f =>
    { s with faults := s.faults.map (fun g =>
        if g.asid == asid && g.va == l.va then { (if f.toHost && !f.again then { f with vint := vint, write := write } else f) with waiters := f.waiters ++ w.toList.filter (fun x => !f.waiters.contains x), again := f.again || f.toHost } else g) }
  | none =>
    let n := s.nextEvent
    let s := hostEvent s (.fault asid l.va l.size vint write (hubOf l.va))
    { s with faults := s.faults ++ [{ asid := asid, va := l.va, size := l.size, vint := vint, write := write, event := n,
                                      toHost := false, again := false, waiters := w.toList }] }

/-- The AP in focus stalls at the word in focus: the word and the rest of its group are tried again when the wait ends. -/
def apStall (s : State) (w : ProcWait) : State :=
  s.onCore (fun c => { c with ap := { c.ap with wait := w, word := s.focus.pc, retry := c.ap.retry ++ [s.focus.pc] } })

/-- The XP in focus stalls at the word in focus. -/
def xpStall (s : State) (w : ProcWait) : State :=
  s.onCore (fun c => { c with xp := { c.xp with wait := w, word := s.focus.pc, retry := c.xp.retry ++ [s.focus.pc] } })

/-- The AP in focus stalls until the pager has made a page resident (R131). -/
def apPageStall (s : State) (asid vint va : Nat) (write : Bool) (l : Leaf) : State :=
  apStall (requestPage s asid vint write l (some (.ap s.focus.die s.focus.core))) (.page asid vint va)

/-- A writer that waits for a free cell: it takes its place in the order of arrival at the hub, with the launch's store timeout (R305); a
merge belongs to no task that the timeout could end. -/
def waitForCell (s : State) (hub src asid vint va : Nat) (w : Waiter) : Nat × State :=
  let n := nextSeq s
  let timeout := match launchOfAsid s asid with | some l => l.timeout | none => 0
  let until_ := match w with
    | .host _ => none
    | _ => if timeout = 0 then none else some (max s.cycle hub + 25 * timeout)
  let c : CellWait := { id := n.1, hubAt := hub, src := src, asid := asid, vint := vint, va := va, waiter := w, until_ := until_ }
  let s := { n.2 with cellWaits := n.2.cellWaits.filter (fun x => x.hubAt ≤ hub) ++ [c] ++ n.2.cellWaits.filter (fun x => hub < x.hubAt) }
  (n.1, match until_ with | some t => at' s t (.cellWaitTimeout n.1) | none => s)

/-- The AP in focus stalls until a cell is free for a piece, the parts of its access before it performed. -/
def apCellStall (s : State) (asid vint past : Nat) (p : Part) : State :=
  let r := waitForCell s (s.cycle + p.added) (cellSource asid p.leaf) asid vint p.va (.ap s.focus.die s.focus.core)
  apStall (r.2.onCore (fun c => { c with ap := { c.ap with past := past } })) (.cell r.1)

/-- The parts of a write of the AP in focus whose cell is to be taken when the write reaches the hub take their places among those that wait for
one. -/
def apAwaitCells (s : State) (agent : AgentId) (asid vint : Nat) (ps : List Part) : State :=
  ps.foldl (fun s p => match s.making.find? (fun m => !m.taken && decide (m.frame ≤ p.pa) && decide (p.pa < m.frame + m.size)) with
    | some m => (waitForCell s (s.cycle + p.added) (cellSource asid p.leaf) asid vint p.va (.late agent s.focus.die s.focus.core m.id s.focus.pc)).2
    | none => s) s

/-- A wait of an AP for a page or a cell ends: its words are tried again from the next act on. -/
def apResume (s : State) (d c : Nat) : State :=
  later (onCore s d c (fun x => { x with ap := { x.ap with wait := .none } })) (.issue (.ap d c))

/-- A trap of the AP's word that waits, named by its own address (R128). -/
def apWaitTrap (s : State) (d c : Nat) (t : TrapInfo) : State :=
  let x := coreOf s d c
  coreTrap (onCore s d c (fun x => { x with ap := { x.ap with wait := .none, retry := [] } })) d c 0 t x.ap.word x.xp.pc

end Sys2Proof.Machine
end

