-- ==== Sys2Proof/Machine/Queues.lean ====
section
/-! DEFINITION. The queues between the two processors of a core: entries, pops and counts (R136, R184, R185, R374). -/

namespace Sys2Proof.Machine

/-- Whether an entry popped in some cycle still counts: a pop is counted out from the next cycle on (R374). -/
def counts (now : Nat) (gone : Option Nat) : Bool := match gone with | none => true | some t => decide (now ≤ t)

/-! ## Load queues -/

/-- The entries of aq n, those popped included that still count. -/
def Core.aqOf (c : Core) (n : Nat) : List AqEntry := tget c.aq n []

/-- The number of entries reserved in aq n. -/
def Core.aqUsed (c : Core) (n now : Nat) : Nat := ((c.aqOf n).filter (fun e => counts now e.gone)).length

/-- The head entry of aq n that is not popped. -/
def Core.aqHead (c : Core) (n : Nat) : Option AqEntry := (c.aqOf n).find? (fun e => e.gone == none)

/-- An entry reserved at the tail of aq n. -/
def Core.aqReserve (c : Core) (n : Nat) (e : AqEntry) : Core := { c with aq := tput c.aq n (c.aqOf n ++ [e]) }

/-- The head of aq n popped in a cycle. -/
def Core.aqPop (c : Core) (n now : Nat) : Core :=
  match c.aqHead n with
  | none => c
  | some h => { c with aq := tput c.aq n (((c.aqOf n).filter (fun e => counts now e.gone)).map
      (fun e => if e.id == h.id then { e with gone := some now } else e)) }

/-- An entry of aq n changed. -/
def Core.aqUpdate (c : Core) (n id : Nat) (f : AqEntry → AqEntry) : Core :=
  { c with aq := tput c.aq n ((c.aqOf n).map (fun e => if e.id == id then f e else e)) }

/-! ## Store queues -/

/-- The entries of xq n. -/
def Core.xqOf (c : Core) (n : Nat) : List XqEntry := tget c.xq n []

/-- The number of entries held in xq n. -/
def Core.xqUsed (c : Core) (n now : Nat) : Nat := ((c.xqOf n).filter (fun e => counts now e.gone)).length

/-- The head of xq n that the AP may pop now. -/
def Core.xqHead (c : Core) (n now : Nat) : Option XqEntry :=
  match (c.xqOf n).find? (fun e => e.gone == none) with
  | some e => if e.at_ ≤ now then some e else none
  | none => none

/-- An entry pushed into xq n. -/
def Core.xqPush (c : Core) (n : Nat) (e : XqEntry) : Core := { c with xq := tput c.xq n (c.xqOf n ++ [e]) }

/-- The first live entry of a list marked as popped. -/
def popXq (now : Nat) : List XqEntry → List XqEntry
  | [] => []
  | e :: r => if e.gone == none then { e with gone := some now } :: r else e :: popXq now r

/-- The head of xq n popped in a cycle. -/
def Core.xqPop (c : Core) (n now : Nat) : Core :=
  { c with xq := tput c.xq n (popXq now ((c.xqOf n).filter (fun e => counts now e.gone))) }

/-! ## The branch queue -/

/-- The number of entries held in bq. -/
def Core.bqUsed (c : Core) (now : Nat) : Nat := (c.bq.filter (fun e => counts now e.gone)).length

/-- The head bit of bq that the XP may pop now. -/
def Core.bqHead (c : Core) (now : Nat) : Option Bool :=
  match c.bq.find? (fun e => e.gone == none) with
  | some e => if e.at_ ≤ now then some e.bit else none
  | none => none

/-- The first live bit of a list marked as popped. -/
def popBq (now : Nat) : List BqEntry → List BqEntry
  | [] => []
  | e :: r => if e.gone == none then { e with gone := some now } :: r else e :: popBq now r

/-- The head of bq popped in a cycle. -/
def Core.bqPop (c : Core) (now : Nat) : Core := { c with bq := popBq now (c.bq.filter (fun e => counts now e.gone)) }

/-! ## Runs of masked bytes -/

/-- The runs of bytes that are kept, with their places. -/
def byteRuns : Nat → List (Bool × Byte) → List (Nat × List Byte)
  | _, [] => []
  | i, (false, _) :: r => byteRuns (i + 1) r
  | i, (true, b) :: r =>
    match byteRuns (i + 1) r with
    | (o, bs) :: rest => if o = i + 1 then (i, b :: bs) :: rest else (i, [b]) :: (o, bs) :: rest
    | [] => [(i, [b])]

/-- The runs of bytes that a byte mask selects; the mask repeats every 256 bytes (R186). -/
def maskRuns (m : Mask) (bs : List Byte) : List (Nat × List Byte) :=
  byteRuns 0 (List.zipWith (fun i b => (m.getLsbD (i % 256), b)) (List.range bs.length) bs)

/-- The writes of a 256-byte result under a byte mask: the other bytes of the destination keep their values (R33, R184). -/
def maskedWrites (c : Core) (d : BitVec 10) (v : Vec) (m : Mask) : Option (List RegWrite) :=
  let n := d.toNat % 16
  if d.getLsbD 9 then some ((maskRuns m (vecBytes v)).map (fun r => .latchPart n r.1 r.2))
  else (slotOf c 1 (d.toNat % 512)).map (fun o =>
    (maskRuns m (vecBytes v)).map (fun r => .space (o + r.1) r.2) ++ [.latchOf n o 256])

end Sys2Proof.Machine
end

