-- ==== Sys2Proof/Machine/ApMem.lean ====
section
/-! DEFINITION. Access processor: loads, queue loads, gathers, stores, scatters, atomics, ordered accesses, fences and barriers
(R130, R131, R135 to R146, R433). -/

namespace Sys2Proof.Machine

/-! ## Addresses, vintages and traps -/

/-- The task's vintage vt. -/
def Core.vt (c : Core) : Nat := match c.task with | some t => t.vt.toNat | none => 0

/-- The task's address space. -/
def Core.asid (c : Core) : Nat := match c.task with | some t => t.asid | none => 0

/-- Whether the strict rules of R23 apply. -/
def Core.strict (c : Core) : Bool := match c.task with | some t => t.strict | none => false

/-- Whether the task is committed. -/
def Core.committed (c : Core) : Bool := match c.task with | some t => t.committed | none => false

/-- The agent that the AP of a core is: that of the task's shard it runs (R311). -/
def apOf (s : State) (d c : Nat) : AgentId :=
  match (coreOf s d c).task with
  | some t => .ap t.wdie t.serial t.shard
  | none => .ap 8 (coreKey d c) 0

/-- The agent that the AP in focus is. -/
def apAgent (s : State) : AgentId := apOf s s.focus.die s.focus.core

/-- The vintage of an access: a[B][11:0] with V = 1, else vt (R35, R130). -/
def apVint (s : State) (f : FM) : Nat := if f.v = 1 then (apGet s f.b).toNat % 4096 else s.core.vt

/-- The address of an access (R35). -/
def apAddr (s : State) (f : FM) : Nat :=
  (if f.v = 1 then fmAddr (apGet s f.a) 0 f else fmAddr (apGet s f.a) (apGet s f.b) f).toNat

/-- A trap of the AP's word in focus that names an address. -/
def apFault (s : State) (c : Cause) (err va : Nat) : State := apTrap s { trapAt c va with error := err }

/-- The parts of an access of the AP in focus. -/
def apSplit (s : State) (vint : Nat) (n : Need) (va len : Nat) : List Part × Option Stop × State :=
  splitAccess s.focus.die (some s.focus.core) s.core.asid vint n va len s

/-- What the AP does where an access stops: it traps, or stalls for the page (R131). -/
def apStop (s : State) (vint : Nat) (write : Bool) : Stop → State
  | .trap c e va => apFault s c e va
  | .absent va l _ => apPageStall s s.core.asid vint va write l

/-- Whether a read names a FREE vintage of a vintaged page (R130). -/
def namesFree (s : State) (asid vint : Nat) (ls : List Leaf) : Bool :=
  ls.any (fun l => l.vintaged) && vint != 0 && tget (spaceOf s asid).vints vint .free == .free

/-- Whether a vintage that a read names is FREE (R130). -/
def staleVint (s : State) (named : Bool) (asid vint : Nat) : Bool :=
  named && vint != 0 && tget (spaceOf s asid).vints vint .free == .free

/-! ## Scalar loads (R135, R143) -/

/-- A load into a register, of runs already translated; an acquire holds the AP until it lands. -/
def apLoadParts (s : State) (dst : Nat) (signed acquire : Bool) (ps : List Part) : State :=
  let a := apAgent s
  let due := readDue s a s.focus.die s.focus.core ps
  let due := if acquire then acquireDue s a due else due
  let n := nextSeq s
  let s := noteParts n.2 a false (readReach due) ps
  let s := if acquire then noteAcquire s a due else s
  let s := land s (.core s.focus.die s.focus.core) due [.load (.ap dst) signed (runsOf ps) a n.1 s.focus.pc]
  if acquire then s.onCore (fun c => { c with ap := { c.ap with ready := max c.ap.ready due } }) else s

/-- A scalar load (R135, R143). -/
def apLoad (h : Hdr) (f : FM) (s : State) (signed acquire : Bool) : Out :=
  .next (if apHolds h s then
    let vint := apVint s f
    let va := apAddr s f
    if va % szBytes f.sz ≠ 0 then apFault s .align 0 va
    else
      let r := apSplit s vint { write := false, raw := true, ordered := acquire, hostTrap := false } va (szBytes f.sz)
      match r.2.1 with
      | some st => apStop r.2.2 vint false st
      | none =>
        if f.v = 1 && namesFree s s.core.asid vint (r.1.map (fun p => p.leaf)) then apFault r.2.2 .vintageState 0 vint
        else apLoadParts r.2.2 f.d.toNat signed acquire r.1
  else s)

/-- A load, sign-extended (R135). -/
def execApLds (h : Hdr) (f : FM) (s : State) : Out := apLoad h f s true false

/-- A load from a named vintage (R135). -/
def execApLdsV (h : Hdr) (f : FM) (s : State) : Out := apLoad h f s true false

/-- A load with acquire at device scope, zero-extended (R143). -/
def execApLda (h : Hdr) (f : FM) (s : State) : Out := apLoad h f s false true

/-! ## Queue loads (R136, R137) -/

/-- What a queue load reads: the pieces of the element bytes, those of the scale bytes, the pages it touched, the runs of
absent bytes with their pages, and its resident parts. -/
structure QueueRead where
  pieces : List Piece
  scales : List Piece
  leaves : List Leaf
  absent : List (Nat × Nat)
  gaps   : List (Leaf × Nat)
  parts  : List Part
  deriving DecidableEq, Repr

/-- The run of scale bytes of a part of a block-scaled page (R83). -/
def scaleRun (p : Part) : Nat × Nat := (p.leaf.scale + (p.va - p.leaf.va) / 32, p.len / 32)

/-- The pieces of a queue load of some bytes; with skip, the bytes of a page that is not resident read zero (R131). -/
def queueRead (s0 : State) (vint : Nat) (stale skip : Bool) : Nat → Nat → Nat → Nat → State → QueueRead × Option Stop × State
  | 0, _, _, _, s => (⟨[], [], [], [], [], []⟩, none, s)
  | fuel + 1, off, va, len, s =>
    let r := splitAccess s0.focus.die (some s0.focus.core) s0.core.asid vint
      { write := false, raw := false, ordered := false, hostTrap := false, stale := stale } va len s
    let q : QueueRead :=
      { pieces := r.1.map (fun p => .mem p.pa p.len), scales := r.1.map (fun p => .mem (scaleRun p).1 (scaleRun p).2),
        leaves := r.1.map (fun p => p.leaf), absent := [], gaps := [], parts := r.1 }
    match r.2.1 with
    | some (.absent at_ l added) =>
      if skip then
        let gap := min (va + len - at_) (l.va + l.size - at_)
        let rest := queueRead s0 vint stale skip fuel (off + (at_ - va) + gap) (at_ + gap) (va + len - at_ - gap) r.2.2
        ({ pieces := q.pieces ++ .bytes (List.replicate gap 0) :: rest.1.pieces,
           scales := q.scales ++ .bytes (List.replicate (gap / 32) 0) :: rest.1.scales,
           leaves := q.leaves ++ l :: rest.1.leaves, absent := (off + (at_ - va), gap) :: rest.1.absent, gaps := (l, added) :: rest.1.gaps,
           parts := q.parts ++ rest.1.parts }, rest.2.1, rest.2.2)
      else (q, r.2.1, r.2.2)
    | st => (q, st, r.2.2)

/-- The bits of the granules of some size that runs of absent bytes touch (R137). -/
def granules (per : Nat) (runs : List (Nat × Nat)) : Word :=
  BitVec.ofNat 64 ((List.range 64).foldl (fun acc i =>
    acc + (if runs.any (fun r => r.1 / per ≤ i && i ≤ (r.1 + r.2 - 1) / per) then 2 ^ i else 0)) 0)

/-- Whether pages of an access mix codes 10 to 13 with another code or geometry (R433). -/
def mixesCodes (ls : List Leaf) : Bool :=
  ls.any (fun l => l.fmt ≥ 10) && (match ls with | [] => false | l :: r => r.any (fun m => m.fmt != l.fmt || m.geom != l.geom))

/-- An entry reserved in an aq, landing when its data does. -/
def reserveEntry (s : State) (q due seq : Nat) (pieces : List Piece) (form : EntryForm) (absent : Word) : State :=
  let e : AqEntry := { id := seq, data := 0, landed := false, due := due, pieces := pieces, form := form, absent := absent,
                       seq := seq, pc := s.focus.pc, gone := none }
  at' (s.onCore (fun c => c.aqReserve q e)) due (.aqEntryLand s.focus.die s.focus.core q seq)

/-- The path latency to the home of a page that is not resident: to the frame its entry names, HBM for a page that the host holds. -/
def absentLat (s : State) (l : Leaf) : Nat := if l.home = 0 then pathLat s s.focus.die l.frame else 420

/-- The cycle in which the data of a queue load lands: after the latency and the translation of every page that it touches, resident or
not (R129). -/
def queueDue (s : State) (ps : List Part) (gaps : List (Leaf × Nat)) : Nat :=
  gaps.foldl (fun m g => max m (s.cycle + absentLat s g.1 + g.2)) (if ps.isEmpty then s.cycle + 1 else readDue s (apAgent s) s.focus.die s.focus.core ps)

/-- The page an address lies on, resident or not, or what stops the access. -/
def pageAt (s : State) (vint : Nat) (n : Need) (va : Nat) : Except Stop Leaf × State :=
  let r := apSplit s vint n va 1
  match r.2.1, r.1 with
  | some (.absent _ l _), _ => (.ok l, r.2.2)
  | some st, _ => (.error st, r.2.2)
  | none, p :: _ => (.ok p.leaf, r.2.2)
  | none, [] => (.error (.trap .prot 0 va), r.2.2)

/-- Whether an address that is not a multiple of 32 lies on a page of codes 11 to 13, whose queue loads and stores need one (R136, R139);
the alignment is tested before the page's rights (R130). -/
def coarse (s : State) (va : Nat) : Bool :=
  match walk s s.core.asid va with
  | .ok l => decide (11 ≤ l.fmt) && decide (va % 32 ≠ 0)
  | .error _ => false

/-- The pages of an access that are mapped, in ascending order, up to the first that it may not reach (R130 step 4); fuel bounds the
pages. -/
def spanLeaves (s : State) (write : Bool) : Nat → Nat → Nat → List Leaf
  | 0, _, _ => []
  | fuel + 1, va, stop =>
    if stop ≤ va then []
    else match walk s s.core.asid va with
      | .error _ => []
      | .ok l => if l.home = 2 || (write && !l.wr) then [] else l :: spanLeaves s write fuel (l.va + l.size) stop

/-- LDQ and LDQ.V (R136). -/
def queueLoad (h : Hdr) (f : FM) (s : State) : Out :=
  .next (if apHolds h s then
    let vint := apVint s f
    let va := apAddr s f
    let q := f.d.toNat
    let sz := f.sz.toNat
    if va % szBytes f.sz ≠ 0 then apFault s .align 0 va
    else if 64 ≤ s.core.aqUsed q s.cycle then apStall s (.stalled (.aqFull q))
    else if coarse s va then apFault s .align 0 va
    else match pageAt s vint { write := false, raw := false, ordered := false, hostTrap := false } va with
      | (.error st, s) => apStop s vint false st
      | (.ok l, s) =>
        if l.fmt = 10 || (l.fmt > 10 && (sz = 0 || sz = 3)) then apFault s .format 0 va
        else
          let len := if l.fmt > 10 then 256 / szBytes f.sz else 256
          let r := queueRead s vint (staleVint s (f.v = 1) s.core.asid vint) (q != 0) 128 0 va len s
          if mixesCodes (spanLeaves s false 64 va (va + len)) then apFault s .format 0 va
          else match r.2.1 with
          | some st => apStop r.2.2 vint false st
          | none =>
              let due := queueDue r.2.2 r.1.parts r.1.gaps
              let n := nextSeq r.2.2
              let s := noteParts n.2 (apAgent s) false (readReach due) r.1.parts
              let per := if l.fmt > 10 then (if sz = 1 then 2 else 1) else 4
              reserveEntry s q due n.1 (r.1.pieces ++ (if l.fmt > 10 then r.1.scales else []))
                { fmt := if l.fmt > 10 then l.fmt else 0, geom := 0, sz := sz, scale := len }
                (if q = 0 then 0 else granules per r.1.absent)
  else s)

/-- A queue load (R136). -/
def execLdq (h : Hdr) (f : FM) (s : State) : Out := queueLoad h f s

/-- A queue load from a named vintage (R135). -/
def execLdqV (h : Hdr) (f : FM) (s : State) : Out := queueLoad h f s

/-- The element type that SZ names on a block-scaled page: BF16 and f32 of codes 11 and 12, i16 and i32 of code 13 (R136). -/
def decodedElem (code sz : Nat) : Elem :=
  if code = 13 then (if sz = 1 then .int 16 else .int 32) else (if sz = 1 then .flt .bf16 else .flt .f32)

/-- The 256 bytes of an entry from the bytes its load read: raw, or element bytes followed by scale bytes (R85, R136). -/
def entryBytes (f : EntryForm) (bs : List Byte) : Vec :=
  if f.fmt < 11 then vecOf bs
  else
    let scales := bs.drop f.scale
    let e := decodedElem f.fmt f.sz
    ofLanes e.bytes (List.zipWith (fun i (b : Byte) =>
      let v := blockValue f.fmt (scales.getD (i / 32) 0).toNat b.toNat
      e.pack 0 0 v) (List.range f.scale) (bs.take f.scale))

/-! ## Gathers (R138) -/

/-- The signed index i of an xq entry. -/
def indexAt (v : Vec) (i : Nat) : Int := signedOf 32 (laneOf 4 v i)

/-- The address of element i of a gather or scatter (R138, R140). -/
def elementVa (base : Word) (size : Nat) (off : BitVec 12) (v : Vec) (i : Nat) : Nat :=
  (base + BitVec.ofInt 64 (indexAt v i * size) + sext off * BitVec.ofNat 64 size).toNat

/-- The elements of a gather: each is translated and checked before any is read. -/
def gatherElements (s0 : State) (vint size : Nat) (skip : Bool) (va : Nat → Nat) : List Nat → State → QueueRead × Option Stop × State
  | [], s => (⟨[], [], [], [], [], []⟩, none, s)
  | i :: rest, s =>
    let r := splitAccess s0.focus.die (some s0.focus.core) s0.core.asid vint
      { write := false, raw := true, ordered := false, hostTrap := false } (va i) size s
    match r.2.1 with
    | some (.absent _ l added) =>
      if skip then
        let q := gatherElements s0 vint size skip va rest r.2.2
        ({ q.1 with pieces := .bytes (List.replicate size 0) :: q.1.pieces, leaves := l :: q.1.leaves,
                    absent := (i, 1) :: q.1.absent, gaps := (l, added) :: q.1.gaps }, q.2.1, q.2.2)
      else (⟨[], [], [], [], [], []⟩, r.2.1, r.2.2)
    | some st => (⟨[], [], [], [], [], []⟩, some st, r.2.2)
    | none =>
      let q := gatherElements s0 vint size skip va rest r.2.2
      ({ q.1 with pieces := r.1.map (fun p => .mem p.pa p.len) ++ q.1.pieces, leaves := r.1.map (fun p => p.leaf) ++ q.1.leaves,
                  parts := r.1 ++ q.1.parts }, q.2.1, q.2.2)

/-- A gather by 32-bit indices popped from an xq (R138). -/
def execGathq (h : Hdr) (f : FM) (s : State) : Out :=
  .next (if apHolds h s then
    let size := szBytes f.sz
    let q := f.d.toNat
    let x := f.b.toNat
    let va0 := (apGet s f.a + sext f.off * BitVec.ofNat 64 size).toNat
    if 64 ≤ s.core.aqUsed q s.cycle then apStall s (.stalled (.aqFull q))
    else match s.core.xqHead x s.cycle with
      | none => apStall s (.stalled (.xqEmpty x))
      | some e =>
        if va0 % size ≠ 0 then apFault s .align 0 va0
        else
          let n := if f.sz = 3 then 32 else 64
          let r := gatherElements s s.core.vt size (q != 0) (elementVa (apGet s f.a) size f.off e.data) (List.range n) s
          match r.2.1 with
          | some st => apStop r.2.2 s.core.vt false st
          | none =>
            if mixesCodes r.1.leaves || r.1.leaves.any (fun l => l.fmt ≥ 10) then apFault r.2.2 .format 0 va0
            else
              let due := queueDue r.2.2 r.1.parts r.1.gaps
              let m := nextSeq r.2.2
              let s := noteParts m.2 (apAgent s) false (readReach due) r.1.parts
              let s := s.onCore (fun c => c.xqPop x s.cycle)
              reserveEntry s q due m.1 r.1.pieces { fmt := 0, geom := 0, sz := f.sz.toNat, scale := 0 }
                (if q = 0 then 0 else granules 1 r.1.absent)
  else s)

/-! ## Stores (R139, R140, R143) -/

/-- Parts of a write of the AP in focus handed to the memory system, after those that it has performed before. -/
def apIssue (s : State) (release : Bool) (before qs : List Part) (deal : List Part → WriteAct) : State :=
  if qs.isEmpty then s
  else apAwaitCells (issueParts s (apAgent s) s.focus.die s.focus.core release s.cycle 0 qs
    ((deal (before ++ qs)).slice (before ++ qs) before.length qs.length)).1 (apAgent s) s.core.asid s.core.vt qs

/-- Bytes written at parts already translated: cells are materialised where they are needed, else the parts before are performed and the AP
waits for one; a word tried again goes on after the parts that it has performed (R130). -/
def apWriteParts (s : State) (vint : Nat) (release : Bool) (ps : List Part) (deal : List Part → WriteAct)
    (done : State → State) : State :=
  let before := ps.take s.core.ap.past
  match cellParts s s.core.asid vint (ps.drop s.core.ap.past) with
  | .error (p, qs, t) => apCellStall (apIssue t release before qs deal) s.core.asid vint (before.length + qs.length) p
  | .ok (qs, t) => done ((apIssue t release before qs deal).onCore (fun c => { c with ap := { c.ap with past := 0 } }))

/-- Bytes written at all parts or at none: the AP waits for a cell before it writes any (R140). -/
def apWriteWhole (s : State) (vint : Nat) (ps : List Part) (deal : List Part → WriteAct) (done : State → State) : State :=
  match cellParts s s.core.asid vint ps with
  | .error (p, _, _) => apCellStall s s.core.asid vint 0 p
  | .ok (qs, t) => done (apIssue t false [] qs deal)

/-- A write that stops at a part after some: those are performed first, in ascending order (R130); where a later page is not resident the AP then
waits for it, and goes on after them (R131). -/
def apWriteUpTo (s : State) (vint : Nat) (release : Bool) (ps : List Part) (deal : List Part → WriteAct) : Stop → State
  | .trap c e at_ => apWriteParts s vint release ps deal (fun t => apFault t c e at_)
  | .absent va l added => apWriteParts s vint release ps deal (fun t =>
      (apStop t vint true (.absent va l added)).onCore (fun c => { c with ap := { c.ap with past := ps.length } }))

/-- A store of bytes to pages of codes 0 to 9. A stop on a later page leaves the earlier parts performed, but a mix of codes
leaves none (R130, R433). -/
def apStore (s : State) (vint va : Nat) (bs : List Byte) (release : Bool) (done : State → State) : State :=
  let r := apSplit s vint { write := true, raw := true, ordered := release, hostTrap := false } va bs.length
  match r.2.1 with
  | none => apWriteParts r.2.2 vint release r.1 (fun ps => .bytes (dealBytes ps bs)) done
  | some (.trap .format e at_) => apFault r.2.2 .format e at_
  | some st => apWriteUpTo r.2.2 vint release r.1 (fun ps => .bytes (dealBytes ps bs)) st

/-- A store of a register (R139, R143). -/
def apStoreReg (h : Hdr) (f : FM) (s : State) (release : Bool) : Out :=
  .next (if apHolds h s then
    let va := apAddr s f
    if va % szBytes f.sz ≠ 0 then apFault s .align 0 va
    else apStore s s.core.vt va (leBytes (szBytes f.sz) (apGet s f.d).toNat) release id
  else s)

/-- A store of a register (R139). -/
def execSts (h : Hdr) (f : FM) (s : State) : Out := apStoreReg h f s false

/-- A store with release at device scope (R143). -/
def execApStl (h : Hdr) (f : FM) (s : State) : Out := apStoreReg h f s true

/-- The values of an entry that is stored to a block-scaled page (R139). -/
def entryValues (code sz : Nat) (v : Vec) : List FVal :=
  let e := decodedElem code sz
  (lanesIn e.bytes v).map (fun x => e.value false x)

/-- A store of a whole xq entry (R139). -/
def execStq (h : Hdr) (f : FM) (s : State) : Out :=
  .next (if apHolds h s then
    let x := f.d.toNat
    let va := apAddr s f
    let vint := s.core.vt
    match s.core.xqHead x s.cycle with
    | none => apStall s (.stalled (.xqEmpty x))
    | some e =>
      let pop (s : State) : State := s.onCore (fun c => c.xqPop x s.cycle)
      if va % szBytes f.sz ≠ 0 || coarse s va then apFault s .align 0 va
      else match pageAt s vint { write := false, raw := false, ordered := false, hostTrap := false } va with
        | (.error st, s) => apStop s vint true st
        | (.ok l, s) =>
          let n := if l.fmt < 10 then 256 else 256 / szBytes f.sz
          if !l.wr then apFault s .prot 0 va
          else if l.fmt = 10 || (10 < l.fmt && (f.sz = 0 || f.sz = 3)) || mixesCodes (spanLeaves s true 64 va (va + n)) then
            apFault s .format 0 va
          else if l.fmt < 10 then apStore s vint va (vecBytes e.data) false pop
          else
            let r := apSplit s vint { write := true, raw := false, ordered := false, hostTrap := false } va n
            let put (ps : List Part) : WriteAct := .blocks l.fmt (blockPuts ps va (entryValues l.fmt f.sz.toNat e.data))
            match r.2.1 with
              | none => apWriteParts r.2.2 vint false r.1 put pop
              | some st => apWriteUpTo r.2.2 vint false r.1 put st
  else s)

/-- The parts of several runs of bytes, each with its place in the data, up to the first that stops. -/
def splitRuns (s0 : State) (vint : Nat) : List (Nat × List Byte) → State → List (Part × List Byte) × Option Stop × State
  | [], s => ([], none, s)
  | (va, bs) :: rest, s =>
    let r := splitAccess s0.focus.die (some s0.focus.core) s0.core.asid vint
      { write := true, raw := true, ordered := false, hostTrap := false } va bs.length s
    let here := r.1.map (fun p => (p, (bs.drop (p.va - va)).take p.len))
    match r.2.1 with
    | some st => (here, some st, r.2.2)
    | none =>
      let q := splitRuns s0 vint rest r.2.2
      (here ++ q.1, q.2.1, q.2.2)

/-- The pages of runs of bytes that a word writes, up to the first that it may not reach (R130 step 4). -/
def runsLeaves (s : State) : List (Nat × List Byte) → List Leaf
  | [] => []
  | (va, bs) :: rest =>
    let ls := spanLeaves s true (bs.length / 4096 + 2) va (va + bs.length)
    if ls.any (fun l => decide (va + bs.length ≤ l.va + l.size)) then ls ++ runsLeaves s rest else ls

/-- Whether runs of bytes that a word writes touch a page of codes 10 to 13 and another of a different code or geometry (R433). -/
def mixedRuns (s : State) (runs : List (Nat × List Byte)) : Bool := mixesCodes (runsLeaves s runs)

/-- A store of the masked bytes of an xq entry (R139). -/
def execStqM (h : Hdr) (f : FM) (s : State) : Out :=
  .next (if apHolds h s then
    let x := f.d.toNat
    let va := apAddr s f
    let vint := s.core.vt
    match s.core.xqHead x s.cycle with
    | none => apStall s (.stalled (.xqEmpty x))
    | some e =>
      let pop (s : State) : State := s.onCore (fun c => c.xqPop x s.cycle)
      let runs := (maskRuns e.mask (vecBytes e.data)).map (fun p => ((va + p.1) % 2 ^ 64, p.2))
      let r := splitRuns s vint runs s
      let deal (ps : List Part) : WriteAct := .bytes (List.zipWith (fun p (q : Part × List Byte) => (p.pa, q.2)) ps r.1)
      let parts := r.1.map (fun p => p.1)
      if mixedRuns s runs then apFault r.2.2 .format 0 va
      else match r.2.1 with
      | none => apWriteParts r.2.2 vint false parts deal pop
      | some (.trap .format e at_) => apFault r.2.2 .format e at_
      | some st => apWriteUpTo r.2.2 vint false parts deal st
  else s)

/-- A scatter of the masked elements of an xq entry by 32-bit indices (R140). -/
def execScatq (h : Hdr) (f : FM) (s : State) : Out :=
  .next (if apHolds h s then
    let size := szBytes f.sz
    let x := f.d.toNat
    let y := f.b.toNat
    let vint := s.core.vt
    let va0 := (apGet s f.a + sext f.off * BitVec.ofNat 64 size).toNat
    match s.core.xqHead x s.cycle, s.core.xqHead y s.cycle with
    | some e, some ix =>
      let n := if f.sz = 3 then 32 else 64
      let runs := (List.range n).filterMap (fun i =>
        if e.mask.getLsbD (i * size) then
          some (elementVa (apGet s f.a) size f.off ix.data i, leBytes size (laneOf size e.data i))
        else none)
      if !runs.isEmpty && decide (va0 % size ≠ 0) then apFault s .align 0 va0
      else
        let r := splitRuns s vint runs s
        let deal (ps : List Part) : WriteAct := .bytes (List.zipWith (fun p (q : Part × List Byte) => (p.pa, q.2)) ps r.1)
        if mixedRuns s runs then apFault r.2.2 .format 0 va0
        else match r.2.1 with
        | none => apWriteWhole r.2.2 vint (r.1.map (fun p => p.1)) deal
            (fun s => s.onCore (fun c => (c.xqPop x s.cycle).xqPop y s.cycle))
        | some st => apStop r.2.2 vint true st
    | none, _ => apStall s (.stalled (.xqEmpty x))
    | _, none => apStall s (.stalled (.xqEmpty y))
  else s)

/-! ## Atomics (R142) -/

/-- An atomic operation of the AP: after COMMIT only, FADD not under the strict rules. -/
def apAmo (h : Hdr) (f : FM) (s : State) (op : AmoOp) : Out :=
  .next (if apHolds h s then
    let size := szBytes f.sz
    let va := (apGet s f.a).toNat
    let vint := s.core.vt
    if op == .fadd && s.core.strict then apFault s .nondeterministic 0 va
    else if !s.core.committed then apFault s .notCommitted 0 va
    else if va % size ≠ 0 then apFault s .align 0 va
    else
      let r := apSplit s vint { write := true, raw := true, ordered := false, hostTrap := false } va size
      match r.2.1 with
      | some st => apStop r.2.2 vint true st
      | none => match cellParts r.2.2 s.core.asid vint r.1 with
        | .error (p, _, t) => apCellStall t s.core.asid vint 0 p
        | .ok (qs, t) => match qs with
          | [] => t
          | p :: _ => apIssue t false [] [p] (fun _ =>
              .amo op p.pa size (apGet s f.b) (apGet s f.d) (.core s.focus.die s.focus.core) (.ap f.d.toNat) s.focus.pc)
  else s)

/-- Atomic add (R142). -/
def execApAmoAdd (h : Hdr) (f : FM) (s : State) : Out := apAmo h f s .add

/-- Atomic AND (R142). -/
def execApAmoAnd (h : Hdr) (f : FM) (s : State) : Out := apAmo h f s .and

/-- Atomic OR (R142). -/
def execApAmoOr (h : Hdr) (f : FM) (s : State) : Out := apAmo h f s .or

/-- Atomic XOR (R142). -/
def execApAmoXor (h : Hdr) (f : FM) (s : State) : Out := apAmo h f s .xor

/-- Atomic signed minimum (R142). -/
def execApAmoMin (h : Hdr) (f : FM) (s : State) : Out := apAmo h f s .min

/-- Atomic signed maximum (R142). -/
def execApAmoMax (h : Hdr) (f : FM) (s : State) : Out := apAmo h f s .max

/-- Atomic unsigned minimum (R142). -/
def execApAmoMinu (h : Hdr) (f : FM) (s : State) : Out := apAmo h f s .minu

/-- Atomic unsigned maximum (R142). -/
def execApAmoMaxu (h : Hdr) (f : FM) (s : State) : Out := apAmo h f s .maxu

/-- Atomic swap (R142). -/
def execApAmoSwap (h : Hdr) (f : FM) (s : State) : Out := apAmo h f s .swap

/-- Atomic compare and swap against a[D] (R142). -/
def execApAmoCas (h : Hdr) (f : FM) (s : State) : Out := apAmo h f s .cas

/-- Atomic floating-point add (R142). -/
def execFadd (h : Hdr) (f : FM) (s : State) : Out := apAmo h f s .fadd

/-! ## Fences (R143, R322) -/

/-- The unloaded wait of a fence of a scope. -/
def fenceWait (scope : Nat) : Nat := match scope with | 0 => 1 | 1 => 24 | 2 => 420 | _ => 4800

/-- A fence: the AP issues no later group until its earlier writes are visible at the scope. -/
def apFence (h : Hdr) (s : State) (scope : Nat) : Out :=
  .next (if apHolds h s then
    let a := apAgent s
    let until_ := max (s.cycle + fenceWait scope) (visibleBy s (fun x => x == a) scope)
    (fenceMark s a (scope = 3)).onCore (fun c => { c with ap := { c.ap with ready := max c.ap.ready until_ } })
  else s)

/-- FENCE.CORE (R143). -/
def execApFenceCore (h : Hdr) (_ : FS) (s : State) : Out := apFence h s 0

/-- FENCE.DIE (R143). -/
def execApFenceDie (h : Hdr) (_ : FS) (s : State) : Out := apFence h s 1

/-- FENCE.DEV (R143). -/
def execApFenceDev (h : Hdr) (_ : FS) (s : State) : Out := apFence h s 2

/-- FENCE.DOM (R143). -/
def execApFenceDom (h : Hdr) (_ : FS) (s : State) : Out := apFence h s 3

/-! ## Barriers (R144, R145, R321) -/

/-- The address of a barrier word's object. -/
def barVa (s : State) (f : FM) : Nat := (apGet s f.a + sext f.off * 8).toNat

/-- The part of memory that a barrier word's object lies in, or what stops the word: an object lies in a pool, on a 4 KiB page of
kind SO or RC (R144, R288); BARQ, BARARR and BARINIT on a UN page trap ORDER_KIND (R130, R316). -/
def barPart (s : State) (f : FM) (write ordered : Bool) : Except State (Part × State) :=
  let va := barVa s f
  let vint := s.core.vt
  if va % 32 ≠ 0 then .error (apFault s .align 0 va)
  else match pageAt s vint { write := false, raw := false, ordered := false, hostTrap := false } va with
    | (.error st, s) => .error (apStop s vint write st)
    | (.ok l, s) =>
      if l.size ≠ 4096 || (l.kind == .un && !ordered) then .error (apFault s .prot 0 va)
      else
        let r := apSplit s vint { write := write, raw := true, ordered := ordered, hostTrap := false } va 32
        match r.2.1, r.1 with
        | some st, _ => .error (apStop r.2.2 vint write st)
        | none, [] => .error (apFault r.2.2 .prot 0 va)
        | none, p :: _ => .ok (p, r.2.2)

/-- An update of a barrier object at its home. -/
def barUpdate (h : Hdr) (f : FM) (s : State) (op : BarOp) (v : Word) (ordered release : Bool) : Out :=
  .next (if apHolds h s then
    match barPart s f true ordered with
    | .error t => t
    | .ok (p, t) => match cellParts t s.core.asid s.core.vt [p] with
      | .error (q, _, t) => apCellStall t s.core.asid s.core.vt 0 q
      | .ok (qs, t) => match qs with
        | [] => t
        | q :: _ => apIssue t release [] [q] (fun _ => .barrier op q.pa v s.focus.pc)
  else s)

/-- BARINIT: phase 0, no arrivals, EXPECT and EBYTES from a[B] (R145). -/
def execBarinit (h : Hdr) (f : FM) (s : State) : Out := barUpdate h f s .init (apGet s f.b) true false

/-- BAREXP: PENDING raised by the signed a[B][47:0] (R145). -/
def execBarexp (h : Hdr) (f : FM) (s : State) : Out := barUpdate h f s .exp (apGet s f.b) false false

/-- BARARR: arrivals raised by one, or by a[B][15:0], as a release (R145). -/
def execBararr (h : Hdr) (f : FM) (s : State) : Out :=
  barUpdate h f s .arr (if f.b = 0 then 1 else BitVec.ofNat 64 (bits (apGet s f.b) 15 0)) true true

/-- BARQ: word 0 of the object as an acquire (R145). -/
def execBarq (h : Hdr) (f : FM) (s : State) : Out :=
  .next (if apHolds h s then
    match barPart s f false true with
    | .error t => t
    | .ok (p, t) => apLoadParts t f.d.toNat false true [{ p with len := 8 }]
  else s)

end Sys2Proof.Machine
end

