-- ==== Sys2Proof/Machine/Shoot.lean ====
section
/-! DEFINITION. Shootdowns and the page-table changes that need one (R147, R295). -/

namespace Sys2Proof.Machine

/-- Whether a held translation covers bytes of a range in an address space; with a vintage, only that vintage's. -/
def TlbEntry.inRange (e : TlbEntry) (asid : Nat) (vint : Option Nat) (va len : Nat) : Bool :=
  e.asid == asid && overlaps e.va e.size va len && (match vint with | some v => e.vint == v | none => true)

/-- Whether a shootdown removes translations of a page in a vintage. -/
def Shootdown.covers (x : Shootdown) (asid vint : Nat) (l : Leaf) : Bool :=
  x.asid == asid && overlaps l.va l.size x.va x.len && (match x.vint with | some v => v == vint | none => true)

/-- The runs of memory that a landing brings which was read by an access issued before a place in the order of issue. -/
def Landing.reads (l : Landing) (id : Nat) : List (Nat × Nat) := l.writes.flatMap (fun w => match w with
  | .load _ _ ps _ seq _ => if seq < id then ps else []
  | .cond _ _ _ ps _ seq _ => if seq < id then ps else []
  | _ => [])

/-- Whether runs of memory were reached through translations that led to some, or through any where these are not known. -/
def heldOn (held : Option (List (Nat × Nat))) (runs : List (Nat × Nat)) : Bool :=
  !runs.isEmpty && (match held with | some hs => runsMeet runs hs | none => true)

/-- The runs of memory that an entry of an aq still waits for. -/
def AqEntry.reads (e : AqEntry) : List (Nat × Nat) := e.pieces.filterMap (fun p => match p with | .mem pa n => some (pa, n) | .bytes _ => none)

/-- The cycle by which every access made through some translations before a place in the order of issue is performed: the writes, and the loads
of every AP and control core. A control core's store takes its translation when the checker matches it. -/
def pinsFree (s : State) (id : Nat) (held : Option (List (Nat × Nat))) : Nat :=
  let late (acc : Nat) (l : Landing) : Nat := if heldOn held (l.reads id) then max acc l.due else acc
  let writes := s.writes.foldl (fun acc w => if w.seq < id && heldOn held w.act.runs then max acc w.due else acc) 0
  let aps := s.cores.foldl (fun acc x => (x.2.aq.flatMap (fun q => q.2)).foldl (fun acc e =>
    if !e.landed && e.seq < id && heldOn held e.reads then max acc e.due else acc) (x.2.landings.foldl late acc)) writes
  s.dies.foldl (fun acc x => x.2.ctl.landings.foldl late acc) aps

/-- A shootdown: the translations of a range are dropped at once, and it completes after the 512 cycles in which every TLB refuses them
and when every access in flight through them, which holds a pin, has been performed (R295); held names the memory that they lead to. -/
def startShootdown (s : State) (asid : Nat) (vint : Option Nat) (va len : Nat) (held : Option (List (Nat × Nat))) (done : Waiter) : State :=
  let n := nextSeq s
  let s := dropTlbs n.2 (fun e => e.inRange asid vint va len)
  let due := max (s.cycle + 512) (pinsFree s n.1 held)
  at' { s with shoots := s.shoots ++ [{ id := n.1, asid := asid, vint := vint, va := va, len := len, held := held, done := done }] } due
    (.shootdownComplete n.1)

/-- The first half of a leaf's entry written, in each of the 16 entries of a 64 KiB page. -/
def putLeafWord (s : State) (l : Leaf) (w : Word) : State :=
  if l.pte = 0 then s
  else (List.range (if l.size = 65536 then 16 else 1)).foldl
    (fun s i => { s with mem := writeBytes s.mem (l.pte + 16 * i) (wordBytes w) }) s

/-- The leaves of a range of an address space, in ascending order, or why a page has none. -/
def leavesFrom (s : State) (asid : Nat) : Nat → Nat → Nat → Except Cause (List Leaf)
  | 0, _, _ => .ok []
  | fuel + 1, va, stop =>
    if stop ≤ va then .ok []
    else match walk s asid va with
      | .error f => .error f.trap.1
      | .ok l => match leavesFrom s asid fuel (l.va + l.size) stop with
        | .ok r => .ok (l :: r)
        | .error c => .error c

/-- Whether every byte of a range lies in an element of a box. -/
def Box.covers (b : Box) (va len : Nat) : Bool :=
  b.va ≤ va && va + len ≤ b.va + b.len && (dense b.elem b.dims || (List.range len).all (fun i => b.has (va + i)))

/-- Whether a range lies inside one W or RW region of a record. -/
def inWrittenRegion (recd : List Word) (va len : Nat) : Bool :=
  (List.range 6).any (fun i => decide (2 ≤ (recBox recd i).kind) && (recBox recd i).covers va len)

end Sys2Proof.Machine
end

