-- ==== Sys2Proof/Machine/Wait.lean ====
section
/-! DEFINITION. Tokens, write pointers, and the WAIT words of the two processors (R44, R148, R200, R378). -/

namespace Sys2Proof.Machine

/-! ## Tokens and write pointers (R149, R150, R206) -/

/-- The producers of token k that are still outstanding in a cycle: one that leaves in a cycle leaves at its end. -/
def Core.producers (c : Core) (k now : Nat) : List Nat :=
  ((tget c.tokens k []).filter (fun p => counts now p.2)).map (fun p => p.1)

/-- Whether token k is satisfied in a cycle; k0 always is. -/
def Core.tokenOk (c : Core) (k now : Nat) : Bool := k = 0 || (c.producers k now).isEmpty

/-- A producer added to token k. -/
def Core.addProducer (c : Core) (k id now : Nat) : Core :=
  if k = 0 then c else { c with tokens := tput c.tokens k ((tget c.tokens k []).filter (fun p => counts now p.2) ++ [(id, none)]) }

/-- A producer leaves token k. -/
def Core.dropProducer (c : Core) (k id now : Nat) : Core :=
  if k = 0 then c
  else { c with tokens := tput c.tokens k ((tget c.tokens k []).map (fun p => if p.1 = id && p.2 == none then (id, some now) else p)) }

/-- A channel's write pointer as it stood at the end of the cycle before. -/
def Core.wpBefore (c : Core) (ch now : Nat) : Nat :=
  match tfind c.wpLast ch with
  | some (t, v) => if t = now then v else tget c.wp ch 0
  | none => tget c.wp ch 0

/-- A write pointer advanced. -/
def Core.wpAdd (c : Core) (ch n now : Nat) : Core :=
  { c with wpLast := tput c.wpLast ch (now, c.wpBefore ch now), wp := tput c.wp ch ((tget c.wp ch 0 + n) % 2 ^ 64) }

/-! ## Conditions (R44, R378) -/

/-- KIND of a wait-condition register. -/
def condKind (w : Word) : Nat := bits w 63 60

/-- Whether a condition may be waited for: its kind is below a limit and its reserved bits are zero. -/
def condLegal (limit : Nat) (w : Word) : Bool := condKind w < limit && bits w 59 56 = 0

/-- The trap of a WAIT that selects some conditions (R44). -/
def condTrap (limit : Nat) (ws : List Word) : Option Cause :=
  if ws.any (fun w => !condLegal limit w) then some .reservedField
  else if ws.any (fun w => ((condKind w = 3 || condKind w = 4) && bits w 55 0 % 8 ≠ 0) || (condKind w = 5 && bits w 55 0 % 64 ≠ 0)) then
    some .align
  else none

/-- Whether a condition holds: tokens and pointers as they stood at the end of the cycle before, memory as last re-read. -/
def condHolds (c : Core) (now : Nat) (seen : List (Nat × Bool)) (i : Nat) (w : Word) : Bool :=
  match condKind w with
  | 1 => c.tokenOk (bits w 5 0) now
  | 2 => decide (bits w 55 3 ≤ c.wpBefore (bits w 2 0) now)
  | 3 => seen.any (fun p => p.1 == i && p.2)
  | 4 => seen.any (fun p => p.1 == i && p.2)
  | _ => false

/-- Whether a WAIT is satisfied. -/
def waitHolds (c : Core) (now : Nat) (all : Bool) (ws : List Word) (seen : List (Nat × Bool)) : Bool :=
  let rs := List.zipWith (condHolds c now seen) (List.range ws.length) ws
  if all then rs.all id else rs.any id

/-- The conditions that WMASK selects of w0 to w3. -/
def selected (mask : BitVec 4) (ws : List Word) : List Word :=
  ((List.range 4).zip ws).filterMap (fun p => if mask.getLsbD p.1 then some p.2 else none)

/-! ## The waits of a core's processors -/

/-- The wait of a processor of a core. -/
def procOf (s : State) : Proc → ProcState
  | .ap d c => (coreOf s d c).ap
  | .xp d c => (coreOf s d c).xp
  | _ => .idle

/-- The state with a processor of a core changed. -/
def onProc (s : State) (p : Proc) (f : ProcState → ProcState) : State :=
  match p with
  | .ap d c => onCore s d c (fun x => { x with ap := f x.ap })
  | .xp d c => onCore s d c (fun x => { x with xp := f x.xp })
  | _ => s

/-- The core of a processor. -/
def procAt : Proc → Nat × Nat
  | .ap d c => (d, c)
  | .xp d c => (d, c)
  | .courier d c => (d, c)
  | .cc d => (d, 32)

/-- A trap of the word a processor waits at. -/
def procTrap (s : State) (p : Proc) (t : TrapInfo) : State :=
  let x := coreOf s (procAt p).1 (procAt p).2
  match p with
  | .ap d c => coreTrap (onProc s p (fun q => { q with wait := .none, retry := [] })) d c 0 t x.ap.word x.xp.pc
  | .xp d c => coreTrap (onProc s p (fun q => { q with wait := .none, retry := [] })) d c 1 t x.ap.pc x.xp.word
  | _ => s

/-- A processor of a core as one that waits for a page. -/
def waiterOf (p : Proc) : Waiter := match p with | .xp d c => .xp d c | _ => .ap (procAt p).1 (procAt p).2

/-- Whether a condition of a core's WAIT reads memory. -/
def isMemCond (w : Word) : Bool := condKind w = 3 || condKind w = 4

/-- Whether a processor waits on conditions. -/
def ProcState.onConds (q : ProcState) : Bool := match q.wait with | .conds _ _ _ _ _ _ => true | _ => false

/-- The re-reads of a WAIT count from its own issue (R378): those set by an earlier one are over. -/
def ownRereads (s : State) (p : Proc) (ws : List Word) : State :=
  if ws.any isMemCond then { s with timers := s.timers.filter (fun t => t.2 != .waitReread p) } else s

/-- A re-read of condition i of a WAIT, issued now (R378): it lands after its path latency as a device-scope read in the task's
vintage; a page that the pager could not make resident traps PROT (R296). -/
def rereadCond (p : Proc) (start : Nat) (s : State) (i : Nat) (w : Word) : State :=
  if !isMemCond w || !(procOf s p).onConds then s
  else
    let d := (procAt p).1
    let c := (procAt p).2
    let x := coreOf s d c
    let va := bits w 55 0
    let r := splitAccess d (some c) x.asid x.vt { write := false, raw := true, ordered := false, hostTrap := false } va 8 s
    match r.2.1 with
    | some (.trap cause e at_) => procTrap r.2.2 p { trapAt cause at_ with error := e }
    | some (.absent at_ l _) =>
      if pageFailed r.2.2 x.asid l.va (waiterOf p) then procTrap (tookFailure r.2.2 x.asid l.va (waiterOf p)) p (trapAt .prot at_)
      else requestPage r.2.2 x.asid x.vt false l (some (waiterOf p))
    | none =>
      let a := apOf s d c
      let due := acquireDue r.2.2 a (readDue r.2.2 a d c r.1)
      let n := nextSeq r.2.2
      land n.2 (.core d c) due [.cond p i (condKind w = 4) (runsOf r.1) a n.1 start]

/-- The re-reads of every memory condition of a processor's WAIT, and the next ones 64 cycles on. -/
def rereadAll (s : State) (p : Proc) : State :=
  match (procOf s p).wait with
  | .conds _ ws _ _ _ start =>
    let s := (List.zip (List.range ws.length) ws).foldl (fun s q => rereadCond p start s q.1 q.2) s
    if ws.any isMemCond then at' s (s.cycle + 64) (.waitReread p) else s
  | _ => s

/-- A WAIT of a processor ends: its predicate lands in the next cycle, in the order of its word's address among the other words of its
group, which issue in this one (R33, R166). -/
def endWait (s : State) (p : Proc) (pd : Nat) (ok : Bool) : State :=
  let pc := (procOf s p).word
  let s := onProc s p (fun q => { q with wait := .none })
  let w : RegWrite := match p with | .xp _ _ => .xpPred pd ok | _ => .apPred pd ok
  later (landOf s (.core (procAt p).1 (procAt p).2) s.cycle pc (s.cycle + 1) [w]) (.issue p)

/-- A WAIT evaluated in this cycle: it ends when it is satisfied. -/
def tryWait (s : State) (p : Proc) : State :=
  match (procOf s p).wait with
  | .conds all ws pd _ seen _ =>
    if waitHolds (coreOf s (procAt p).1 (procAt p).2) s.cycle all ws seen then endWait s p pd true else s
  | _ => s

/-- A WAIT of a processor begins (R378). -/
def startWait (s : State) (p : Proc) (f : FW) (ws : List Word) : State :=
  let ws := selected f.wmask ws
  let here := s.focus.pc
  match condTrap 5 ws with
  | some c => (match p with | .xp _ _ => xpTrap s (trapOf c) | _ => apTrap s (trapOf c))
  | none =>
    let deadline := if f.timeout = 0 then none else some (s.cycle + 25 * f.timeout.toNat)
    let s := onProc s p (fun q => { q with wait := .conds (f.all = 1) ws f.pd.toNat deadline [] s.cycle, word := here })
    let s := match deadline with | some t => at' s t (.waitTimeout p) | none => s
    tryWait (rereadAll (ownRereads s p ws) p) p

/-- The AP waits for any selected condition (R148). -/
def execApWaitAny (h : Hdr) (f : FW) (s : State) : Out :=
  .next (if apHolds h s then startWait s (.ap s.focus.die s.focus.core) f ((List.range 4).map (fun i => tget s.core.w i 0)) else s)

/-- The AP waits for all selected conditions (R148). -/
def execApWaitAll (h : Hdr) (f : FW) (s : State) : Out :=
  .next (if apHolds h s then startWait s (.ap s.focus.die s.focus.core) f ((List.range 4).map (fun i => tget s.core.w i 0)) else s)

/-- The XP takes the copy of w0 to w3 that the AP handed over with the word (R44), and waits when its predicate holds. -/
def xpWait (h : Hdr) (f : FW) (s : State) : Out :=
  let ws := s.core.wCopies.headD []
  let t := s.onCore (fun c => { c with wCopies := c.wCopies.tail })
  .next (if xpHolds h s then startWait t (.xp s.focus.die s.focus.core) f ws else t)

/-- The XP waits for any selected condition (R200). -/
def execXpWaitAny (h : Hdr) (f : FW) (s : State) : Out := xpWait h f s

/-- The XP waits for all selected conditions (R200). -/
def execXpWaitAll (h : Hdr) (f : FW) (s : State) : Out := xpWait h f s

end Sys2Proof.Machine
end

