-- ==== Sys2Proof/Machine/ApSys.lean ====
section
/-! DEFINITION. Access processor: branches, residency, sealing, write pointers and tokens (R134, R141, R147 to R149). -/

namespace Sys2Proof.Machine

/-! ## Branches (R134, R169) -/

/-- Whether a virtual address lies in the text section of a task's image. -/
def Running.inText (t : Running) (a : Nat) : Bool := t.image + t.textOff ≤ a && a < t.image + t.textOff + t.textSize

/-- The trap of a branch target (R134, R169). -/
def targetTrap (c : Core) (target : Nat) : Option Cause :=
  if target % 8 ≠ 0 then some .align
  else match c.task with
    | some t => if t.inText target then none else some .prot
    | none => none

/-- A branch of a processor taken: its next group is the target's, two cycles on. -/
def takeBranch (s : State) (p : Proc) (target : Nat) : State :=
  onProc s p (fun q => { q with pc := target, ready := s.cycle + 2, jumped := true })

/-- A branch of the AP. -/
def apBranch (s : State) (f : FB) : State :=
  let target := (branchTarget s.focus.pc f.off).toNat
  match targetTrap s.core target with
  | some c => apTrap s (trapAt c target)
  | none => takeBranch s (.ap s.focus.die s.focus.core) target

/-- A branch taken when the predicate holds (R134). -/
def execApBr (h : Hdr) (f : FB) (s : State) : Out := .next (if apHolds h s then apBranch s f else s)

/-- A jump (R134). -/
def execApJmp (_ : Hdr) (f : FB) (s : State) : Out := .next (apBranch s f)

/-- The condition bit pushed into bq, and a branch when it is 1 (R134). -/
def execBrq (h : Hdr) (f : FB) (s : State) : Out :=
  .next (if 256 ≤ s.core.bqUsed s.cycle then apStall s (.stalled .bqFull)
  else
    let b := apHolds h s
    let s := s.onCore (fun c => { c with bq := c.bq ++ [{ bit := b, at_ := s.cycle + 1, gone := none }], bqKept := c.bqKept ++ [b] })
    if b then apBranch s f else s)

/-! ## Residency (R141) -/

/-- The mask test of a MODE (R141). -/
def maskTest (mode : Nat) (m : Word) : Bool :=
  match mode with
  | 0 => m != 0
  | 1 => m == BitVec.allOnes 64
  | _ => m == 0

/-- p[D] from m[A], which CLR clears in the same landing cycle (R141). -/
def execMtest (h : Hdr) (f : FS) (s : State) : Out :=
  .next (if apHolds h s then
    let p := RegWrite.apPred f.d.toNat (maskTest (f.num.toNat % 4) (s.core.amGet f.a.toNat))
    coreLand s 1 (if f.num.getLsbD 2 then [p, .apMaskClear f.a.toNat] else [p])
  else s)

/-- A request for residency of the page that holds a[A] in vintage vt (R141). -/
def execPgreq (h : Hdr) (f : FS) (s : State) : Out :=
  .next (if apHolds h s then
    let va := (apGet s f.a).toNat
    let asid := s.core.asid
    if va ≥ 2 ^ 56 then apFault s .prot 0 va
    else match walk s asid va with
      | .error e => apFault s e.trap.1 e.trap.2 va
      | .ok l =>
        let idle := match faultOf s asid l.va with
          | some f => !f.toHost || f.again
          | none => l.res && l.home = 0
        if l.home = 2 then apFault s .prot 0 va
        else if idle then s
        else if 16 ≤ s.core.pageReqs.length then apStall s (.stalled .other)
        else
          requestPage (s.onCore (fun c => { c with pageReqs := c.pageReqs ++ [(asid, l.va, s.core.vt)] })) asid s.core.vt false l none
  else s)

/-- The state code of the page that holds an address (R141); 4 for a page of another device, too (entry 134). -/
def pageState (s : State) (asid va : Nat) : Nat :=
  if va ≥ 2 ^ 56 then 4
  else match walk s asid va with
    | .error _ => 4
    | .ok l =>
      if l.home = 2 then 4
      else match faultOf s asid l.va with
        | some f => if f.toHost then 3 else 1
        | none => if l.res && l.home = 0 then 0 else 2

/-- a[D] = the state code of a page (R141). -/
def execPgquery (h : Hdr) (f : FS) (s : State) : Out :=
  apResult h s f.d 4 (BitVec.ofNat 64 (pageState s s.core.asid (apGet s f.a).toNat))

/-! ## Sealing (R147) -/

/-- The record of the task in focus. -/
def taskRecord (s : State) : List Word :=
  match s.core.task with
  | none => []
  | some t => match entryOf s t.wdie t.serial with | some e => e.recd | none => []

/-- Whether a range that begins or ends inside a page does so, as far as its end pages are mapped (R147). -/
def cutsPage (s : State) (asid va stop : Nat) : Bool :=
  (match walk s asid va with | .ok l => l.va != va | .error _ => false) ||
    (match walk s asid (stop - 1) with | .ok l => l.va + l.size != stop | .error _ => false)

/-- A change of the seal bits of a range, with its shootdown; the AP issues no later group until it is complete. -/
def apSeal (h : Hdr) (f : FS) (s : State) (on : Bool) : Out :=
  .next (if apHolds h s then
    let va := (apGet s f.a).toNat
    let len := (apGet s f.d).toNat
    let asid := s.core.asid
    if !s.core.committed then apFault s .notCommitted 0 va
    else if len = 0 then s
    else if cutsPage s asid va (va + len) then apFault s .align 0 va
    else if va + len > 2 ^ 56 then apFault s .prot 0 va
    else match leavesFrom s asid (len / 4096 + 2) va (va + len) with
      | .error c => apFault s c 0 va
      | .ok ls =>
        if ls.any (fun l => l.home = 2 || l.vintaged) || !inWrittenRegion (taskRecord s) va len then apFault s .prot 0 va
        else
          let change := ls.filter (fun l => l.seal != on)
          if change.isEmpty then s
          else
            let s := change.foldl (fun s l => putLeafWord s l (if on then l.word ||| fieldAt 1 57 else l.word &&& ~~~(fieldAt 1 57))) s
            let id := s.seq
            let s := startShootdown s asid none va len (some (ls.map (fun l => (l.frame, l.size)))) (.seal s.focus.die s.focus.core)
            s.onCore (fun c => { c with ap := { c.ap with wait := .seal id } })
  else s)

/-- SEAL: the seal bit set on every page of a range (R147). -/
def execSeal (h : Hdr) (f : FS) (s : State) : Out := apSeal h f s true

/-- UNSEAL: the seal bit cleared (R147). -/
def execUnseal (h : Hdr) (f : FS) (s : State) : Out := apSeal h f s false

/-! ## Write pointers and tokens (R148, R149) -/

/-- a[D] = wp of a channel (R148). -/
def execWprd (h : Hdr) (f : FS) (s : State) : Out :=
  apResult h s f.d 1 (BitVec.ofNat 64 (tget s.core.wp (f.num.toNat % 8) 0))

/-- Token N satisfied at once: its producers no longer affect it (R149). -/
def execTkclr (h : Hdr) (f : FS) (s : State) : Out :=
  .next (if apHolds h s then s.onCore (fun c => { c with tokens := tdel c.tokens (f.num.toNat % 64) }) else s)

/-- p[D] = whether token N is satisfied (R149). -/
def execTktest (h : Hdr) (f : FS) (s : State) : Out :=
  apPredResult h s f.d (s.core.tokenOk (f.num.toNat % 64) s.cycle)

end Sys2Proof.Machine
end

