-- ==== Sys2Proof/Machine/XpQueue.lean ====
section
/-! DEFINITION. Execute processor: queue words, typed-buffer words, the pigeonhole, views (R184 to R187, R193 to R195, R199). -/

namespace Sys2Proof.Machine

/-! ## Queues (R184, R185) -/

/-- A word that pops an aq and lands its entry when the predicate holds; it waits for a landed entry (R166). -/
def xpPop (h : Hdr) (f : F3) (s : State) (ws : Core → Vec → Option (List RegWrite)) : Out :=
  .next (if xpHolds h s then
    let q := f.a.toNat
    match s.core.aqHead q with
    | none => xpStall s (.stalled (.aqEmpty q))
    | some e =>
      if !e.landed then xpStall s (.stalled (.aqPending q))
      else match ws s.core e.data with
        | none => viewTrap s
        | some w => coreLand (s.onCore (fun c => c.aqPop q s.cycle)) 2 w
  else s)

/-- The head entry of aq[A] popped into v[D] (R184). -/
def execQpop (h : Hdr) (f : F3) (s : State) : Out := xpPop h f s (fun c v => vResult c f.d v)

/-- The head entry of aq[A] popped into the bytes of v[D] that m[B] selects (R184). -/
def execQpopm (h : Hdr) (f : F3) (s : State) : Out := xpPop h f s (fun c v => maskedWrites c f.d v (c.xmGet f.b.toNat))

/-- A word that pushes v[A] into xq[D] with a byte mask; it waits for a free entry (R166). -/
def xpPush (h : Hdr) (f : F3) (s : State) (m : Mask) : Out :=
  .next (if xpHolds h s then
    let q := f.d.toNat
    if 32 ≤ s.core.xqUsed q s.cycle then xpStall s (.stalled (.xqFull q))
    else
      let e := coreReadError s s.focus.die s.focus.core 0
      if e.1 then xpTrap e.2 (trapOf .uncorrectable)
      else match vSrcOf e.2.core f.a with
        | none => viewTrap e.2
        | some v => e.2.onCore (fun c => c.xqPush q { data := v, mask := m, at_ := s.cycle + 2, gone := none })
  else s)

/-- v[A] pushed with a mask of all ones (R184). -/
def execQpush (h : Hdr) (f : F3) (s : State) : Out := xpPush h f s (BitVec.allOnes 256)

/-- v[A] pushed with byte mask m[B] (R184). -/
def execQpushm (h : Hdr) (f : F3) (s : State) : Out := xpPush h f s (s.core.xmGet f.b.toNat)

/-- The count that Q selects, as sampled in a cycle (R185). -/
def queueCount (c : Core) (q now : Nat) : Nat :=
  if q < 8 then ((c.aqOf q).filter (fun e => e.landed && counts now e.gone)).length
  else if q < 12 then c.xqUsed (q - 8) now
  else if q = 12 then c.bqUsed now
  else (c.pigeon.filter (fun e => e.at_ ≤ now)).length

/-- s[D] = the count of queue Q (R185). -/
def execQcnt (h : Hdr) (f : F3) (s : State) : Out :=
  xpLand h s 1 (fun c => sResult c f.d (BitVec.ofNat 64 (queueCount c f.a.toNat s.cycle)))

/-! ## Typed buffers (R186, R187, R283) -/

/-- Grants a cycle of a buffer's port: 4 on AB, 8 on CB (R283). -/
def grantRate (buf : Nat) : Nat := if buf = 3 then 8 else 4

/-- The last grant cycle of a BUF word of n grants issued now: after the last of an earlier one on the buffer. -/
def lastGrant (c : Core) (buf n now : Nat) : Nat := max now (tget c.grants buf 0) + ceilDiv n (grantRate buf) - 1

/-- The bytes of a buffer as an XP word reads them: the XP's earlier stores are performed in issue order (R187). -/
def bufRead (c : Core) (buf off n : Nat) : List Byte :=
  c.landings.foldl (fun bs l => l.writes.foldl (fun bs w => match w with
    | .buf b o xs => if b = buf then overlay bs off o xs else bs
    | _ => bs) bs) (bytesAt (bufOf c buf) off n)

/-- The view of an operand class of a BUF word: vector, tile, accumulator. -/
def classView (f : FM) : Nat := f.b.toNat / 32 % 4 + 1

/-- The offset of a BUF word, or its trap in the order of R186: VIEW_RANGE of D, ALIGN, BUFFER_ACCESS, PROT. -/
def bufPlace (c : Core) (f : FM) (isSource : Bool) : Except Cause (Nat × Nat × Nat) :=
  let v := classView f
  let w := viewBytes v
  let buf := f.b.toNat % 4
  let o := ((c.oGet f.a.toNat).setWidth 64 + sext f.off * BitVec.ofNat 64 (szBytes f.sz)).toNat % 2 ^ 32
  let off := resolve c true buf o
  if !(isSource && f.d.getLsbD 9) && (slotOf c v (f.d.toNat % 512)).isNone then .error .viewRange
  else if off % szBytes f.sz ≠ 0 then .error .align
  else if buf = 1 then .error .bufferAccess
  else if bufBytes buf < off + w || passesRange c buf o w then .error .prot
  else .ok (buf, off, w)

/-- The state after the grants of a BUF word, and the cycle in which it lands or writes. -/
def takeGrants (s : State) (buf w : Nat) : Nat × State :=
  let last := lastGrant s.core buf (ceilDiv w 256) s.cycle
  (last + 4, s.onCore (fun c => { c with grants := tput c.grants buf (last + 1) }))

/-- The bytes at an offset of a buffer into an operand (R186). -/
def execVldb (h : Hdr) (f : FM) (s : State) : Out :=
  .next (if xpHolds h s then
    match bufPlace s.core f false with
    | .error c => xpTrap s (trapOf c)
    | .ok (buf, off, w) =>
      let e := coreReadError s s.focus.die s.focus.core buf
      if e.1 then xpTrap e.2 (trapOf .uncorrectable)
      else
        let g := takeGrants e.2 buf w
        let bs := bufRead g.2.core buf off w
        let ws := if w = 256 then resultWrites g.2.core 1 f.d bs 0
          else (slotOf g.2.core (classView f) f.d.toNat).map (fun o => [.space o bs])
        coreLand g.2 (g.1 - s.cycle) (ws.getD [])
  else s)

/-- A store of an operand's bytes into a buffer, those that a mask selects (R186). -/
def bufStore (h : Hdr) (f : FM) (s : State) (m : Mask) : Out :=
  .next (if xpHolds h s then
    match bufPlace s.core f true with
    | .error c => xpTrap s (trapOf c)
    | .ok (buf, off, w) =>
      let e := coreReadError s s.focus.die s.focus.core 0
      if e.1 then xpTrap e.2 (trapOf .uncorrectable)
      else match srcOf e.2.core (classView f) f.d with
        | none => viewTrap e.2
        | some x =>
          let g := takeGrants e.2 buf w
          coreLand g.2 (g.1 - s.cycle) ((maskRuns m (leBytes w x)).map (fun r => .buf buf (off + r.1) r.2))
  else s)

/-- The bytes of an operand into a buffer (R186). -/
def execVstb (h : Hdr) (f : FM) (s : State) : Out := bufStore h f s (BitVec.allOnes 256)

/-- The bytes of an operand that m[B[4:2]] selects into a buffer (R186). -/
def execVstbm (h : Hdr) (f : FM) (s : State) : Out := bufStore h f s (s.core.xmGet (f.b.toNat / 4 % 8))

/-! ## The pigeonhole (R193 to R195, R376) -/

/-- The selected lanes appended to the pigeonhole under a path, the lowest first until it is full (R193). -/
def execDefer (h : Hdr) (f : F3) (s : State) : Out :=
  .next (if xpHolds h s then
    let e := coreReadError s s.focus.die s.focus.core 0
    if e.1 then xpTrap e.2 (trapOf .uncorrectable)
    else
      let c := e.2.core
      let z := (elemIn c f.ty).bytes
      match vLanes c z f.a, vLanes c z f.b with
      | some a, some b =>
        let m := c.xmGet (maskNo f.c)
        let new := ((List.range a.length).zip (a.zip b)).filterMap (fun p =>
          if selects m z p.1 then
            some { path := f.d.toNat % 16, index := (iterations c * (256 / z) + p.1) % 2 ^ 32, val0 := p.2.1, val1 := p.2.2,
                   at_ := s.cycle + 2 : PigeonEntry }
          else none)
        let room := 512 - c.pigeon.length
        let s := e.2.onCore (fun c => { c with pigeon := c.pigeon ++ new.take room })
        if room < new.length then coreLand s 2 [.deferOvf] else s
      | _, _ => viewTrap e.2
  else s)

/-- The entries of a path that are present in a cycle. -/
def pigeonOn (c : Core) (path now : Nat) : List PigeonEntry := c.pigeon.filter (fun e => e.path = path && e.at_ ≤ now)

/-- s[D] = the entries of a path and OVF, which path 15 clears (R194). -/
def execDefcnt (h : Hdr) (f : F3) (s : State) : Out :=
  .next (if xpHolds h s then
    let c := s.core
    let path := f.a.toNat % 16
    let v := fieldAt (pigeonOn c path s.cycle).length 0 ||| fieldAt c.pigeonOvf.toNat 63
    match sResult c f.d v with
    | none => viewTrap s
    | some w => coreLand (if path = 15 then s.onCore (fun c => { c with pigeonOvf := false }) else s) 1 w
  else s)

/-- The first k entries of a path removed. -/
def dropPath (path now : Nat) : Nat → List PigeonEntry → List PigeonEntry
  | 0, l => l
  | _, [] => []
  | k + 1, e :: r => if e.path = path && e.at_ ≤ now then dropPath path now k r else e :: dropPath path now (k + 1) r

/-- A batch of a path's oldest entries removed into three vectors (R195). -/
def execDeftake (h : Hdr) (f : F3) (s : State) : Out :=
  .next (if xpHolds h s then
    let c := s.core
    let z := (elemIn c f.ty).bytes
    let nb := min 64 (256 / z)
    let path := f.a.toNat % 16
    let wanted := if f.c.toNat % 128 = 0 then nb else f.c.toNat % 128
    let taken := (pigeonOn c path s.cycle).take wanted
    let d := f.d.toNat % 512
    match resultWrites c 1 f.d (vecBytes (ofLanes 4 ((taken.map (fun e => e.index)) ++ List.replicate (64 - taken.length) 0xFFFFFFFF))) 0,
        slotOf c 1 (d + 1), slotOf c 1 (d + 2) with
    | some w, some o1, some o2 =>
      let v0 := vecBytes (ofLanes z (taken.map (fun e => e.val0)))
      let v1 := vecBytes (ofLanes z (taken.map (fun e => e.val1)))
      coreLand (s.onCore (fun c => { c with pigeon := dropPath path s.cycle taken.length c.pigeon })) 3
        (w ++ [.space o1 v0, .space o2 v1])
    | _, _, _ => viewTrap s
  else s)

/-! ## Views (R199) -/

/-- View register D from s[A], with the checks of R42. -/
def execView (h : Hdr) (f : FS) (s : State) : Out :=
  .next (if xpHolds h s then
    match sSrcOf s.core f.a with
    | none => viewTrap s
    | some v => if viewOk f.d.toNat v then coreLand s 1 [.view f.d.toNat v] else viewTrap s
  else s)

end Sys2Proof.Machine
end

