-- ==== Sys2Proof/Machine/Loop.lean ====
section
/-! DEFINITION. The loop sequencer and the branches of the execute processor (R50, R169, R188 to R192, R375). -/

namespace Sys2Proof.Machine

/-! ## Reading the program (R40, R48 to R50) -/

/-- Bytes of an address space in vintage 0, read through the page tables; none where a page is not resident (entry 17). -/
def peekBytes (s : State) (asid : Nat) : Nat → Nat → Nat → Option (List Byte)
  | 0, _, _ => none
  | fuel + 1, va, n =>
    if n = 0 then some []
    else match walk s asid va with
      | .error _ => none
      | .ok l =>
        if !l.res || l.home ≠ 0 then none
        else
          let here := min n (l.va + l.size - va)
          (peekBytes s asid fuel (va + here) (n - here)).map (fun r => bytesAt s.mem (l.frame + (va - l.va)) here ++ r)

/-- Doublewords of an address space in vintage 0. -/
def peekWords (s : State) (asid va n : Nat) : Option (List Word) := (peekBytes s asid (n / 512 + 4) va (8 * n)).map (bytesWords n)

/-- Bytes that a scheduler or a sequencer reads from an address space: the words, or the first address that has none and why. -/
inductive Peek where
  | words (ws : List Word)
  | absent (l : Leaf)
  | trap (c : Cause) (err va : Nat)
  deriving DecidableEq, Repr

/-- Why a range cannot be read through the page tables now. -/
def peekStop (s : State) (asid : Nat) : Nat → Nat → Nat → Option Peek
  | 0, _, _ => none
  | fuel + 1, va, n =>
    if n = 0 then none
    else if walkPoisoned s asid va then some (.trap .uncorrectable 0 va)
    else match walk s asid va with
      | .error f => some (.trap f.trap.1 f.trap.2 va)
      | .ok l =>
        if l.home = 2 then some (.trap .prot 0 va)
        else if 10 ≤ l.fmt then some (.trap .format 0 va)
        else if !l.res || l.home = 1 || leaving s asid l then some (.absent l)
        else
          let here := min n (l.va + l.size - va)
          peekStop s asid fuel (va + here) (n - here)

/-- The doublewords of a range. -/
def peek (s : State) (asid va n : Nat) : Peek :=
  match peekStop s asid (n / 512 + 4) va (8 * n) with
  | some x => x
  | none => .words ((peekWords s asid va n).getD [])

/-- Level n of a loop-table entry (R50). -/
def loopLevelOf (ws : List Word) (n : Nat) : LoopLevel :=
  let w (k : Nat) := wordOf ws (1 + 7 * n + k)
  { trip := bits (w 0) 31 0, kind := bits (w 0) 33 32,
    strides := (List.range 8).map (fun j => BitVec.ofNat 32 (bits (w (1 + j / 2)) (32 * (j % 2) + 31) (32 * (j % 2)))),
    first := w 5, last := w 6 }

/-- The levels and the body length of a loop-table entry that keeps the conditions of R50; its zero fields are not looked at (entry 169). -/
def parseLoop (ws : List Word) : Option (List LoopLevel × Nat) :=
  let n := bits (wordOf ws 0) 2 0
  let body := bits (wordOf ws 0) 9 3
  let ls := (List.range n).map (loopLevelOf ws)
  if n = 0 || n = 7 || body = 0 || 64 < body then none
  else if ls.any (fun l => l.kind = 3 || l.trip = 0 || l.first.toNat ≥ 2 ^ body || l.last.toNat ≥ 2 ^ body) then none
  else some (ls, body)

/-- The loop-table entry that a task names. -/
def loopEntry (s : State) (t : Running) (id : Nat) : Option (List LoopLevel × Nat) :=
  let i := bits (wordOf t.desc 9) 63 0 + id
  if t.loopCnt ≤ i then none
  else match peekWords s t.asid (t.image + t.loopOff + 384 * i) 48 with
    | none => none
    | some ws => parseLoop ws

/-- The shard count that a loop-table entry gives: the product of its spatial TRIPs (R50). -/
def spatialShards (ls : List LoopLevel) : Nat := ls.foldl (fun a l => if l.kind = 0 then a else a * l.trip) 1

/-- The first indices of a loop: temporal levels at 0, spatial ones at the shard's digits (R189). -/
def firstIndex : Nat → List LoopLevel → List Nat
  | _, [] => []
  | sh, l :: r => if l.kind = 0 then 0 :: firstIndex sh r else sh % l.trip :: firstIndex (sh / l.trip) r

/-- The indices of the next pass: temporal levels count like an odometer, the lowest fastest; none after the last. -/
def nextIndex : List LoopLevel → List Nat → Option (List Nat)
  | l :: ls, i :: is =>
    if l.kind = 0 then
      if i + 1 < l.trip then some ((i + 1) :: is) else (nextIndex ls is).map (fun r => 0 :: r)
    else (nextIndex ls is).map (fun r => i :: r)
  | _, _ => none

/-- The run of a loop from its first pass. -/
def startLoop (ls : List LoopLevel) (size body shard : Nat) : LoopRun :=
  { body := body, levels := ls, size := size, group := 0, index := firstIndex shard ls, prev := List.replicate ls.length 0,
    pass := 0, stop := false, fresh := true }

/-- Whether FIRST or LAST suppresses the group a loop is at (R189). -/
def LoopRun.suppressed (l : LoopRun) : Bool :=
  (List.zip l.levels l.index).any (fun p =>
    (bit p.1.first l.group && p.2 != 0) || (bit p.1.last l.group && p.2 + 1 != p.1.trip))

/-- What the pass that begins adds to offset register j (R189). -/
def LoopRun.delta (l : LoopRun) (j : Nat) : BitVec 32 :=
  (List.zip l.levels (List.zip l.index l.prev)).foldl (fun acc p =>
    acc + BitVec.ofInt 32 ((p.2.1 : Int) - p.2.2) * p.1.strides.getD j 0) 0

/-- The offsets raised at the start of a pass. -/
def raiseOffsets (c : Core) (l : LoopRun) : Core :=
  { c with offsets := (List.range 8).foldl (fun t j => tset t j (tget t j 0 + l.delta j) 0) c.offsets }

/-- What raises the offsets at the start of a pass, as results that land (R189, R192). -/
def LoopRun.raises (l : LoopRun) : List RegWrite := (List.range 8).map (fun j => .offsetAdd j (l.delta j))

/-- A loop after the last group of a pass: the next pass, or none when it ends. -/
def LoopRun.nextPass (l : LoopRun) : Option LoopRun :=
  if l.stop then none
  else (nextIndex l.levels l.index).map (fun i => { l with group := 0, index := i, prev := l.index, pass := l.pass + 1, fresh := true })

/-! ## The loop words (R188, R191, R192) -/

/-- The trap of the read of the loop-table entry that a task names: of its translation, or of a page of codes 10 to 13 (R82, R111, entry 166). -/
def loopTrap (s : State) (t : Running) (id : Nat) : Option TrapInfo :=
  let i := bits (wordOf t.desc 9) 63 0 + id
  if t.loopCnt ≤ i then none
  else match peek s t.asid (t.image + t.loopOff + 384 * i) 48 with
    | .trap c e va => some { trapAt c va with error := e }
    | _ => none

/-- LOOP: the entry's loop begins at the group after the word's own (R188). -/
def execLoop (_ : Hdr) (f : FL) (s : State) : Out :=
  .next (match s.core.task with
    | none => xpTrap s (trapOf .reservedField)
    | some t =>
      if s.core.xp.loop.isSome then xpTrap s (trapOf .reservedField)
      else if let some i := loopTrap s t (f.imm.toNat % 65536) then xpTrap s i
      else match loopEntry s t (f.imm.toNat % 65536) with
        | none => xpTrap s (trapOf .reservedField)
        | some (ls, body) => s.onCore (fun c => { c with xp := { c.xp with loop := some (startLoop ls body c.xp.pc t.shard) } }))

/-- LBRK: a bit popped from bq ends the loop after the current pass (R191). -/
def execLbrk (_ : Hdr) (_ : FS) (s : State) : Out :=
  .next (match s.core.bqHead s.cycle with
    | none => xpStall s (.stalled .bqEmpty)
    | some b => s.onCore (fun c =>
        let c := c.bqPop s.cycle
        { c with xp := { c.xp with loop := c.xp.loop.map (fun l => { l with stop := l.stop || b }) } }))

/-- An offset register set (R192). -/
def execOset (h : Hdr) (f : FI) (s : State) : Out :=
  .next (if xpHolds h s then coreLand s 1 [.offset f.d.toNat ((sext f.imm).setWidth 32)] else s)

/-- An offset register raised (R192). -/
def execOadd (h : Hdr) (f : FI) (s : State) : Out :=
  .next (if xpHolds h s then coreLand s 1 [.offset f.d.toNat (s.core.oGet f.d.toNat + (sext f.imm).setWidth 32)] else s)

/-! ## Branches (R169) -/

/-- A branch of the XP. -/
def xpBranch (s : State) (f : FB) : State :=
  let target := (branchTarget s.focus.pc f.off).toNat
  match targetTrap s.core target with
  | some c => xpTrap s (trapAt c target)
  | none => takeBranch s (.xp s.focus.die s.focus.core) target

/-- A branch taken when the predicate holds (R169). -/
def execXpBr (h : Hdr) (f : FB) (s : State) : Out := .next (if xpHolds h s then xpBranch s f else s)

/-- A jump (R169). -/
def execXpJmp (_ : Hdr) (f : FB) (s : State) : Out := .next (xpBranch s f)

/-- A bit popped from bq, whatever the predicate, and a branch when both are 1 (R169). -/
def execBrb (h : Hdr) (f : FB) (s : State) : Out :=
  .next (match s.core.bqHead s.cycle with
    | none => xpStall s (.stalled .bqEmpty)
    | some b =>
      let s := s.onCore (fun c => c.bqPop s.cycle)
      if b && xpHolds h s then xpBranch s f else s)

end Sys2Proof.Machine
end

