-- ==== Sys2Proof/Machine/CcInt.lean ====
section
/-! DEFINITION. Control core: integer, compare, predicate and branch words (R105 to R109). -/

namespace Sys2Proof.Machine

/-- D = A + B (R106). -/
def execCcAdd (h : Hdr) (f : F3) (s : State) : Out :=
  ccResult h s f.d 1 (ccGet s f.a + ccGet s f.b)

/-- D = A − B (R106). -/
def execCcSub (h : Hdr) (f : F3) (s : State) : Out :=
  ccResult h s f.d 1 (ccGet s f.a - ccGet s f.b)

/-- D = A AND B (R106). -/
def execCcAnd (h : Hdr) (f : F3) (s : State) : Out :=
  ccResult h s f.d 1 (ccGet s f.a &&& ccGet s f.b)

/-- D = A OR B (R106). -/
def execCcOr (h : Hdr) (f : F3) (s : State) : Out :=
  ccResult h s f.d 1 (ccGet s f.a ||| ccGet s f.b)

/-- D = A XOR B (R106). -/
def execCcXor (h : Hdr) (f : F3) (s : State) : Out :=
  ccResult h s f.d 1 (ccGet s f.a ^^^ ccGet s f.b)

/-- D = A shifted left by B[5:0] (R106). -/
def execCcShl (h : Hdr) (f : F3) (s : State) : Out :=
  ccResult h s f.d 1 (ccGet s f.a <<< ((ccGet s f.b).toNat % 64))

/-- D = A shifted right by B[5:0], zero fill (R106). -/
def execCcShr (h : Hdr) (f : F3) (s : State) : Out :=
  ccResult h s f.d 1 (ccGet s f.a >>> ((ccGet s f.b).toNat % 64))

/-- D = A shifted right by B[5:0], sign fill (R106). -/
def execCcSar (h : Hdr) (f : F3) (s : State) : Out :=
  ccResult h s f.d 1 ((ccGet s f.a).sshiftRight ((ccGet s f.b).toNat % 64))

/-- D = the low 64 bits of A·B (R106). -/
def execCcMul (h : Hdr) (f : F3) (s : State) : Out :=
  ccResult h s f.d 3 (ccGet s f.a * ccGet s f.b)

/-- D = bits 127:64 of the signed product (R106). -/
def execCcMulh (h : Hdr) (f : F3) (s : State) : Out :=
  ccResult h s f.d 3 (BitVec.ofInt 64 ((ccGet s f.a).toInt * (ccGet s f.b).toInt / 2 ^ 64))

/-- D = the signed quotient (R106). -/
def execCcDiv (h : Hdr) (f : F3) (s : State) : Out :=
  ccResult h s f.d 18 ((divide true (ccGet s f.a) (ccGet s f.b)).1)

/-- D = the unsigned quotient (R106). -/
def execCcDivu (h : Hdr) (f : F3) (s : State) : Out :=
  ccResult h s f.d 18 ((divide false (ccGet s f.a) (ccGet s f.b)).1)

/-- D = the signed remainder (R106). -/
def execCcRem (h : Hdr) (f : F3) (s : State) : Out :=
  ccResult h s f.d 18 ((divide true (ccGet s f.a) (ccGet s f.b)).2)

/-- D = the unsigned remainder (R106). -/
def execCcRemu (h : Hdr) (f : F3) (s : State) : Out :=
  ccResult h s f.d 18 ((divide false (ccGet s f.a) (ccGet s f.b)).2)

/-- D = the signed minimum (R106). -/
def execCcMin (h : Hdr) (f : F3) (s : State) : Out :=
  ccResult h s f.d 1 (minS (ccGet s f.a) (ccGet s f.b))

/-- D = the signed maximum (R106). -/
def execCcMax (h : Hdr) (f : F3) (s : State) : Out :=
  ccResult h s f.d 1 (maxS (ccGet s f.a) (ccGet s f.b))

/-- D = the unsigned minimum (R106). -/
def execCcMinu (h : Hdr) (f : F3) (s : State) : Out :=
  ccResult h s f.d 1 (minU (ccGet s f.a) (ccGet s f.b))

/-- D = the unsigned maximum (R106). -/
def execCcMaxu (h : Hdr) (f : F3) (s : State) : Out :=
  ccResult h s f.d 1 (maxU (ccGet s f.a) (ccGet s f.b))

/-- D = A if p[C] is 1, else B (R106). -/
def execCcSel (h : Hdr) (f : F3) (s : State) : Out :=
  ccResult h s f.d 1 (if predGet (ccRegs s).p f.c.toNat then ccGet s f.a else ccGet s f.b)

/-- D = A + the signed immediate (R107). -/
def execCcAddi (h : Hdr) (f : FI) (s : State) : Out :=
  ccResult h s f.d 1 (ccGet s f.a + sext f.imm)

/-- D = A AND the unsigned immediate (R107). -/
def execCcAndi (h : Hdr) (f : FI) (s : State) : Out :=
  ccResult h s f.d 1 (ccGet s f.a &&& zext f.imm)

/-- D = A OR the unsigned immediate (R107). -/
def execCcOri (h : Hdr) (f : FI) (s : State) : Out :=
  ccResult h s f.d 1 (ccGet s f.a ||| zext f.imm)

/-- D = A XOR the unsigned immediate (R107). -/
def execCcXori (h : Hdr) (f : FI) (s : State) : Out :=
  ccResult h s f.d 1 (ccGet s f.a ^^^ zext f.imm)

/-- D = A shifted left by IMM25[5:0] (R107). -/
def execCcShli (h : Hdr) (f : FI) (s : State) : Out :=
  ccResult h s f.d 1 (ccGet s f.a <<< (f.imm.toNat % 64))

/-- D = A shifted right by IMM25[5:0], zero fill (R107). -/
def execCcShri (h : Hdr) (f : FI) (s : State) : Out :=
  ccResult h s f.d 1 (ccGet s f.a >>> (f.imm.toNat % 64))

/-- D = A shifted right by IMM25[5:0], sign fill (R107). -/
def execCcSari (h : Hdr) (f : FI) (s : State) : Out :=
  ccResult h s f.d 1 ((ccGet s f.a).sshiftRight (f.imm.toNat % 64))

/-- D = the low 64 bits of A times the signed immediate (R107). -/
def execCcMuli (h : Hdr) (f : FI) (s : State) : Out :=
  ccResult h s f.d 3 (ccGet s f.a * sext f.imm)

/-- D = the signed immediate shifted left by 25 (R107). -/
def execCcLui (h : Hdr) (f : FI) (s : State) : Out :=
  ccResult h s f.d 1 (sext f.imm <<< 25)

/-- p[D] = the relation EQ of A and B (R108). -/
def execCcCmpEq (h : Hdr) (f : F3) (s : State) : Out :=
  ccPredResult h s f.d (Rel.holds .eq (ccGet s f.a) (ccGet s f.b))

/-- p[D] = the relation NE of A and B (R108). -/
def execCcCmpNe (h : Hdr) (f : F3) (s : State) : Out :=
  ccPredResult h s f.d (Rel.holds .ne (ccGet s f.a) (ccGet s f.b))

/-- p[D] = the relation LT of A and B (R108). -/
def execCcCmpLt (h : Hdr) (f : F3) (s : State) : Out :=
  ccPredResult h s f.d (Rel.holds .lt (ccGet s f.a) (ccGet s f.b))

/-- p[D] = the relation LE of A and B (R108). -/
def execCcCmpLe (h : Hdr) (f : F3) (s : State) : Out :=
  ccPredResult h s f.d (Rel.holds .le (ccGet s f.a) (ccGet s f.b))

/-- p[D] = the relation LTU of A and B (R108). -/
def execCcCmpLtu (h : Hdr) (f : F3) (s : State) : Out :=
  ccPredResult h s f.d (Rel.holds .ltu (ccGet s f.a) (ccGet s f.b))

/-- p[D] = the relation LEU of A and B (R108). -/
def execCcCmpLeu (h : Hdr) (f : F3) (s : State) : Out :=
  ccPredResult h s f.d (Rel.holds .leu (ccGet s f.a) (ccGet s f.b))

/-- p[D] = the relation EQ of A and the signed immediate (R108). -/
def execCcCmpiEq (h : Hdr) (f : FI) (s : State) : Out :=
  ccPredResult h s f.d (Rel.holds .eq (ccGet s f.a) (sext f.imm))

/-- p[D] = the relation NE of A and the signed immediate (R108). -/
def execCcCmpiNe (h : Hdr) (f : FI) (s : State) : Out :=
  ccPredResult h s f.d (Rel.holds .ne (ccGet s f.a) (sext f.imm))

/-- p[D] = the relation LT of A and the signed immediate (R108). -/
def execCcCmpiLt (h : Hdr) (f : FI) (s : State) : Out :=
  ccPredResult h s f.d (Rel.holds .lt (ccGet s f.a) (sext f.imm))

/-- p[D] = the relation LE of A and the signed immediate (R108). -/
def execCcCmpiLe (h : Hdr) (f : FI) (s : State) : Out :=
  ccPredResult h s f.d (Rel.holds .le (ccGet s f.a) (sext f.imm))

/-- p[D] = the relation LTU of A and the signed immediate (R108). -/
def execCcCmpiLtu (h : Hdr) (f : FI) (s : State) : Out :=
  ccPredResult h s f.d (Rel.holds .ltu (ccGet s f.a) (sext f.imm))

/-- p[D] = the relation LEU of A and the signed immediate (R108). -/
def execCcCmpiLeu (h : Hdr) (f : FI) (s : State) : Out :=
  ccPredResult h s f.d (Rel.holds .leu (ccGet s f.a) (sext f.imm))

/-- p[D] = p[A] AND p[B] (R108). -/
def execCcPand (h : Hdr) (f : F3) (s : State) : Out :=
  ccPredResult h s f.d (predGet (ccRegs s).p f.a.toNat && predGet (ccRegs s).p f.b.toNat)

/-- p[D] = p[A] OR p[B] (R108). -/
def execCcPor (h : Hdr) (f : F3) (s : State) : Out :=
  ccPredResult h s f.d (predGet (ccRegs s).p f.a.toNat || predGet (ccRegs s).p f.b.toNat)

/-- p[D] = p[A] XOR p[B] (R108). -/
def execCcPxor (h : Hdr) (f : F3) (s : State) : Out :=
  ccPredResult h s f.d (predGet (ccRegs s).p f.a.toNat != predGet (ccRegs s).p f.b.toNat)

/-- p[D] = the complement of p[A] (R108). -/
def execCcPnot (h : Hdr) (f : F3) (s : State) : Out :=
  ccPredResult h s f.d (!predGet (ccRegs s).p f.a.toNat)

/-! ## Branches (R109) -/

/-- The bytes of the text a control core's set runs: its launch's text section; the monitor's firmware has no stated end. -/
def ccTextSize (s : State) : Nat :=
  let c := ctlOf s s.focus.die
  if c.monitor then 2 ^ 64 else match launchOf s (c.ctxOf c.set).launch with | some l => l.textSize | none => 0

/-- The control core's next word at a target, two cycles on; a target that is not a multiple of 8 traps ALIGN, one outside
the text PROT, with the target in EINFO (R109). -/
def ccJump (s : State) (target : Word) : State :=
  if target.toNat % 8 ≠ 0 then ccTrapHere s .align target
  else if target.toNat ≥ ccTextSize s then ccTrapHere s .prot target
  else onCtl s s.focus.die (fun c => c.onCtx c.set (fun x =>
    { x with regs := { x.regs with pc := target.toNat }, ready := s.cycle + 2 }))

/-- The link of a call: PC + 8 into c31, landing a cycle later, unless the jump trapped. -/
def ccLink (s : State) (target : Word) : State :=
  if target.toNat % 8 ≠ 0 ∨ target.toNat ≥ ccTextSize s then ccJump s target
  else ccLand (ccJump s target) 1 [.cc (ccSet s) 31 (BitVec.ofNat 64 (s.focus.pc + 8))]

/-- Taken when the predicate holds (R109). -/
def execCcBr (h : Hdr) (f : FB) (s : State) : Out :=
  .next (if ccHolds h s then ccJump s (branchTarget s.focus.pc f.off) else s)

/-- Jump to PC + 8·OFF25 (R109). -/
def execCcJmp (_ : Hdr) (f : FB) (s : State) : Out := .next (ccJump s (branchTarget s.focus.pc f.off))

/-- Jump to c[D] (R109). -/
def execCcJmpr (_ : Hdr) (f : FB) (s : State) : Out := .next (ccJump s (ccGet s f.d))

/-- Call to PC + 8·OFF25, linking PC + 8 into c31 (R109). -/
def execCcCall (_ : Hdr) (f : FB) (s : State) : Out := .next (ccLink s (branchTarget s.focus.pc f.off))

/-- Call to c[D]; the target is read before the link lands (R109). -/
def execCcCallr (_ : Hdr) (f : FB) (s : State) : Out := .next (ccLink s (ccGet s f.d))

/-- Return to c31 (R109). -/
def execCcRet (_ : Hdr) (_ : FB) (s : State) : Out := .next (ccJump s ((ccRegs s).get 31))

end Sys2Proof.Machine
end

