-- ==== Sys2Proof/Machine/CcMem.lean ====
section
/-! DEFINITION. Control core: outward actions and the checker's part in them, memory, atomics and fences (R103, R110 to R113). -/

namespace Sys2Proof.Machine

/-! ## Blocking, outward actions and values from outside (R102, R103) -/

/-- MAS as the monitor's own SYSW words before have it: they take effect before an access issued after them does (R100, R103,
entry 39). -/
def Ctl.masNow (c : Ctl) : Nat :=
  c.outward.foldl (fun m o => match o.act with
    | .sysw 0 v => bits v 39 32
    | _ => m) c.mas

/-- The address space in which a register set's words access memory (R94, R100). -/
def setAsid (s : State) (d set : Nat) : Nat :=
  let c := ctlOf s d
  if set = 8 then c.masNow else match launchOf s (c.ctxOf set).launch with | some l => l.asid | none => 0

/-- The address space of the control core in focus. -/
def ccAsid (s : State) : Nat := setAsid s s.focus.die (ccSet s)

/-- The set of the control core in focus changed. -/
def ccOn (s : State) (f : Ctx → Ctx) : State := onCtl s s.focus.die (fun c => c.onCtx c.set f)

/-- The next word of the set in focus issues no earlier than a cycle. -/
def ccHold (s : State) (until_ : Nat) : State := ccOn s (fun x => { x with ready := max x.ready until_ })

/-- The set in focus waits. -/
def ccWait (s : State) (w : CtxWait) : State := ccOn s (fun x => { x with wait := w, state := .waiting })

/-- A set blocked by its own word, which does not hand the control core to another context (R96, R102). -/
def ccBlock (s : State) : State := ccOn s (fun x => { x with wait := .landing })

/-- An outward action of the word in focus: it takes effect when the checker matches it, lat cycles on (R103). -/
def outward (s : State) (lat : Nat) (a : OutAct) : State :=
  let d := s.focus.die
  let set := ccSet s
  let c := ctlOf s d
  let o : Outward := { due := s.cycle + lat, set := set, act := a, snap := c.snap set, whole := true }
  at' (onCtl s d (fun c => { c with outward := c.outward ++ [o] })) (s.cycle + lat) (.checkerMatch d true)

/-- A post on its way to the checker: its records are read after lat cycles (R115). -/
def outPost (s : State) (lat : Nat) (a : OutAct) : State :=
  let d := s.focus.die
  let set := ccSet s
  let c := ctlOf s d
  let o : Outward := { due := s.cycle + lat, set := set, act := a, snap := c.snap set, whole := false }
  at' (onCtl s d (fun c => { c with outward := c.outward ++ [o] })) (s.cycle + lat) (.checkerMatch d true)

/-- A trap that a word of a set meets after its issue: taken at the word's address when its set runs; none while another set
does, when the action is tried again in the next cycle. -/
def ccLateTrap (s : State) (d : Nat) (o : Outward) (cause : Cause) (info : Word) : State :=
  if (ctlOf s d).set = o.set then ccTrap (ccWake s d o.set s.cycle) d (o.snap.regs.pc - 8) cause info
  else if ((ctlOf s d).ctxOf o.set).state == .done || ((ctlOf s d).ctxOf o.set).state == .free then s
  else at' (onCtl s d (fun c => { c with outward := { o with due := s.cycle + 1 } :: c.outward })) (s.cycle + 1) (.checkerMatch d true)

/-! ## Accesses (R110, R111) -/

/-- The agent that the set in focus is. -/
def ccAgent (s : State) : AgentId := .ctx s.focus.die (ccSet s)

/-- The parts of an access of the control core in focus, in vintage 0. -/
def ccSplit (s : State) (n : Need) (va len : Nat) : List Part × Option Stop × State :=
  splitAccess s.focus.die none (ccAsid s) 0 n va len s

/-- The context stalls until the page of an address is resident; its word is tried again, and traps with what EINFO then holds when the pager has
answered with a failure (R101, R111, R296). -/
def ccPageStall (s : State) (asid va info : Nat) (write : Bool) (l : Leaf) : State :=
  let here := s.focus.pc
  let who : Waiter := .ctx s.focus.die (ccSet s)
  if pageFailed s asid l.va who then ccTrapHere (tookFailure s asid l.va who) .prot (BitVec.ofNat 64 info)
  else ccOn (requestPage s asid 0 write l (some who))
    (fun x => { x with wait := .page asid va, state := .waiting, regs := { x.regs with pc := here } })

/-- What the control core does where an access stops. -/
def ccStop (s : State) (write : Bool) : Stop → State
  | .trap c _ va => ccTrapHere s c (BitVec.ofNat 64 va)
  | .absent va l _ => ccPageStall s (ccAsid s) va va write l

/-- The address of an access (R110). -/
def ccAddr (s : State) (f : FM) : Nat := (fmAddr (ccGet s f.a) (ccGet s f.b) f).toNat

/-- A load: the context blocks until it lands. -/
def ccLoad (h : Hdr) (f : FM) (s : State) (signed acquire : Bool) : Out :=
  .next (if ccHolds h s then
    let va := ccAddr s f
    if va % szBytes f.sz ≠ 0 then ccTrapHere s .align (BitVec.ofNat 64 va)
    else
      let r := ccSplit s { write := false, raw := true, ordered := acquire, hostTrap := true } va (szBytes f.sz)
      match r.2.1 with
      | some st => ccStop r.2.2 false st
      | none =>
        let a := ccAgent r.2.2
        let due := readDue r.2.2 a s.focus.die 32 r.1
        let due := if acquire then acquireDue r.2.2 a due else due
        let n := nextSeq r.2.2
        let t := noteParts n.2 a false (readReach due) r.1
        let t := if acquire then noteAcquire t a due else t
        ccHold (land t (.ctl s.focus.die) due [.load (.cc (ccSet s) f.d.toNat) signed (runsOf r.1) a n.1 s.focus.pc]) due
  else s)

/-- A load, zero-extended (R110). -/
def execCcLd (h : Hdr) (f : FM) (s : State) : Out := ccLoad h f s false false

/-- A load, sign-extended (R110). -/
def execCcLds (h : Hdr) (f : FM) (s : State) : Out := ccLoad h f s true false

/-- A load with acquire at device scope (R110). -/
def execCcLda (h : Hdr) (f : FM) (s : State) : Out := ccLoad h f s false true

/-- What follows a store that the checker matches in a cycle and that is performed in another, after what its agent's order puts before it. -/
def plannedReach (release : Bool) (match_ due : Nat) (r : Reach) : Reach :=
  if release then ⟨due, due, due, due⟩ else ⟨due, due, min due (max (match_ + 24) r.die), min due (max (match_ + 1) r.core)⟩

/-- A store of parts already translated, on its way to the checker; the access takes its place in the agent's order at once. -/
def ccStoreParts (s : State) (release : Bool) (va : Nat) (ps : List Part) (bs : List Byte) : State :=
  if ps.isEmpty then s
  else
    let a := ccAgent s
    let r := boundsOf s a s.focus.die 32 (kindOf ps) release false (runsOf ps)
    let plan := plannedReach release (s.cycle + 8) (max (s.cycle + 8 + partsLat s s.focus.die ps) r.wr) r
    noteAccess (outward s 8 (.store (ccAsid s) va (dealBytes ps bs) (kindOf ps) release plan)) a (kindOf ps) release plan

/-- A store; a trap on its second part leaves the first performed (R111). -/
def ccStore (h : Hdr) (f : FM) (s : State) (release : Bool) : Out :=
  .next (if ccHolds h s then
    let va := ccAddr s f
    let size := szBytes f.sz
    if va % size ≠ 0 then ccTrapHere s .align (BitVec.ofNat 64 va)
    else
      let r := ccSplit s { write := true, raw := true, ordered := release, hostTrap := true } va size
      let bs := leBytes size (ccGet s f.d).toNat
      match r.2.1 with
      | some (.trap c e at_) => ccStop (ccStoreParts r.2.2 release va r.1 bs) true (.trap c e at_)
      | some st => ccStop r.2.2 true st
      | none => ccStoreParts r.2.2 release va r.1 bs
  else s)

/-- A store (R110). -/
def execCcSt (h : Hdr) (f : FM) (s : State) : Out := ccStore h f s false

/-- A store with release at device scope (R110). -/
def execCcStl (h : Hdr) (f : FM) (s : State) : Out := ccStore h f s true

/-! ## Atomics (R112) -/

/-- An atomic operation: it leaves when the checker matches it, and the context blocks until the old value lands. -/
def ccAmo (h : Hdr) (f : FM) (s : State) (op : AmoOp) : Out :=
  .next (if ccHolds h s then
    let va := (ccGet s f.a).toNat
    let size := szBytes f.sz
    if va % size ≠ 0 then ccTrapHere s .align (BitVec.ofNat 64 va)
    else
      let r := ccSplit s { write := true, raw := true, ordered := false, hostTrap := true } va size
      match r.2.1 with
      | some st => ccStop r.2.2 true st
      | none => ccBlock (outward r.2.2 8 (.amo op (ccAsid s) va size (ccGet s f.b) (ccGet s f.d) f.d.toNat))
  else s)

/-- Atomic add (R112). -/
def execCcAmoAdd (h : Hdr) (f : FM) (s : State) : Out := ccAmo h f s .add

/-- Atomic AND (R112). -/
def execCcAmoAnd (h : Hdr) (f : FM) (s : State) : Out := ccAmo h f s .and

/-- Atomic OR (R112). -/
def execCcAmoOr (h : Hdr) (f : FM) (s : State) : Out := ccAmo h f s .or

/-- Atomic XOR (R112). -/
def execCcAmoXor (h : Hdr) (f : FM) (s : State) : Out := ccAmo h f s .xor

/-- Atomic signed minimum (R112). -/
def execCcAmoMin (h : Hdr) (f : FM) (s : State) : Out := ccAmo h f s .min

/-- Atomic signed maximum (R112). -/
def execCcAmoMax (h : Hdr) (f : FM) (s : State) : Out := ccAmo h f s .max

/-- Atomic unsigned minimum (R112). -/
def execCcAmoMinu (h : Hdr) (f : FM) (s : State) : Out := ccAmo h f s .minu

/-- Atomic unsigned maximum (R112). -/
def execCcAmoMaxu (h : Hdr) (f : FM) (s : State) : Out := ccAmo h f s .maxu

/-- Atomic swap (R112). -/
def execCcAmoSwap (h : Hdr) (f : FM) (s : State) : Out := ccAmo h f s .swap

/-- Atomic compare and swap against c[D] (R112). -/
def execCcAmoCas (h : Hdr) (f : FM) (s : State) : Out := ccAmo h f s .cas

/-! ## Fences (R113, R322) -/

/-- A fence: the set waits until its earlier outward actions have matched and its earlier writes are visible at the scope. -/
def ccFence (h : Hdr) (s : State) (scope : Nat) : Out :=
  .next (if ccHolds h s then
    ccHold (ccOn (fenceMark s (ccAgent s) (scope = 3)) (fun x => { x with wait := .fence scope })) (s.cycle + 9)
  else s)

/-- FENCE.CORE (R113). -/
def execCcFenceCore (h : Hdr) (_ : FS) (s : State) : Out := ccFence h s 0

/-- FENCE.DIE (R113). -/
def execCcFenceDie (h : Hdr) (_ : FS) (s : State) : Out := ccFence h s 1

/-- FENCE.DEV (R113). -/
def execCcFenceDev (h : Hdr) (_ : FS) (s : State) : Out := ccFence h s 2

/-- FENCE.DOM (R113). -/
def execCcFenceDom (h : Hdr) (_ : FS) (s : State) : Out := ccFence h s 3

/-- The cycle in which a set's fence of a scope ends, from its writes in flight; none while an outward action has not matched. -/
def ccFenceEnd (s : State) (d set scope : Nat) : Option Nat :=
  if (ctlOf s d).outward.any (fun o => o.set = set) then none
  else if scope = 0 then some 0
  else
    some (visibleBy s (fun x => x == .ctx d set) scope)

end Sys2Proof.Machine
end

