-- ==== Sys2Proof/Machine/Cmd.lean ====
section
/-! DEFINITION. Commands of the engines and of the trellis: their queues, tokens, traps, completion, the log of a phase, and the
hotness counters (R150, R152, R153, R206, R257, R258, R272, R309). -/

namespace Sys2Proof.Machine

/-! ## Queues (R150, R197, R198, R206) -/

/-- The commands a queue holds. -/
def QueueId.depth : QueueId → Nat
  | .chan _ => 16
  | .routing => 4
  | .courier => 4
  | .spawn => 1
  | .xpose => 4
  | .spill => 4
  | .claim _ => 32

/-- QKIND and QIDX of a queue (R257). -/
def QueueId.kindIdx : QueueId → Nat × Nat
  | .chan n => (1, n)
  | .routing => (2, 0)
  | .courier => (3, 0)
  | .spawn => (4, 0)
  | .claim n => (5, n)
  | .xpose => (6, 0)
  | .spill => (7, 0)

/-- The commands of a queue that have not started, in order. -/
def Core.queued (c : Core) (q : QueueId) : List Cmd := c.cmds.filter (fun m => m.queue == q && m.started == none)

/-- Whether a queue is full. -/
def Core.queueFull (c : Core) (q : QueueId) : Bool := q.depth ≤ (c.queued q).length

/-- The command of a number. -/
def Core.cmdOf (c : Core) (id : Nat) : Option Cmd := c.cmds.find? (fun m => m.id == id)

/-- The state with a command changed. -/
def onCmd (s : State) (d c id : Nat) (f : Cmd → Cmd) : State :=
  onCore s d c (fun x => { x with cmds := x.cmds.map (fun m => if m.id == id then f m else m) })

/-- The cycle bound that BND encodes; none for 0xFF (R37). -/
def boundOf (b : BitVec 8) : Option Nat := if b = 0xFF then none else some ((16 + b.toNat % 16) * 2 ^ (b.toNat / 16))

/-- Whether the consumed tokens of a command were satisfied before a cycle: those producers that issued before it have left. -/
def Cmd.tokensMet (m : Cmd) (c : Core) (now : Nat) : Bool :=
  m.waits.all (fun w => w.2.all (fun p => !(c.producers w.1 now).contains p))

/-- A command with nothing in it. -/
def Cmd.blank (id : Nat) (q : QueueId) (k : CmdKind) (now : Nat) : Cmd :=
  { id := id, queue := q, kind := k, params := [], kp := 0, waits := [], bound := none, issuedAt := now, started := none,
    half := 0, rows := 0, unit := 0, landed := 0, room := 0, fresh := 0, freshSeen := 0, freshDue := 0, data := [], doneAt := none, fromCourier := false, reissue := false,
    apc := 0, xpc := 0, opid := 0, chan := 0, aux := [], seen := [] }

/-- A command placed at the tail of its queue in the cycle of its word: its parameters, its tokens, its bound (R150, R206). -/
def issueCmd (s : State) (d c : Nat) (q : QueueId) (k : CmdKind) (params : List Word) (f : FE) : State :=
  let n := nextSeq s
  let s := n.2
  onCore s d c (fun x =>
    let waits := ([f.kc1, f.kc2, f.kc3].map (fun k => k.toNat)).filterMap (fun k =>
      if k = 0 then none else some (k, x.producers k s.cycle))
    let m : Cmd := { Cmd.blank n.1 q k s.cycle with
      params := params, kp := f.kp.toNat, waits := waits, bound := boundOf f.bnd, half := x.half, chan := f.ch.toNat, apc := x.ap.pc, xpc := x.xp.pc }
    { x.addProducer f.kp.toNat n.1 s.cycle with cmds := x.cmds ++ [m] })

/-! ## Traps of commands (R54, R150, R257) -/

/-- What a courier writes when it stops on a fault: STATE 0x80, the cause, and the byte offset of the word that failed (R158, R159). -/
def courierFault (cr : Courier) (pc cause : Nat) : Word :=
  fieldAt 0x80 56 ||| fieldAt cause 48 ||| fieldAt ((pc + 2 ^ 56 - cr.prog) % 2 ^ 24) 24

/-- A trap of a started command: its class by R407, with its queue and position, and as its position the older incomplete commands of its queue (R350). A
copy of the courier stops the courier instead, at the word that issued it (R158), but for a source page that is not resident, which stops
the task into REPLAY as for every engine read (R152, entry 127). -/
def cmdTrap (s : State) (d c : Nat) (m : Cmd) (replayable : Bool) (t : TrapInfo) : State :=
  let k := m.queue.kindIdx
  let s := onCore s d c (fun x => { x with cmds := x.cmds.filter (fun y => y.id != m.id) })
  if m.fromCourier && t.error ≠ 0x2001 then
    let cr := (coreOf s d c).courier
    if !cr.running || cr.ended then s
    else onCmd (onCore s d c (fun x => { x with courier := { x.courier with ended := true, waiting := false } })) d c cr.cmd
      (fun y => { y with aux := [(courierFault cr (m.aux.headD cr.pc) t.cause.code).toNat], unit := 1 })
  else
    let x := coreOf s d c
    let older := (x.cmds.filter (fun y => y.queue == m.queue && y.id < m.id)).length
    coreTrap s d c (if replayable then 3 else 2) { t with qkind := k.1, qidx := k.2, qpos := older } x.ap.pc x.xp.pc

/-- A command's trap with an address. -/
def cmdFault (s : State) (d c : Nat) (m : Cmd) (cause : Cause) (err info : Nat) : State :=
  cmdTrap s d c m (cause == .uncorrectable || cause == .checksum || cause == .vintageSpace || err = 0x2001)
    { trapAt cause info with error := err }

/-! ## Completion (R150, R272) -/

/-- The destination of a command, its row stride and its rows; one row where it has no stride. -/
def Cmd.landing (m : Cmd) : Word × Int × Nat :=
  let p := wordOf m.params
  let hi (w : Word) : Int := signedOf 32 (bits w 63 32)
  match m.kind with
  | .copy => (p 1, hi (p 3), bits (p 2) 39 24)
  | .copyV => (p 1, hi (p 3), bits (p 2) 39 24)
  | .fill => (p 2, hi (p 4), bits (p 3) 39 24)
  | .gather => (p 5, hi (p 3), bits (p 2) 39 24)
  | .rget => (p 0, 0, 1)
  | .xpose => (p 1, 0, 1)
  | .xposeP => (p 1, 0, 1)
  | .spill => (p 2, 0, 1)
  | _ => (0, 0, 1)

/-- Whether a command writes bytes of a phase-map range: a row of its destination begins at a buffer offset that is phase-mapped. -/
def Cmd.inPhase (m : Cmd) (c : Core) : Bool :=
  let dst := m.landing
  bits dst.1 63 60 ≠ 0 && (List.range dst.2.2).any (fun r =>
    let a : Int := bits dst.1 23 0 + r * dst.2.1
    decide (0 ≤ a) && isMappedOff c (bits dst.1 63 60) a.toNat)

/-- A command that is complete: it leaves, its producer leaves its token, and the log of the phase keeps it where it wrote a
phase-map range. -/
def finishCmd (s : State) (d c : Nat) (m : Cmd) : State :=
  onCore s d c (fun x =>
    let x := { x with cmds := x.cmds.filter (fun y => y.id != m.id) }
    let x := x.dropProducer m.kp m.id s.cycle
    if m.inPhase x && !m.reissue then { x with phaseLog := x.phaseLog ++ [m] } else x)

/-- Whether an earlier started command of a command's queue is still there. -/
def Core.blockedBy (c : Core) (m : Cmd) : Bool := c.cmds.any (fun y => y.queue == m.queue && y.started != none && y.id < m.id)

/-- A command's work is done in a cycle. -/
def doneCmd (s : State) (d c id due : Nat) : State :=
  at' (onCmd s d c id (fun m => { m with doneAt := some due })) due (.engineCommandComplete d c id)

/-! ## Hotness counters (R309) -/

/-- The bytes that a command of a tag moves. -/
def addHot (s : State) (d c tag n : Nat) : State :=
  onCore s d c (fun x => { x with hotBytes := tput x.hotBytes tag (min (2 ^ 56 - 1) (tget x.hotBytes tag 0 + n)) })

/-- A cycle in which a unit of a command of a tag waits for a port. -/
def addStall (s : State) (d c tag : Nat) : State :=
  onCore s d c (fun x => { x with hotStall := tput x.hotStall tag (min (2 ^ 56 - 1) (tget x.hotStall tag 0 + 1)) })

/-! ## The end of a phase's log (R272) -/

/-- At a SWAP the log becomes that of the phase that ends; more than 64 commands overflow it. -/
def Core.swapLog (c : Core) : Core :=
  { c with cmdLog := c.phaseLog.take 64, logOver := decide (64 < c.phaseLog.length), phaseLog := [] }

end Sys2Proof.Machine
end

