-- ==== Sys2Proof/Machine/Net.lean ====
section
/-! DEFINITION. The fabric transport: flows, frames sent, acknowledgement, loss of a route and what it ends (R384 to R397). -/

namespace Sys2Proof.Machine

/-! ## Ports and flows (R384, R385, R388) -/

/-- The rate that a flow begins with (R391). -/
def SendRate.full : SendRate := { num := 800, halvings := 0, lastCut := none, raiseAt := none }

/-- A list flow that nothing has been sent on. -/
def ListSend.reset : ListSend := { psn := 0, rate := .full, unacked := [] }

/-- A flow that nothing has been sent on. -/
def Flow.reset : Flow :=
  { nextPsn := 0, unacked := [], waitq := [], nextOpid := 1, rate := .full, ece := false,
    recvPsn := 0, buffer := [], peerEpoch := none, known := false, sinceAck := 0, ackDue := none, up := true, resetSent := false, port := 0,
    timeouts := 0, resetAt := none, stall := [], opWait := [] }

/-- The flow pair with a device. -/
def flowOf (s : State) (dev : Nat) : Flow := tget s.flows dev .reset

/-- The state with a flow changed. -/
def onFlow (s : State) (dev : Nat) (f : Flow → Flow) : State := { s with flows := tput s.flows dev (f (flowOf s dev)) }

/-- The device's own domain index. -/
def ownDev (s : State) : Nat := s.devid.getD 0

/-- The fabric port of a flow: (S + D) mod 16, moved on by as much as the flow has, or the next in service (R385). -/
def portOf (s : State) (dev : Nat) : Option Nat :=
  ((List.range 16).map (fun i => (ownDev s + dev + (flowOf s dev).port + i) % 16)).find? (portUp s)

/-- How far a flow lies from its first port once it has moved to the index after the one it uses (R385). -/
def portAfter (s : State) (dev : Nat) : Nat :=
  match portOf s dev with
  | some p => (p + 1 + 16 * 8192 - (ownDev s + dev)) % 16
  | none => (flowOf s dev).port

/-- The route to a device can carry frames (R384, R394); the own device needs no port. -/
def routeUp (s : State) (dev : Nat) : Bool :=
  s.devid.isSome && (decide (dev = ownDev s) || ((flowOf s dev).up && (portOf s dev).isSome))

/-- A frame from the own device (R386). -/
def mkFrame (s : State) (dev type asid opid va aux aux2 : Nat) (payload : List Byte) : Frame :=
  { epoch := s.epoch, asid := BitVec.ofNat 8 asid, dst := BitVec.ofNat 12 dev, src := BitVec.ofNat 12 (ownDev s),
    type := BitVec.ofNat 8 type, retry := false, ece := false, version := 1, len := BitVec.ofNat 13 payload.length,
    opid := BitVec.ofNat 48 opid, aux := BitVec.ofNat 8 aux, va := BitVec.ofNat 56 va, aux2 := BitVec.ofNat 32 aux2, psn := 0,
    payload := payload, port := 0, ce := false }

/-- The event that a frame of a type is; none for an unknown type (R387). -/
def frameEvent (f : Frame) : Option Instr :=
  match f.type.toNat with
  | 1 => some (.uftPut f) | 2 => some (.uftEnd f) | 3 => some (.uftGet f) | 4 => some (.uftGetdata f) | 5 => some (.uftAmo f)
  | 6 => some (.uftPost f) | 7 => some (.uftNotify f) | 8 => some (.uftCancel f) | 9 => some (.uftMcast f)
  | 10 => some (.uftResult f) | 11 => some (.uftAck f) | 12 => some (.uftReset f) | _ => none

/-- The MAC of a device's fabric port (R384). -/
def portMac (dev p : Nat) : BitVec 48 := 0x024D5900#32 ++ BitVec.ofNat 16 (dev * 16 + p)

/-- The IPv6 address of a device's fabric port (R384). -/
def portIp (s : State) (dev p : Nat) : BitVec 128 := s.ipPrefix ++ BitVec.ofNat 64 (dev * 16 + p)

/-- The envelope of every frame that leaves by a port of the device: its addresses, UFT's UDP port and the codepoint ECT(0) (R383, R384). -/
def envelope (s : State) (p : Nat) (dstMac : BitVec 48) (dstIp : BitVec 128) : Envelope :=
  { srcMac := portMac (ownDev s) p, dstMac := dstMac, srcIp := portIp s (ownDev s) p, dstIp := dstIp, udp := 19801, ecn := 2 }

/-- The envelope of a frame to a device, whose port has the index of the flow's port here (R385). -/
def unicastTo (s : State) (dev p : Nat) : Envelope := envelope s p (portMac dev p) (portIp s dev p)

/-- The envelope of a frame to the members of a list: its group MAC, and ff15:0:0:0:0:4d59:D:L (R396). -/
def groupTo (s : State) (p list grp : Nat) : Envelope :=
  envelope s p (BitVec.ofNat 48 grp) (0xff150000000000000000#80 ++ (0x4d59#16 ++ (BitVec.ofNat 16 (ownDev s) ++ BitVec.ofNat 16 list)))

/-- A frame sent on the flow's port; a device without an index sends none, and one to itself comes back to it. -/
def sendFrame (s : State) (dev : Nat) (f : Frame) : State :=
  if s.devid = some dev then (match frameEvent f with | some i => at' s (s.cycle + 2400) i | none => s)
  else match s.devid, portOf s dev with
  | some _, some p => emit s (.frame p (unicastTo s dev p) { f with port := p })
  | _, _ => s

/-- The cycles after its first sending at which an unacknowledged frame is sent again, and its bound (R389). -/
def resendTimes : List Nat := [24000, 72000, 168000, 360000, 744000, 1512000, 2500000]

/-- The timer of a frame's next resend. -/
def armResend (s : State) (dev : Nat) (x : Sent) : State :=
  at' s (x.first + resendTimes.getD x.attempt 2500000) (.retransmitTimeout dev x.frame.psn.toNat)

/-- A sequenced frame given the next PSN of its flow and sent; with 1,024 unacknowledged it waits (R388). -/
def sendSeq (s : State) (dev : Nat) (f : Frame) : State :=
  let fl := flowOf s dev
  if 1024 ≤ (fl.unacked.filter (fun x => !x.acked)).length then onFlow s dev (fun x => { x with waitq := x.waitq ++ [f] })
  else
    let g := { f with psn := BitVec.ofNat 32 fl.nextPsn }
    let x : Sent := { frame := g, first := s.cycle, attempt := 0, hold := false, acked := false }
    let s := onFlow s dev (fun y => { y with nextPsn := (y.nextPsn + 1) % 2 ^ 32, unacked := y.unacked ++ [x] })
    armResend (sendFrame s dev g) dev x

/-- The next operation number toward a device. -/
def takeOpid (s : State) (dev : Nat) : Nat × State :=
  ((flowOf s dev).nextOpid, onFlow s dev (fun x => { x with nextOpid := x.nextOpid + 1 }))

/-- An operation toward a device noted as outstanding. -/
def addOp (s : State) (dev opid : Nat) (u : RemoteUser) (left dst : Nat) : State :=
  { s with ops := s.ops ++ [{ dev := dev, opid := opid, user := u, left := left, dst := dst }] }

/-- The operations whose answers a target keeps that are outstanding toward it, those that still wait to be sent left out (R392). -/
def opsOut (s : State) (dev : Nat) : Nat :=
  (s.ops.filter (fun o => o.dev = dev && o.dst = 0)).length - (flowOf s dev).opWait.length

/-- The request of an operation just noted: sent, or held while 256 are outstanding (R392). -/
def sendReq (s : State) (dev : Nat) (f : Frame) : State :=
  if 256 < opsOut s dev then onFlow s dev (fun x => { x with opWait := x.opWait ++ [f] }) else sendSeq s dev f

/-- The request that has waited longest sent, where there is room (R392). -/
def sendHeld (s : State) (dev : Nat) : State :=
  match (flowOf s dev).opWait with
  | [] => s
  | f :: rest => if opsOut s dev < 256 then sendSeq (onFlow s dev (fun x => { x with opWait := rest })) dev f else s

/-- An operation no longer outstanding: its frames that are acknowledged are kept no longer, and a request that waited for its place goes. -/
def dropOp (s : State) (dev opid : Nat) : State :=
  sendHeld (onFlow { s with ops := s.ops.filter (fun o => !(o.dev == dev && o.opid == opid)) } dev (fun x =>
    { x with unacked := x.unacked.filter (fun y => !(y.acked && y.frame.opid.toNat == opid)) })) dev

/-! ## Answers (R390, R392) -/

/-- A RESULT frame to a device, echoing its epoch. -/
def sendResult (s : State) (dev opid status : Nat) (value : Word) : State :=
  let echo := match (flowOf s dev).peerEpoch with | some e => e.toNat | none => 0
  sendFrame s dev (mkFrame s dev 10 0 opid 0 status echo (wordBytes value))

/-- The answers of a requester that are kept: those younger than 100 ms, and the last 256 (R392). -/
def keptAnswers (now : Nat) (as_ : List Answer) : List Answer :=
  let n := as_.length - 256
  (as_.take n).filter (fun a => now < a.at_ + 250000000) ++ as_.drop n

/-- The answer of an operation kept in the answer table and sent. -/
def answerOp (s : State) (dev opid status : Nat) (value : Word) : State :=
  let a : Answer := { opid := opid, at_ := s.cycle, status := status, value := value }
  let s := { s with answers := tput s.answers dev (keptAnswers s.cycle (tget s.answers dev [] ++ [a])) }
  sendResult (at' s (s.cycle + 250000000) (.answerTableExpiry dev opid)) dev opid status value

/-- The bitmap of an ACK: the buffered frames among the 64 above the cumulative PSN (R388). -/
def ackBitmap (buffer : List Frame) (psn : Nat) : Nat :=
  buffer.foldl (fun acc f =>
    let i := (f.psn.toNat + 2 ^ 32 - psn) % 2 ^ 32
    if 1 ≤ i ∧ i ≤ 64 then acc ||| 2 ^ (i - 1) else acc) 0

/-- An ACK to a device of the frames of an epoch: the cumulative PSN, the bitmap, and whether a mark was received; none of a list flow with
its number, HOLD where it acknowledges nothing (R388 to R390, R397). -/
def ackFrame (s : State) (dev : Nat) (epoch : Nat) (list : Option Nat) (hold : Bool) (psn bitmap : Nat) (ece : Bool) : Frame :=
  { mkFrame s dev 11 0 0 (list.getD 0) ((if hold then 2 else 0) + (if list.isSome then 1 else 0)) epoch (leBytes 8 bitmap) with
    psn := BitVec.ofNat 32 psn, ece := ece }

/-- The ACK that is owed to a device sent (R388). -/
def sendAck (s : State) (dev : Nat) : State :=
  let fl := flowOf s dev
  let echo := match fl.peerEpoch with | some e => e.toNat | none => 0
  sendFrame (onFlow s dev (fun x => { x with sinceAck := 0, ackDue := none, ece := false })) dev
    (ackFrame s dev echo none false fl.recvPsn (ackBitmap fl.buffer fl.recvPsn) fl.ece)

/-- A frame held off: an ACK with HOLD, which acknowledges nothing and leaves the ACK that is owed (R389, R420). -/
def sendHold (s : State) (f : Frame) (list : Option Nat) : State :=
  let dev := f.src.toNat
  let fl := flowOf s dev
  sendFrame (onFlow s dev (fun x => { x with ece := false })) dev
    (ackFrame s dev f.epoch.toNat list true fl.recvPsn 0 (fl.ece || f.ce))

/-- A RESET to a device; the bit and the list for a list flow (R395, R397). -/
def sendReset (s : State) (dev : Nat) (list : Option Nat) : State :=
  sendFrame s dev (mkFrame s dev 12 0 0 (list.getD 0) (if list.isSome then 1 else 0) 0 [])

/-! ## Mailing-list answers (R397, R380) -/

/-- The answer of a member of a multicast noted; when every member's is known, the receipt is written. -/
def mcastAnswer (s : State) (op dev status : Nat) : State :=
  match s.mcasts.find? (fun m => m.id == op) with
  | none => s
  | some m =>
    if m.answers.any (fun a => a.1 == dev) then s
    else
      let m := { m with answers := m.answers ++ [(dev, status)] }
      let s := { s with mcasts := s.mcasts.map (fun x => if x.id == op then m else x) }
      if m.members.all (fun d => m.answers.any (fun a => a.1 == d)) then at' s (s.cycle + 8) (.mcastReceiptWrite op) else s

/-! ## Losing the route (R394) -/

/-- What the loss of its route does to an operation. -/
def endOp (s : State) (o : RemoteOp) : State :=
  match o.user with
  | .cmd d c id => (match (coreOf s d c).cmdOf id with
    | some m => cmdFault s d c m .linkDown 0 o.opid
    | none => s)
  | .rpost d set dst => ccDeliver s d set s.cycle [.cc set dst (fieldAt 0x52 56)]
  | .cancel d set dst => ccDeliver s d set s.cycle [.cc set dst 0x52]
  | .notify d _ => logError s d 0x6001 0 (noUnit (physDie s d)) (BitVec.ofNat 64 o.opid) 0

/-- A route goes down: its frames are dropped, its operations end, and RESET is sent from now on, by one timer (R394, R395). -/
def routeDown (s : State) (dev : Nat) : State :=
  if !(flowOf s dev).up then s
  else
    let ops := s.ops.filter (fun o => o.dev == dev)
    let s := { s with ops := s.ops.filter (fun o => o.dev != dev) }
    let s := onFlow s dev (fun x => { x with
      up := false, unacked := [], waitq := [], opWait := [], resetSent := false, resetAt := some (s.cycle + 2500000) })
    let s := ops.foldl endOp s
    let s := (s.mcasts.filter (fun m => m.members.contains dev)).foldl (fun s m => mcastAnswer s m.id dev 0x52) s
    let s := { s with listSend := s.listSend.map (fun l => (l.1, { l.2 with unacked := tdel l.2.unacked dev })) }
    at' s (s.cycle + 2500000) (.resetResend dev)

/-- A flow's state on both sides discarded, the answer table kept (R395). -/
def clearFlow (s : State) (dev : Nat) : State :=
  onFlow s dev (fun x => { Flow.reset with
    nextOpid := x.nextOpid, up := x.up, resetSent := x.resetSent, port := x.port, peerEpoch := x.peerEpoch, resetAt := x.resetAt, opWait := x.opWait })

/-- With no fabric port in service the route to every other device goes down (R394); a device without a domain index has no routes. -/
def downUnreachable (s : State) : State :=
  if s.devid.isNone || (List.range 16).any (portUp s) then s
  else ((List.range 4096).filter (fun d => some d ≠ s.devid)).foldl routeDown s

end Sys2Proof.Machine
end

