-- ==== Sys2Proof/Machine/Boxes.lean ====
section
/-! DEFINITION. Regions, the overlap test, handles, and the checks of a task record (R116, R231 to R238, R245, R353). -/

namespace Sys2Proof.Machine

/-! ## Regions (R234, R235) -/

/-- Whether strides do not rise inward. -/
def falling : List Nat → Bool
  | a :: b :: r => b ≤ a && falling (b :: r)
  | _ => true

/-- Whether counts and strides meet R235. -/
def dimsOk (w : List Word) (n : Nat) : Bool :=
  (List.range n).all (fun d => countOf w d ≠ 0 && strideOf w d ≠ 0) &&
  (List.range 4).all (fun d => d < n || (countOf w d = 0 && strideOf w d = 0)) &&
  falling ((List.range n).map (strideOf w))

/-- Whether a region descriptor is valid (R235). -/
def regionOk (w : List Word) : Bool :=
  let b := boxOf w
  if b.kind = 0 then w.all (fun x => x == 0)
  else bits (wordOf w 0) 61 58 ≤ 8 && dimsOk w b.dims.length && b.va + b.len ≤ 2 ^ 56

/-! ## Overlap (R236 to R238) -/

/-- Whether the strides of two boxes are nested: each is at least the larger extent of the next dimension. -/
def nested (e : Nat) : List (Nat × Nat) → List (Nat × Nat) → Bool
  | [], [] => true
  | [p], [_] => e ≤ p.2
  | p :: p' :: ps, _ :: q' :: qs => max p'.1 q'.1 * p'.2 ≤ p.2 && nested e (p' :: ps) (q' :: qs)
  | _, _ => false

/-- Whether the lattice test applies to two boxes (R237). -/
def sameLattice (p q : Box) : Bool :=
  p.elem = q.elem && p.dims.map (fun d => d.2) == q.dims.map (fun d => d.2) && nested p.elem p.dims q.dims

/-- Whether a difference of addresses is reached by digits of both boxes (R237). -/
def fits (e : Int) : List (Nat × Nat) → List (Nat × Nat) → Int → Bool
  | p :: ps, q :: qs, x =>
    let k0 : Int := x / (p.2 : Int)
    [k0, k0 + 1].any (fun k => k ≤ (p.1 : Int) - 1 && -((q.1 : Int) - 1) ≤ k && fits e ps qs (x - k * (p.2 : Int)))
  | _, _, x => -e < x && x < e

/-- Whether two boxes overlap (R237, R238). -/
def boxesOverlap (p q : Box) : Bool :=
  if sameLattice p q then fits p.elem p.dims q.dims ((q.va : Int) - (p.va : Int)) else overlaps p.va p.len q.va q.len

/-- Whether a box lies inside a writer's by the floor decomposition of the difference of their addresses (R245). -/
def digitsInside : List (Nat × Nat) → List (Nat × Nat) → Int → Bool
  | w :: ws, r :: rs, x =>
    let k : Int := x / (w.2 : Int)
    0 ≤ k && k + (r.1 : Int) ≤ (w.1 : Int) && digitsInside ws rs (x - k * (w.2 : Int))
  | _, _, x => x = 0

/-- Whether an R box lies wholly inside a W box (R245). -/
def whollyInside (w r : Box) : Bool :=
  (sameLattice w r && digitsInside w.dims r.dims ((r.va : Int) - (w.va : Int))) ||
  (dense w.elem w.dims && w.va ≤ r.va && r.va + r.len ≤ w.va + w.len)

/-! ## Pages under a region (R236) -/

/-- The leaves of the mapped pages of a range. -/
def mappedLeaves (s : State) (asid : Nat) : Nat → Nat → Nat → List Leaf
  | 0, _, _ => []
  | fuel + 1, va, stop =>
    if stop ≤ va then []
    else match mappedLeaf s asid va with
      | some l => l :: mappedLeaves s asid fuel (l.va + l.size) stop
      | none => mappedLeaves s asid fuel ((va / 4096 + 1) * 4096) stop

/-- The mapped pages under a box. -/
def boxLeaves (s : State) (asid : Nat) (b : Box) : List Leaf := mappedLeaves s asid (b.len / 4096 + 2) b.va (b.va + b.len)

/-- Whether a region counts as vintaged. -/
def boxVintaged (s : State) (asid : Nat) (b : Box) : Bool := (boxLeaves s asid b).any (fun l => l.vintaged)

/-- Whether a region covers pages of both kinds. -/
def boxMixed (s : State) (asid : Nat) (b : Box) : Bool :=
  let ls := boxLeaves s asid b
  ls.any (fun l => l.vintaged) && ls.any (fun l => !l.vintaged)

/-! ## Fields of a record (R231, R232) -/

/-- ASID of a record. -/
def recAsid (r : List Word) : Nat := bits (wordOf r 2) 19 12

/-- VINT of a record. -/
def recVint (r : List Word) : Nat := bits (wordOf r 2) 11 0

/-- PRED of a record. -/
def recPred (r : List Word) : Nat := bits (wordOf r 2) 35 20

/-- SHARDS of a record. -/
def recShards (r : List Word) : Nat := bits (wordOf r 2) 51 36

/-- PRIORITY of a record. -/
def recPri (r : List Word) : Nat := bits (wordOf r 0) 6 4

/-- Whether a record is a fold task's. -/
def recFold (r : List Word) : Bool := bits (wordOf r 0) 3 0 = 1

/-- SPREAD of a record. -/
def recSpread (r : List Word) : Bool := bit (wordOf r 0) 10

/-- A record with its priority lowered to a ceiling (R115). -/
def lowerPri (r : List Word) (ceiling : Nat) : List Word :=
  match r with
  | w :: rest => ((w &&& ~~~(fieldAt 7 4)) ||| fieldAt (min (bits w 6 4) ceiling) 4) :: rest
  | [] => []

/-! ## Reading through the page tables (R48, R116, R265, R296) -/

/-- The first page of some runs that is not resident. -/
def absentIn (s : State) (asid : Nat) (runs : List (Nat × Nat)) : Option Leaf :=
  runs.findSome? (fun r => match peekStop s asid (r.2 / 4096 + 2) r.1 r.2 with | some (.absent l) => some l | _ => none)

/-- The address in some runs at which an access that carries no element type meets a page of codes 10 to 13 (R82, entry 165). -/
def codedIn (s : State) (asid : Nat) (runs : List (Nat × Nat)) : Option Nat :=
  runs.findSome? (fun r => match peekStop s asid (r.2 / 4096 + 2) r.1 r.2 with | some (.trap .format _ va) => some va | _ => none)

/-- The physical runs of n bytes of an address space, up to the first address that has none; fuel bounds the pages. -/
def physicalRuns (s : State) (asid : Nat) : Nat → Nat → Nat → List (Nat × Nat)
  | 0, _, _ => []
  | fuel + 1, va, n =>
    if n = 0 then []
    else match walk s asid va with
      | .error _ => []
      | .ok l =>
        let here := min n (l.va + l.size - va)
        (l.frame + (va - l.va), here) :: physicalRuns s asid fuel (va + here) (n - here)

/-- The errors that a read of some runs of an address space meets. -/
def runsFound (asid : Nat) (runs : List (Nat × Nat)) (s : State) : ReadError × State :=
  runsErrors (runs.flatMap (fun r => physicalRuns s asid (r.2 / 4096 + 2) r.1 r.2)) s

/-- The errors that a fetch of n bytes of text meets (R408). -/
def textErrors (s : State) (asid va n : Nat) : ReadError × State :=
  if s.poison.isEmpty && s.injPool.isEmpty && s.injHub.isEmpty then (.clean, s) else runsFound asid [(va, n)] s

/-! ## Handles (R353, R354) -/

/-- The address of the entry that a handle names. -/
def slotVa (handle : Nat) : Nat := 0x00FE000000000000 + 64 * (handle % 2 ^ 20)

/-- The bytes of the entry that a handle names; slot 0 is never read. -/
def slotRun (handle : Nat) : List (Nat × Nat) := if handle % 2 ^ 20 = 0 then [] else [(slotVa handle, 64)]

/-- Whether an entry is not the one that a handle means: it is not VALID, or of another generation. -/
def entryStale (handle : Nat) (w : List Word) : Bool := !bit (wordOf w 1) 32 || bits (wordOf w 1) 51 40 != handle / 2 ^ 20 % 4096

/-- What the handle of a record names, or the trap of R354; an entry that does not translate is stale (entry 41). -/
def resolveHandle (s : State) (asid handle : Nat) : Except Cause (List Word) :=
  if handle % 2 ^ 20 = 0 then .error .staleHandle
  else match peekWords s asid (slotVa handle) 8 with
    | none => .error .staleHandle
    | some w => if entryStale handle w then .error .staleHandle else .ok w

/-- The region words that an entry's counts and strides make, of elements of some bytes (R235, R353). -/
def handleRegion (w : List Word) (elog2 : Nat) : List Word :=
  [fieldAt (bits (wordOf w 1) 1 0) 62 ||| fieldAt elog2 58 ||| fieldAt 1 56 ||| fieldAt (bits (wordOf w 0) 55 0) 0, wordOf w 2, wordOf w 3, wordOf w 4]

/-- log2 of the bytes of an element of a format code. -/
def codeLog2 (fmt : Nat) : Nat := match fmt with | 2 => 1 | 3 => 2 | 4 => 3 | 7 => 1 | 8 => 1 | 9 => 2 | _ => 0

/-- Whether an entry that a command uses breaks its layout (R354). -/
def entryMalformed (w : List Word) : Bool :=
  bits (wordOf w 0) 63 56 ≠ 0 || bits (wordOf w 1) 63 52 ≠ 0 || bits (wordOf w 1) 39 33 ≠ 0 || bits (wordOf w 1) 31 8 ≠ 0
    || bits (wordOf w 1) 3 2 ≠ 0 || wordOf w 5 != 0 || wordOf w 6 != 0 || wordOf w 7 != 0
    || !regionOk (handleRegion w (codeLog2 (bits (wordOf w 1) 7 4)))

/-! ## Checks of a record (R116, R233) -/

/-- Whether ENTRY names a task descriptor of an image. -/
def entryOk (s : State) (asid image entry : Nat) : Bool :=
  match peekWords s asid image 8 with
  | none => false
  | some h =>
    let off := bits (wordOf h 2) 31 0
    let n := bits (wordOf h 2) 63 32
    off ≤ entry && (entry - off) % 128 = 0 && (entry - off) / 128 < n

/-- Whether a notify word is legal. -/
def notifyOk (w : Word) : Bool := bit w 63 || w == 0

/-- The 4 KiB blocks that a box's hull touches. -/
def boxBlocks (b : Box) : List Nat := (List.range ((b.va + b.len - 1) / 4096 + 1 - b.va / 4096)).map (fun i => (b.va / 4096 + i) * 4096)

/-- The offset of the first valid RW region whose shadow, with those before it, exceeds a die's rename area. -/
def shadowExcess (r : List Word) (area : Nat) : List Nat → Nat → Option Nat
  | [], _ => none
  | i :: rest, used =>
    let b := recBox r i
    let mine := b.kind = 3 && regionOk (regionWords r i)
    let used := if mine then used + (boxBlocks b).length else used
    if mine && area < used then some (64 + 32 * i) else shadowExcess r area rest used

/-- Two valid regions of a record that overlap, one of them written: the offset of the later. -/
def innerOverlap (r : List Word) : List Nat :=
  (List.range 6).filterMap (fun j =>
    let b := recBox r j
    if regionOk (regionWords r j) && (List.range j).any (fun i => let a := recBox r i
        regionOk (regionWords r i) &&
        a.kind ≠ 0 && b.kind ≠ 0 && (a.kind ≥ 2 || b.kind ≥ 2) && boxesOverlap a b) then some (64 + 32 * j) else none)

/-- The offset of the lowest word that breaks R233, if one does; entryBad says that ENTRY names no descriptor. -/
def fieldFault (s : State) (d : Nat) (r : List Word) (gang entryBad : Bool) : Option Nat :=
  let w0 := wordOf r 0
  let w2 := wordOf r 2
  let kinds := (List.range 6).map (fun i => (recBox r i).kind)
  let bad : List Nat :=
    (if bits w0 63 12 ≠ 0 || bit w0 7 || bits w0 3 0 ≠ 0 || bit w0 9 ≠ gang || bit w0 11 ≠ kinds.contains 3 then [0] else []) ++
    (if entryBad then [8] else []) ++
    (if bits w2 63 52 ≠ 0 || recShards r = 0 || recSpread r ≠ decide (1 < recShards r) then [16] else []) ++
    (if notifyOk (wordOf r 3) then [] else [24]) ++ (if notifyOk (wordOf r 4) then [] else [32]) ++
    (List.range 6).filterMap (fun i => if regionOk (regionWords r i) then none else some (64 + 32 * i)) ++
    innerOverlap r ++ (shadowExcess r ((dieOf s d).renameMib * 256) (List.range 6) 0).toList
  match bad with
  | [] => none
  | o :: rest => some (rest.foldl min o)

/-- Whether a page can be written, or read, by a context: mapped, on the device or to be made resident there. -/
def pageOk (s : State) (asid va : Nat) (write : Bool) : Bool :=
  match walk s asid va with
  | .ok l => l.home = 0 && (l.wr || !write)
  | .error _ => false

/-- The trap of a record after its pages' checks (R116): its cause and EINFO. Handle and vintage are checked where the record is
posted to; gang is whether POST.G posts it. -/
def recordFault (s : State) (d : Nat) (r : List Word) (gang : Bool) (offset : Nat) (full : Bool) : Option (Cause × Word) :=
  let asid := recAsid r
  let image := resolveHandle s asid (bits (wordOf r 1) 31 0)
  let entryBad := full && (match image with
    | .ok w => !entryOk s asid (bits (wordOf w 0) 55 0) (bits (wordOf r 1) 63 32)
    | .error _ => false)
  match fieldFault s d r gang entryBad with
  | some o => some (.reservedField, BitVec.ofNat 64 (2 ^ 63 + offset + o))
  | none =>
    let stale := full && (match image with | .ok _ => false | .error _ => true)
    if stale then some (.staleHandle, BitVec.ofNat 64 (bits (wordOf r 1) 31 0))
    else match (List.range 6).find? (fun i => let b := recBox r i; b.kind ≠ 0 && boxMixed s asid b) with
      | some i => some (.regionMixed, BitVec.ofNat 64 i)
      | none =>
        if full && recVint r ≠ 0 && tget (spaceOf s asid).vints (recVint r) .free != .live then
          some (.vintageState, BitVec.ofNat 64 (recVint r))
        else none

/-- What the checks of a record meet when they read its handle's entry and its image's header. -/
inductive Needs where
  | ready
  | coded (va : Nat)
  | absent (l : Leaf)
  | rebuilt
  | bad
  deriving DecidableEq, Repr

/-- The bytes that the checks of a record read besides the record: its handle's entry and its image's header. -/
def recordRuns (s : State) (r : List Word) : List (Nat × Nat) :=
  let h := bits (wordOf r 1) 31 0
  slotRun h ++ (match resolveHandle s (recAsid r) h with | .ok w => [(bits (wordOf w 0) 55 0, 64)] | .error _ => [])

/-- The page that the checks of a record read and that is not resident. -/
def recordAbsent (s : State) (r : List Word) : Option Leaf := absentIn s (recAsid r) (recordRuns s r)

/-- Whether the checks of a record can read what they need: a page that is not resident is waited for, and an uncorrectable error is
consumed (R296, R408, entry 42), a page of codes 10 to 13 is no raw page (R82); what a bank rebuilds is read again (R285). -/
def recordNeeds (s : State) (r : List Word) : Needs × State :=
  match recordAbsent s r, codedIn s (recAsid r) (recordRuns s r) with
  | some l, _ => (.absent l, s)
  | none, some va => (.coded va, s)
  | none, none =>
    let b := runsFound (recAsid r) (recordRuns s r) s
    (match b.1 with | .uncorrectable => .bad | .rebuilt => .rebuilt | _ => .ready, b.2)

end Sys2Proof.Machine
end

