-- ==== Sys2Proof/Machine/Window.lean ====
section
/-! DEFINITION. The window of a die: acceptance, edges, readiness, final states, completion records, notifications, cancels (R239 to
R262, R270, R275, R306). -/

namespace Sys2Proof.Machine

/-! ## Entries -/

/-- The state with the entry of a serial changed. -/
def onEntry (s : State) (d serial : Nat) (f : Entry → Entry) : State :=
  onDie s d (fun x => { x with entries := x.entries.map (fun e => if e.serial == serial then f e else e) })

/-- A die's window size. -/
def Die.room (x : Die) : Nat := 2 ^ x.wlog2 - x.entries.length

/-- A serial's generation (R270). -/
def generation (serial : Nat) : Nat := serial / 2 ^ 44

/-- The serial of a child (R270). -/
def childSerial (p i : Nat) : Nat := (p / 2 ^ 44 % 8 + 1) * 2 ^ 44 + p % 2 ^ 38 * 64 + i

/-- A record as an entry that has just been accepted. -/
def newEntry (recd : List Word) (serial slot launch pred checkAt : Nat) (gang : Option (Nat × Nat)) (live : List Nat) : Entry :=
  { recd := recd, serial := serial, state := .posted, pred := pred, edges := [], slot := slot, launch := launch, readyAt := 0,
    replays := 0, recount := false, gang := gang, gangReady := none,
    shards := List.replicate (max 1 (recShards recd))
      { state := .waiting, die := 0, core := 0, placedAt := 0, startAt := none, preloaded := false, committed := false,
        notBefore := 0, first := false, hotBytes := [], hotStall := [] },
    shadows := [], redirects := [], checkAt := checkAt, checked := false, commitWait := [], haltWait := [], trap := none,
    cause := .none, apc := 0, xpc := 0, mark := 0, status := 0, hot := 0, pending := none, children := [], everRan := false,
    copied := false, liveAt := live, hotBytes := [], hotStall := [], homeDue := 0, endedAt := 0 }

/-- A record takes a window entry: its check completes 8 + ⌈n/16⌉ cycles on; one cycle after that of the record before it, where that
completes later (R256). -/
def acceptEntry (s : State) (d : Nat) (recd : List Word) (serial slot launch pred : Nat) (gang : Option (Nat × Nat)) (n : Nat) : State :=
  let x := dieOf s d
  let last := x.entries.foldl (fun m e => if e.checked then m else max m e.checkAt) 0
  let own := s.cycle + 8 + ceilDiv n 16
  let due := if own < last then last + 1 else own
  let e := newEntry recd serial slot launch pred due gang (x.entries.map (fun e => e.serial))
  at' (onDie s d (fun x => { x with entries := x.entries ++ [e] })) due (.overlapCheckComplete d serial)

/-- The posted records of a request take entries in one step, with consecutive serials (R115). -/
def acceptPost (s : State) (d : Nat) (q : PostReq) : Nat × State :=
  let first := (dieOf s d).nextSerial
  let n := q.recs.length
  let live := (dieOf s d).entries.length + n
  let gang := if 1 < n then some (first, n) else none
  let s := onDie s d (fun x => { x with nextSerial := first + n })
  (first, ((List.range n).zip (q.recs.zip q.slots)).foldl (fun s p =>
    acceptEntry s d p.2.1 (first + p.1) p.2.2 q.launch (recPred p.2.1) gang live) s)

/-! ## Readiness (R241, R248, R268) -/

/-- Whether an edge keeps its record from being dispatched. -/
def EdgeKind.holds : EdgeKind → Bool
  | .copyBack => false
  | .renamed => false
  | _ => true

/-- Whether a record's COMMIT must wait: an edge of renaming or of copy-back is still there (R240). -/
def Entry.commitHeld (e : Entry) : Bool := e.edges.any (fun x => !x.kind.holds)

/-- The live records of a vintage (R306): those of every window and letterbox that name it, the children of retired parents, and the
captured children whose parent has not ended otherwise. -/
def liveRecords (s : State) (asid vint : Nat) : Nat :=
  let names (r : List Word) : Bool := recAsid r = asid && recVint r = vint
  s.dies.foldl (fun n x => n + (x.2.entries.filter (fun e => names e.recd && e.pending == none)).length
    + (x.2.letterbox.filter (fun l => names l.recd)).length + (x.2.childQueue.filter (fun c => names c.2.1.recd)).length
    + x.2.entries.foldl (fun m e => if e.pending == none || e.pending == some .retired then m + (e.children.filter (fun c => names c.recd)).length else m) 0) 0

/-- The first member of an entry's gang, or its own serial. -/
def Entry.lead (e : Entry) : Nat := match e.gang with | some g => g.1 | none => e.serial

/-- The members of a gang that are in the window. -/
def gangOf (s : State) (d : Nat) (e : Entry) : List Entry :=
  match e.gang with
  | some g => (dieOf s d).entries.filter (fun x => x.gang == some g)
  | none => [e]

/-- Whether a member of a gang is placed no more: it has ended, or is COMMITTED and runs to its end (entry 131). -/
def Entry.gone (e : Entry) : Bool := e.pending.isSome || e.state == .committed || e.state == .halted

/-- A record that waits for nothing more becomes READY; a gang's fairness starts when every member is READY (R268). -/
def makeReady (s : State) (d serial : Nat) : State :=
  match entryOf s d serial with
  | none => s
  | some e =>
    let s := onEntry s d serial (fun e => { e with state := .ready, readyAt := s.cycle })
    if recFold e.recd then at' s s.cycle (.foldTaskStart d serial)
    else
      let g := gangOf s d e
      if e.gang.isSome && g.all (fun x => x.serial == serial || x.state == .ready || x.gone) then
        at' (g.foldl (fun s x => onEntry s d x.serial (fun y => { y with gangReady := some s.cycle })) s) (s.cycle + 1048576)
          (.gangFairnessTimeout d e.lead)
      else s

/-- A checked record that is not held becomes READY, another WAITING. -/
def settleEntry (s : State) (d serial : Nat) : State :=
  match entryOf s d serial with
  | none => s
  | some e =>
    if !e.checked || e.pending.isSome || !(e.state == .posted || e.state == .waiting) then s
    else if e.pred = 0 && !e.edges.any (fun x => x.kind.holds)
        && (!recFold e.recd || liveRecords s (recAsid e.recd) (recVint e.recd) ≤ 1) then makeReady s d serial
    else onEntry s d serial (fun e => { e with state := .waiting })

/-- A record whose last edge of renaming or copy-back has gone: the COMMITs that waited are recorded. -/
def settleCommit (s : State) (d serial : Nat) : State :=
  match entryOf s d serial with
  | none => s
  | some e =>
    if e.commitHeld then s
    else (e.commitWait ++ e.haltWait).foldl (fun s sh => at' s s.cycle (.windowRecordsCommitted d serial sh)) s

/-- The edges of some kinds from a record released. -/
def releaseEdges (s : State) (d src : Nat) (ks : List EdgeKind) : State :=
  let touched := (dieOf s d).entries.filter (fun e => e.edges.any (fun x => x.src = src && ks.contains x.kind))
  let s := onDie s d (fun x => { x with entries := x.entries.map (fun e =>
    { e with edges := e.edges.filter (fun x => !(x.src = src && ks.contains x.kind)) }) })
  touched.foldl (fun s e => settleCommit (settleEntry s d e.serial) d e.serial) s

/-- The fold tasks look again at the live records of their vintages. -/
def settleFolds (s : State) : State :=
  (s.dies.flatMap (fun x => (x.2.entries.filter (fun e => recFold e.recd)).map (fun e => (x.1, e.serial)))).foldl
    (fun s p => settleEntry s p.1 p.2) s

/-- A vintage that retires and that no live record names any more is freed (R306). -/
def settleVintage (s : State) (asid vint : Nat) : State :=
  if vint ≠ 0 && tget (spaceOf s asid).vints vint .free == .retiring && liveRecords s asid vint = 0
      && !s.agenda.contains (.ev (.vintageFree asid vint)) && !s.shoots.any (fun x => x.done == .free asid vint) then
    later s (.ev (.vintageFree asid vint))
  else s

/-- The live records have become fewer: folds and retiring vintages look again (R306, R307). -/
def settleCounts (s : State) : State :=
  (s.spaces.flatMap (fun a => (a.2.vints.filter (fun v => v.2 == .retiring)).map (fun v => (a.1, v.1)))).foldl
    (fun s p => settleVintage s p.1 p.2) (settleFolds s)

/-! ## Shadows (R242, R246) -/

/-- What is left of a write when no byte in some runs of memory is written. -/
def WriteAct.outside (act : WriteAct) (runs : List (Nat × Nat)) : WriteAct :=
  match act with
  | .bytes ps => .bytes (ps.filter (fun p => !runsMeet [(p.1, p.2.length)] runs))
  | a => if runsMeet a.runs runs then .bytes [] else a

/-- The writes on their way to a shadow whose bytes are discarded are not performed (R243, R263). -/
def dropShadowWrites (s : State) (d : Nat) (sh : TaskShadow) : State :=
  let runs := sh.blocks.map (fun b => (poolBase d + b.2, 4096))
  { s with writes := s.writes.map (fun w => { w with act := w.act.outside runs }) }

/-- The rename area's units of a shadow given back. -/
def freeShadow (s : State) (d : Nat) (sh : TaskShadow) : State :=
  match sh.blocks with
  | [] => s
  | b :: _ => onDie (dropShadowWrites s d sh) d (fun x => { x with renameUsed := x.renameUsed.filter (fun u => u.1 != b.2) })

/-- A shadow granted for a region: a run of units at the lowest free address (R242). -/
def grantShadow (s : State) (d : Nat) (b : Box) (region : Nat) (renamed : Bool) : Option (TaskShadow × State) :=
  let bs := boxBlocks b
  match findUnits (dieOf s d) bs.length with
  | none => none
  | some o =>
    some ({ region := region, blocks := (List.range bs.length).zipWith (fun i va => (va, o + 4096 * i)) bs, filled := false, renamed := renamed },
      onDie s d (fun x => { x with renameUsed := x.renameUsed ++ [(o, bs.length)] }))

/-- Whether one of some records that has not ended is redirected to a shadow of a record. -/
def shadowUsed (rs : List Entry) (e : Entry) (sh : TaskShadow) : Bool :=
  sh.renamed && rs.any (fun x => x.pending == none && x.redirects.any (fun r => r.2 = 8 * e.serial + sh.region))

/-- The shadows of a record that no other record uses given back. -/
def freeUnused (s : State) (d : Nat) (rs : List Entry) (e : Entry) : State :=
  (e.shadows.filter (fun sh => !shadowUsed rs e sh)).foldl (fun s sh => freeShadow s d sh) s

/-- The shadows that a record's end lets go: all of them, but a renamed one that a redirected reader still needs (R246). -/
def freeShadows (s : State) (d : Nat) (e : Entry) : State :=
  let rs := (dieOf s d).entries
  onEntry (freeUnused s d rs e) d e.serial (fun x => { x with shadows := x.shadows.filter (shadowUsed rs x) })

/-! ## Notifications (R248, R249) -/

/-- A notification that reaches a window: PRED falls by one, or it is stale. -/
def notifyWindow (s : State) (d serial : Nat) : State :=
  let x := dieOf s d
  match x.letterbox.find? (fun l => l.serial == serial) with
  | some l =>
    if l.pred = 0 then logError s d 0x3002 0 (noUnit (physDie s d)) (BitVec.ofNat 64 serial) 0
    else onDie s d (fun x => { x with letterbox := x.letterbox.map (fun l => if l.serial == serial then { l with pred := l.pred - 1 } else l) })
  | none => match entryOf s d serial with
    | none => logError s d 0x3002 0 (noUnit (physDie s d)) (BitVec.ofNat 64 serial) 0
    | some e =>
      if e.pred = 0 || e.pending.isSome || !(e.state == .posted || e.state == .waiting) then
        logError s d 0x3002 0 (noUnit (physDie s d)) (BitVec.ofNat 64 serial) 0
      else settleEntry (onEntry s d serial (fun e => { e with pred := e.pred - 1 })) d serial

/-- A message to a notify target: to a window of the own device at once, to another device as a NOTIFY or CANCEL frame; local
cancels are returned to be carried out. -/
def sendNotify (s : State) (d : Nat) (asid : Nat) (w : Word) (cancel : Bool) : State × Option (Nat × Nat) :=
  let dev := bits w 62 51
  let die := bits w 50 48
  let serial := bits w 47 0
  if !bit w 63 then (s, none)
  else if some dev = s.devid || (s.devid.isNone && dev = 0) then
    (if cancel then (s, some (die, serial)) else (notifyWindow s die serial, none))
  else if !routeUp s dev then (logError s d 0x6001 0 (noUnit (physDie s d)) (BitVec.ofNat 64 serial) 0, none)
  else
    let o := takeOpid s dev
    let s := addOp o.2 dev o.1 (.notify d serial) 1 0
    (sendReq s dev (mkFrame s dev (if cancel then 8 else 7) asid o.1 (serial / 2 ^ 32) die (serial % 2 ^ 32) []), none)

/-! ## Completion records (R257 to R259, R310) -/

/-- The words of the completion record of a final state. -/
def completionWords (e : Entry) (st : TaskState) : List Word :=
  let code := match st with | .retired => 7 | .faulted => 8 | _ => 9
  let t := e.trap.getD (trapOf e.cause)
  [fieldAt e.cause.code 56 ||| fieldAt code 48 ||| fieldAt e.serial 0,
   fieldAt e.xpc 32 ||| fieldAt e.apc 0,
   fieldAt e.mark 24 ||| fieldAt t.cond 16 ||| fieldAt t.qpos 8 ||| fieldAt (t.qidx % 16) 4 ||| fieldAt t.qkind 0,
   fieldAt t.error 16 ||| fieldAt (min 255 e.replays) 8 ||| fieldAt (if st == .retired then e.status.toNat else 0) 0,
   fieldAt e.hot 0, BitVec.ofNat 64 (tickOf e.endedAt), t.info, 0]

/-- The most that a hotness counter holds (R310). -/
def hotMost : Nat := 2 ^ 56 - 1

/-- Hotness counters added to others, saturating (R310). -/
def addCounts (a b : Table Nat) : Table Nat := b.foldl (fun t p => tput t p.1 (min hotMost (tget t p.1 0 + p.2))) a

/-- A task's hotness counters as one block of its die's area (R310). -/
def hotBlock (e : Entry) : List Word :=
  let tags := (List.range 256).filter (fun t => tget e.hotBytes t 0 ≠ 0 || tget e.hotStall t 0 ≠ 0)
  let ws := tags.flatMap (fun t => [fieldAt t 56 ||| fieldAt (min (tget e.hotBytes t 0) hotMost) 0, fieldAt (min (tget e.hotStall t 0) hotMost) 0])
  let ws := (fieldAt tags.length 48 ||| fieldAt e.serial 0) :: 0 :: ws
  ws ++ List.replicate (1024 - ws.length) 0

/-- The hotness block of a task that ran, written when it reaches its final state. -/
def writeHot (s : State) (d : Nat) (e : Entry) : State :=
  if !e.everRan then s
  else
    let i := (dieOf s d).hotIndex % 512
    let s := storeBytes s (hotnessBase + d * 0x400000 + 8192 * i) (wordsBytes (hotBlock e))
    onEntry (onDie s d (fun x => { x with hotIndex := x.hotIndex + 1 })) d e.serial
      (fun e => { e with hot := 0x00FFF00000000000 + d * 0x400000 + 8192 * i })

/-- The records of other tasks that have reached a final state and name the slot of one: each with whether it comes before it (by cycle,
serial, then die: entry 137), and the cycle by which it is visible, once it is written (R259). -/
def slotRivals (s : State) (d : Nat) (e : Entry) : List (Bool × Option Nat) :=
  s.dies.flatMap (fun x => (x.2.entries.filter (fun y => y.pending.isSome && y.slot = e.slot && recAsid y.recd = recAsid e.recd
      && !(x.1 = d && y.serial = e.serial))).map (fun y =>
    (decide (y.endedAt < e.endedAt) || (decide (y.endedAt = e.endedAt) && (decide (y.serial < e.serial) || (decide (y.serial = e.serial) && decide (x.1 < d)))),
     (s.timers.find? (fun t => t.2 == .taskRetire x.1 y.serial)).map (fun t => t.1))))

/-- The completion record of an entry (its slot is kept as the address plus one, 0 for none) written as a release of the die scheduler's
copier; the final state is recorded when it is visible. A page that is not resident is waited for; a slot that faults is lost; records
of one slot are written in the order of their final states, and one that a later task's has replaced already is not (R259). -/
def writeRecord (s : State) (d : Nat) (e : Entry) (st : TaskState) : State :=
  let rivals := slotRivals s d e
  if e.slot = 0 then at' s (if st == .retired then s.cycle else s.cycle + 1) (.taskRetire d e.serial)
  else if rivals.any (fun r => r.1 && r.2.isNone) then at' s (s.cycle + 1) (.copyBackComplete d e.serial)
  else match rivals.find? (fun r => !r.1 && r.2.isSome) with
  | some r => at' s (max (s.cycle + 1) (r.2.getD 0)) (.taskRetire d e.serial)
  | none =>
    let lost (s : State) : State :=
      at' (logError s d 0x3003 0 { noUnit (physDie s d) with kind := 10 } (BitVec.ofNat 64 e.serial) 0) (s.cycle + 1) (.taskRetire d e.serial)
    let r := splitAccess d none (recAsid e.recd) 0 { write := true, raw := true, ordered := false, hostTrap := false } (e.slot - 1) 64 s
    match r.2.1 with
    | some (.absent _ l _) =>
      if pageFailed r.2.2 (recAsid e.recd) l.va (.fill d e.serial) then lost r.2.2
      else at' (requestPage r.2.2 (recAsid e.recd) 0 true l (some (.fill d e.serial))) (s.cycle + 64) (.copyBackComplete d e.serial)
    | some (.trap _ _ _) => lost r.2.2
    | none =>
      let after := rivals.foldl (fun acc r => max acc (r.2.getD 0)) 0
      let w := issueParts r.2.2 (.copier d) d 32 true s.cycle after r.1
        (.bytes (dealBytes r.1 (wordsBytes (completionWords e st))))
      at' w.1 w.2 (.taskRetire d e.serial)

/-- A task reaches a final state: its hotness block and its completion record are written; a faulted or cancelled one frees its
shadows unwritten and cancels others in the next cycle. -/
def reachFinal (s : State) (d serial : Nat) (st : TaskState) : State :=
  match entryOf s d serial with
  | none => s
  | some e =>
    if e.pending.isSome then s
    else
      let s := onEntry s d serial (fun e => { e with pending := some st, endedAt := s.cycle })
      let s := if st == .retired then s else at' (freeShadows s d e) (s.cycle + 1) (.cancelPropagate d serial)
      let s := writeHot s d e
      let s := settleCounts s
      match entryOf s d serial with
      | some e => writeRecord s d e st
      | none => s

/-! ## Entries that free (R251, R306) -/

/-- The claimants of freed entries served: children, the letterbox head, local posts in the order they stalled; a post that would by now
receive the serial 2^44 traps (R251, R270). -/
def grantEntries (s : State) (d : Nat) : Nat → State
  | 0 => s
  | fuel + 1 =>
    let x := dieOf s d
    if x.room = 0 then s
    else match x.childQueue, x.letterbox, x.stalled with
      | (serial, c, launch) :: rest, _, _ =>
        grantEntries (acceptEntry (onDie s d (fun x => { x with childQueue := rest })) d c.recd serial c.slot launch
          (recPred c.recd) none (x.entries.length + 1)) d fuel
      | [], l :: rest, _ =>
        grantEntries (acceptEntry (onDie s d (fun x => { x with letterbox := rest })) d l.recd l.serial 0 l.launch l.pred none
          (x.entries.length + 1)) d fuel
      | [], [], p :: rest =>
        if 2 ^ 44 < x.nextSerial + p.q.recs.length then
          grantEntries (ccTrapAgain (onDie s d (fun x => { x with stalled := rest })) d p.q.set .reservedField 0) d fuel
        else if p.q.recs.length ≤ x.room then
          let r := acceptPost (onDie s d (fun x => { x with stalled := rest })) d p.q
          let s := match p.q.foldOf with
            | some v => onSpace r.2 p.q.asid (fun a => { a with vints := tput a.vints v .folding })
            | none => r.2
          grantEntries (ccDeliver s d p.q.set s.cycle [.cc p.q.set p.q.dst (BitVec.ofNat 64 r.1)]) d fuel
        else s
      | [], [], [] => s

/-- Whether a launch is complete: every context of it DONE, every window empty (R126). -/
def launchComplete (s : State) (l : Launch) : Bool :=
  s.dies.all (fun x => x.2.ctl.ctxs.all (fun c => c.2.launch != l.number || c.2.state == .done || c.2.state == .free)
    && x.2.entries.isEmpty && x.2.letterbox.isEmpty && x.2.childQueue.isEmpty && x.2.stalled.isEmpty)

/-- The launches that are complete: the host is told, and every die gets monitor event 3 (R126, R400). -/
def settleLaunches (s : State) : State :=
  (s.launches.filter (fun l => !l.done && launchComplete s l)).foldl (fun s l =>
    let s := { s with launches := s.launches.map (fun k => if k.number == l.number then { k with done := true } else k) }
    (List.range 8).foldl (fun s d => later s (.ev (.monitorEvent d 3))) (hostEvent s (.complete l.number))) s

/-- Whether an entry that has left is still needed: by a check still to come, by a redirected reader, or by its own cancels. -/
def stillNeeded (rest : List Entry) (now : Nat) (y : Entry) : Bool :=
  now ≤ y.homeDue || !y.shadows.isEmpty || rest.any (fun z => !z.checked && z.liveAt.contains y.serial)

/-- The contexts of a die that wait for a task's final state go on, their predicate set, which is an acquire (R121, R315, R319); it
lands in this cycle (entry 173). -/
def wakeTwaits (s : State) (d serial : Nat) : State :=
  (List.range 8).foldl (fun s set => match ((ctlOf s d).ctxOf set).wait with
    | .serial n pd _ =>
      let due := acquireDue s (.ctx d set) s.cycle
      if n = serial then ccOutcome (noteAcquire s (.ctx d set) due) d set due [.ccPred set pd true] else s
    | _ => s) s

/-- An entry leaves its window: it is kept aside while it is needed, the shadows of those that have left are freed once no record uses
them, and its place is granted. -/
def leaveWindow (s : State) (d serial : Nat) : State :=
  match entryOf s d serial with
  | none => s
  | some e =>
    let st := e.pending.getD .retired
    let x := dieOf s d
    let rest := x.entries.filter (fun y => y.serial != serial)
    let gone := x.departed ++ [{ e with state := st }]
    let s := gone.foldl (fun s y => freeUnused s d rest y) s
    let gone := gone.map (fun y => { y with shadows := y.shadows.filter (shadowUsed rest y) })
    let s := onDie s d (fun x =>
      { x with entries := rest, departed := gone.filter (stillNeeded rest s.cycle),
               leftChildren := if generation serial = 0 then x.leftChildren
                 else (x.leftChildren ++ [(serial, st)]).drop (x.leftChildren.length + 1 - 4096) })
    let s := { s with ended := s.ended ++ [(d, serial, st)] }
    let s := grantEntries (wakeTwaits s d serial) d 1024
    settleLaunches (settleCounts s)

/-! ## Discards (R261, R263) -/

/-- A core that keeps nothing of its task: its buffers, translations and armed injections stay as they are. -/
def Core.cleared (x : Core) : Core :=
  { Core.reset with wb := x.wb, ab := x.ab, cb := x.cb, tlb := x.tlb, inject := x.inject }

/-- The buffer writes of results already issued: they land, those due by the end of a discard too (R54, R261, R372). -/
def bufLandings (x : Core) : List Landing :=
  (x.landings.map (fun l => { l with writes := l.writes.filter (fun w => match w with | .buf _ _ _ => true | _ => false) })).filter
    (fun l => !l.writes.isEmpty)

/-- The keys under which a task's shards count at the routing engine. -/
def routeKey (serial shard : Nat) : Nat := 65536 * serial + shard

/-- What a shard has counted at its die's routing engine and not committed, dropped (R364, entry 140). -/
def dropRouting (s : State) (d serial shard : Nat) : State :=
  onDie s d (fun x => { x with
    provisional := tdel x.provisional (routeKey serial shard), clears := tdel x.clears (routeKey serial shard) })

/-- The record of a COMMIT on its way to the window, dropped with the attempt that issued it (R225, R261). -/
def dropCommit (s : State) (d serial shard : Nat) : State :=
  { s with timers := s.timers.filter (fun t => t.2 != .windowRecordsCommitted d serial shard) }

/-- A shard stopped on its core: everything it holds is dropped at once, and the core is free 16 cycles on. A shard that has halted holds
no core any more. -/
def stopShard (s : State) (d : Nat) (e : Entry) (n : Nat) (sh : Shard) : State :=
  let s := dropCommit (dropRouting s d e.serial n) d e.serial n
  match sh.state with
  | .waiting => s
  | .ended => s
  | .halted => onEntry s d e.serial (fun e => { e with shards := e.shards.mapIdx (fun i y => if i = n then { y with
      state := .waiting, startAt := none, preloaded := false, committed := false, notBefore := s.cycle } else y) })
  | .dispatched => onEntry s d e.serial (fun e => { e with shards := e.shards.mapIdx (fun i x =>
      if i = n then { x with state := .waiting, startAt := none, preloaded := false } else x) })
  | _ =>
    let x := coreOf s sh.die sh.core
    let s := putCore s sh.die sh.core { x.cleared with task := x.task, discardAt := some (s.cycle + 16), landings := bufLandings x }
    let s := onEntry s d e.serial (fun e =>
      { e with hotBytes := addCounts e.hotBytes x.hotBytes, hotStall := addCounts e.hotStall x.hotStall,
               shards := e.shards.mapIdx (fun i y => if i = n then { y with
                 state := .waiting, startAt := none, preloaded := false, committed := false, notBefore := s.cycle + 16,
                 hotBytes := addCounts y.hotBytes x.hotBytes, hotStall := addCounts y.hotStall x.hotStall } else y),
               commitWait := e.commitWait.filter (fun i => i != n), haltWait := e.haltWait.filter (fun i => i != n) })
    at' s (s.cycle + 16) (.discardComplete d e.serial n)

/-- Every shard of a task stopped. -/
def stopShards (s : State) (d serial : Nat) : State :=
  match entryOf s d serial with
  | none => s
  | some e => ((List.range e.shards.length).zip e.shards).foldl (fun s p => stopShard s d e p.1 p.2) s

/-- The shadows of a task to be filled again before it restarts; the units of its RW regions are granted anew at dispatch (R243,
R260). -/
def unfillShadows (s : State) (d serial : Nat) : State :=
  match entryOf s d serial with
  | none => s
  | some e =>
    let s := e.shadows.foldl (fun s sh => if sh.renamed then dropShadowWrites s d sh else freeShadow s d sh) s
    onEntry s d serial (fun e => { e with shadows := (e.shadows.filter (fun sh => sh.renamed)).map (fun sh => { sh with filled := false }) })

/-- A task ends FAULTED: what it records, its shards stopped (R260, R267). -/
def faultTask (s : State) (d serial : Nat) (t : TrapInfo) (apc xpc mark : Nat) : State :=
  match entryOf s d serial with
  | none => s
  | some e =>
    if e.pending.isSome then s
    else
      let s := onEntry s d serial (fun e => { e with trap := some t, cause := t.cause, apc := apc, xpc := xpc, mark := mark })
      reachFinal (stopShards s d serial) d serial .faulted

/-- A partner of a gang whose member has FAULTED (R269). -/
def loseGang (s : State) (d : Nat) (e : Entry) : State :=
  if e.pending.isSome then s
  else if e.state == .committed || e.state == .halted then
    faultTask s d e.serial { trapOf .none with error := 0x3001 } e.apc e.xpc e.mark
  else reachFinal (stopShards s d e.serial) d e.serial .cancelled

/-- A cancel of a task at its state machine, and the code it answers (R120, R260); the other members of its gang follow in the next cycle (R268,
R275). -/
def cancelTask (s : State) (d serial : Nat) : Nat × State :=
  let x := dieOf s d
  if x.letterbox.any (fun l => l.serial == serial) then
    let l := x.letterbox.find? (fun l => l.serial == serial)
    let s := onDie s d (fun x => { x with letterbox := x.letterbox.filter (fun l => l.serial != serial) })
    let s := wakeTwaits { s with ended := s.ended ++ [(d, serial, .cancelled)] } d serial
    (0, match l with
      | some l =>
        let e := { newEntry l.recd serial 0 l.launch l.pred 0 none [] with state := .cancelled, pending := some .cancelled, homeDue := s.cycle + 1 }
        at' (settleCounts (onDie s d (fun x => { x with departed := x.departed ++ [e] })))
          (s.cycle + 1) (.cancelPropagate d serial)
      | none => s)
  else match entryOf s d serial with
    | none =>
      (match s.ended.find? (fun t => t.1 = d && t.2.1 = serial) with
        | some (_, _, .retired) => 1
        | some _ => 2
        | none => 3, s)
    | some e =>
      match e.pending with
      | some .retired => (1, s)
      | some _ => (2, s)
      | none =>
        if e.state == .committed || e.state == .halted then (1, s)
        else
          let s := reachFinal (stopShards s d serial) d serial .cancelled
          (0, s)

/-! ## Edges of an accepted record (R239, R240, R244, R245, R308) -/

/-- Whether a record has a region on a vintaged page in vintage 0, which a fold task conflicts with; its kinds there. -/
def baseKinds (s : State) (e : Entry) : List Nat :=
  if recFold e.recd then [2]
  else if recVint e.recd ≠ 0 then []
  else (List.range 6).filterMap (fun i => let b := recBox e.recd i
    if b.kind ≠ 0 && boxVintaged s (recAsid e.recd) b then some b.kind else none)

/-- The edge of a conflict between an earlier record's region of some kind and a later one's; none for two readers. -/
def conflictEdge (early late : Nat) : Option EdgeKind :=
  if early = 1 && late = 1 then none
  else if early ≥ 2 then some .retire
  else if late = 2 then some .final
  else some .copyBack

/-- Whether two regions of two records conflict at all (R236). -/
def regionsMeet (s : State) (a b : Entry) (p q : Box) : Bool :=
  p.kind ≠ 0 && q.kind ≠ 0 && recAsid a.recd = recAsid b.recd && boxesOverlap p q
    && (recVint a.recd = recVint b.recd || (!boxVintaged s (recAsid a.recd) p && !boxVintaged s (recAsid b.recd) q))

/-- Whether a region covers a sealed page. -/
def boxSealed (s : State) (asid : Nat) (b : Box) : Bool := (boxLeaves s asid b).any (fun l => l.seal)

/-- The conflicts of region j of a record with an earlier record: the regions of the earlier one, those redirected left out. A region that
covers a sealed page is not renamed: its write after read is an ordinary edge (R147, R244). -/
def conflictsWith (s : State) (l : Entry) (j : Nat) (e : Entry) : List (Nat × EdgeKind) :=
  (List.range 6).filterMap (fun i =>
    let p := recBox e.recd i
    let q := recBox l.recd j
    if e.redirects.any (fun r => r.1 = i) || !regionsMeet s e l p q then none
    else (conflictEdge p.kind q.kind).map (fun k => (i, if k == .copyBack && boxSealed s (recAsid l.recd) q then .final else k)))

/-- The renamed W region of an earlier live record that an R region lies wholly inside (R245); a writer whose retirement is on its way is live
(R246). -/
def redirectOf (s : State) (l : Entry) (j : Nat) (e : Entry) : Option Nat :=
  if (recBox l.recd j).kind ≠ 1 || (e.pending.isSome && e.pending != some .retired) then none
  else (e.shadows.find? (fun sh => sh.renamed && regionsMeet s e l (recBox e.recd sh.region) (recBox l.recd j)
    && whollyInside (recBox e.recd sh.region) (recBox l.recd j))).map (fun sh => sh.region)

/-- The edges of region j of a record against the records live at its acceptance; a renamed W region takes its shadow now. An R region
inside a renamed one is redirected to it, unless a record after that writer writes there too, whose values it must read (R247, entry
129), a fold of the base among them (R308). -/
def regionEdges (s : State) (d : Nat) (l : Entry) (early : List Entry) (j : Nat) : List Edge × State :=
  let b := recBox l.recd j
  if b.kind = 0 then ([], s)
  else
    let cs := early.flatMap (fun e => (conflictsWith s l j e).map (fun c => (e, c)))
    let folds := early.flatMap (fun e => if recFold e.recd && recAsid e.recd = recAsid l.recd && recVint l.recd = 0
      && boxVintaged s (recAsid l.recd) b then [(e, (0, EdgeKind.retire))] else [])
    let plainOf (cs : List (Entry × Nat × EdgeKind)) : List Edge := cs.map (fun c => { src := c.1.serial, kind := c.2.2 })
    match early.findSome? (fun e => (redirectOf s l j e).map (fun i => (e, i))) with
    | some (e, i) =>
      if !folds.isEmpty || cs.any (fun c => !(c.1.serial = e.serial && c.2.1 = i)) then (plainOf (cs ++ folds), s)
      else
        ((if e.state == .halted then [] else [{ src := e.serial, kind := .halt }]) ++ plainOf folds,
          onEntry s d l.serial (fun x => { x with redirects := x.redirects ++ [(j, 8 * e.serial + i)] }))
    | none =>
      let cs := cs ++ folds
      if b.kind = 2 && !cs.isEmpty && cs.all (fun c => c.2.2 == .final) && !boxSealed s (recAsid l.recd) b then
        match grantShadow s d b j true with
        | some (sh, s) => ((plainOf cs).map (fun e => { e with kind := .renamed }),
            onEntry s d l.serial (fun x => { x with shadows := x.shadows ++ [sh] }))
        | none => (plainOf cs, s)
      else (plainOf cs, s)

/-- The edges of a fold task: against every live record with a region on a vintaged page in vintage 0 (R308). -/
def foldEdges (s : State) (l : Entry) (early : List Entry) : List Edge :=
  early.flatMap (fun e =>
    if recAsid e.recd ≠ recAsid l.recd then []
    else (baseKinds s e).filterMap (fun k => (conflictEdge k 2).map (fun x => { src := e.serial, kind := x })))

/-- The edges of every region of a record. -/
def allEdges (s : State) (d : Nat) (l : Entry) (early : List Entry) : List Nat → List Edge × State
  | [] => ([], s)
  | j :: rest =>
    let r := regionEdges s d l early j
    let q := allEdges r.2 d l early rest
    (r.1 ++ q.1, q.2)

/-- What an earlier record's end has done to an edge by the time of the check: nothing, released, or cancelled its holder. -/
def edgeFate (early : List Entry) (x : Edge) : Nat :=
  match early.find? (fun e => e.serial == x.src) with
  | none => 1
  | some e =>
    match e.state, e.pending with
    | .retired, _ => 1
    | .faulted, _ => 2
    | .cancelled, _ => 2
    | _, some .faulted => 2
    | _, some .cancelled => 2
    | .halted, _ => if x.kind == .halt then 1 else 0
    | _, _ => 0

/-- OVERLAP_CHECK_COMPLETE: a record's edges and rename decisions take effect, and it leaves POSTED; one that ended FAULTED or CANCELLED
before cancels it along an edge of every kind (R229, R239 to R241, R256, entry 129). -/
def execOverlapCheckComplete (d serial : Nat) (s : State) : Out :=
  .next (match entryOf s d serial with
  | none => s
  | some l =>
    if l.checked then s
    else
      let s := onEntry s d serial (fun x => { x with checked := true })
      if l.pending.isSome then s
      else
        let pool := (dieOf s d).entries ++ (dieOf s d).departed
        let early := (l.liveAt.filterMap (fun n => pool.find? (fun e => e.serial == n))).filter
          (fun e => !(e.gang.isSome && e.gang == l.gang))
        let r := if recFold l.recd then (foldEdges s l early, s) else allEdges s d l early (List.range 6)
        let fates := r.1.map (fun x => (x, edgeFate early x))
        let s := r.2
        if fates.any (fun p => p.2 = 2) then reachFinal s d serial .cancelled
        else
          let s := onEntry s d serial (fun x => { x with edges := (fates.filter (fun p => p.2 = 0)).map (fun p => p.1) })
          settleEntry s d serial)

/-! ## Final states (R249, R259, R260, R275) -/

/-- TASK_RETIRE: a completion record is visible: the final state is recorded, edges are released, notifications sent, children
enter, and the entry is freed. -/
def execTaskRetire (d serial : Nat) (s : State) : Out :=
  .next (match entryOf s d serial with
  | none => s
  | some e => match e.pending with
    | none => s
    | some st =>
      let s := onEntry s d serial (fun x => { x with state := st })
      let s := if st == .retired then
          let s := releaseEdges s d serial [.retire, .final, .halt, .copyBack, .renamed]
          let s := [3, 4].foldl (fun s i => (sendNotify s d (recAsid e.recd) (wordOf e.recd i) false).1) s
          let s := freeShadows s d e
          let ranked := (List.range e.shards.length).flatMap (fun i => e.children.filter (fun c => c.shard = i))
          let kids := (List.range ranked.length).zipWith (fun i c => (childSerial serial i, c, e.launch)) ranked
          onDie s d (fun x =>
            let before := x.childQueue.filter (fun c => c.1 < childSerial serial 0)
            let after := x.childQueue.filter (fun c => ¬ c.1 < childSerial serial 0)
            { x with childQueue := before ++ kids ++ after })
        else s
      leaveWindow s d serial)

/-- CANCEL_PROPAGATE: a task that FAULTED or was CANCELLED a cycle ago cancels the records that hold an edge from it, its gang,
and its notify targets (R249, R275). -/
def execCancelPropagate (d serial : Nat) (s : State) : Out :=
  .next (match (dieOf s d).entries.find? (fun e => e.serial == serial) <|> (dieOf s d).departed.find? (fun e => e.serial == serial) with
  | none => s
  | some e =>
    let deps := (dieOf s d).entries.filter (fun x => x.pending == none && x.edges.any (fun y => y.src = serial))
    let s := deps.foldl (fun s x => (cancelTask s d x.serial).2) s
    let s := (gangOf s d e).foldl (fun s m => if m.serial == serial then s else loseGang s d m) s
    [3, 4].foldl (fun s i =>
      let r := sendNotify s d (recAsid e.recd) (wordOf e.recd i) true
      match r.2 with
      | some (die, n) => (cancelTask r.1 die n).2
      | none => r.1) s)

end Sys2Proof.Machine
end

