-- ==== Sys2Proof/Machine/CcPost.lean ====
section
/-! DEFINITION. Control core: posting, cancelling and asking the window (R114 to R121, R252). -/

namespace Sys2Proof.Machine

/-! ## Posts (R114 to R116) -/

/-- What a post leaves in a request: its records are read when the checker matches it. -/
def postReq (s : State) (dst : Nat) (nb : Option Nat) : PostReq :=
  let set := ccSet s
  { recs := [], slots := [], set := set, dst := dst, nbPred := nb,
    launch := ((ctlOf s s.focus.die).ctxOf set).launch, asid := ccAsid s, foldOf := none }

/-- The register that NUM[5:0] names. -/
def numReg5 (s : State) (f : FS) : Word := (ccRegs s).get (f.num.toNat % 64)

/-- A post of n records: its records are read and checked when the read's path latency has passed, and it is matched by the checker
once its context's earlier writes are visible, 8 cycles on (R115). -/
def ccPost (h : Hdr) (f : FS) (s : State) (n : Nat) (nb : Option Nat) (act : PostReq → Nat → Nat → OutAct) (hasSlot : Bool) : Out :=
  .next (if ccHolds h s then
    if (ctlOf s s.focus.die).monitor then ccTrapHere s .prot 0
    else
      let va := (ccGet s f.a).toNat
      let slot := if hasSlot && f.num.toNat % 64 ≠ 0 then (numReg5 s f).toNat + 1 else 0
      if va % 64 ≠ 0 then ccTrapHere s .align (BitVec.ofNat 64 va)
      else if slot ≠ 0 && (slot - 1) % 64 ≠ 0 then ccTrapHere s .align (BitVec.ofNat 64 (slot - 1))
      else
        let r := splitAccess s.focus.die none (ccAsid s) 0 { write := false, raw := true, ordered := false, hostTrap := true } va (256 * n) s
        match r.2.1 with
        | some (.absent at_ l _) => ccPageStall r.2.2 (ccAsid s) at_ (va + (at_ - va) / 256 * 256) false l
        | _ => ccBlock (outPost r.2.2 (partsLat r.2.2 s.focus.die r.1) (act (postReq s f.d.toNat nb) va slot))
  else s)

/-- POST (R114). -/
def execPost (h : Hdr) (f : FS) (s : State) : Out := ccPost h f s 1 none (fun q va slot => .post q va slot 1) true

/-- POST.NB (R114). -/
def execPostNb (h : Hdr) (f : FS) (s : State) : Out :=
  ccPost h f s 1 (some (f.num.toNat / 64 % 8)) (fun q va slot => .post q va slot 1) true

/-- POST.G (R114). -/
def execPostG (h : Hdr) (f : FS) (s : State) : Out :=
  ccPost h f s (f.num.toNat / 512 % 4 + 2) none (fun q va slot => .post q va slot (f.num.toNat / 512 % 4 + 2)) true

/-- What a target register names: domain index and logical die (R119). -/
def targetOf (v : Word) : Nat × Nat := (bits v 11 0, bits v 14 12)

/-- RPOST (R119). -/
def execRpost (h : Hdr) (f : FS) (s : State) : Out :=
  let t := targetOf (numReg5 s f)
  ccPost h f s 1 none (fun q va _ => .rpost q va t.1 t.2) false

/-- How the reading of a post's records ends: the records, a trap, or a wait. -/
inductive PostRead where
  | recs (rs : List (List Word)) (s : State)
  | trap (c : Cause) (info : Word) (s : State)
  | wait (until_ : Nat) (s : State)

/-- The cycle before which a set does not read some parts of memory (R315, R322): its earlier accesses come first where their pages' kinds, a fence
or an overlap order them. -/
def ccReadBound (s : State) (d set : Nat) (ps : List Part) : Nat :=
  (kindRuns ps).foldl (fun acc g => accessDue s (.ctx d set) d 32 (kindOf g) false acc (runsOf g) true) 0

/-- The records of a post read and checked in ascending order (R116), each after what its context's order and a barrier object of another die put
before it (R311, R321); one that its bank rebuilds is read again (R20, R285). -/
def readRecords (d : Nat) (o : Outward) (q : PostReq) (va slot : Nat) (gang full : Bool) : List Nat → State → PostRead
  | [], s => .recs [] s
  | i :: rest, s =>
    let at_ := va + 256 * i
    let r := splitAccess d none q.asid 0 { write := false, raw := true, ordered := false, hostTrap := true } at_ 256 s
    match r.2.1 with
    | some (.trap c _ _) => .trap c (BitVec.ofNat 64 at_) r.2.2
    | some (.absent _ l _) =>
      if pageFailed r.2.2 q.asid l.va (.ctx d o.set) then
        .trap .prot (BitVec.ofNat 64 at_) (tookFailure r.2.2 q.asid l.va (.ctx d o.set))
      else .wait (s.cycle + 64) (requestPage r.2.2 q.asid 0 false l (some (.ctx d o.set)))
    | none =>
      if slot ≠ 0 && !pageOk s q.asid (slot - 1 + 64 * i) true then .trap .prot (BitVec.ofNat 64 (slot - 1 + 64 * i)) r.2.2
      else
        let h := readHold r.2.2 (.ctx d o.set) 0 d (runsOf r.1)
        let free := max h.1 (ccReadBound h.2 d o.set r.1)
        if s.cycle < free then .wait free h.2
        else
        let b := readRuns (noteParts h.2 (.ctx d o.set) false (readReach s.cycle) r.1) (.ctx d o.set) d 32 r.2.2.seq (runsOf r.1)
        if b.2.1 then .trap .uncorrectable 0 b.2.2
        else if rebuilds r.2.2 (runsOf r.1) then .wait (s.cycle + rebuildDelay) b.2.2
        else
          let rec_ := bytesWords 32 b.1
          if full && recAsid rec_ ≠ q.asid then .trap .prot (BitVec.ofNat 64 at_) b.2.2
          else
            let n := if full then recordNeeds b.2.2 rec_ else (.ready, b.2.2)
            match n.1 with
            | .bad => .trap .uncorrectable 0 n.2
            | .coded va => .trap .format (BitVec.ofNat 64 va) n.2
            | .rebuilt => .wait (s.cycle + rebuildDelay) n.2
            | .absent l =>
              if pageFailed n.2 q.asid l.va (.ctx d o.set) then .trap .prot (BitVec.ofNat 64 at_) (tookFailure n.2 q.asid l.va (.ctx d o.set))
              else .wait (s.cycle + 64) (requestPage n.2 q.asid 0 false l (some (.ctx d o.set)))
            | .ready => match recordFault n.2 d rec_ gang (256 * i) full with
              | some (c, info) => .trap c info n.2
              | none => match readRecords d o q va slot gang full rest n.2 with
                | .recs rs t => .recs (rec_ :: rs) t
                | x => x

/-- An outward action looked at again in a later cycle. -/
def retryOutward (s : State) (d : Nat) (o p : Outward) : State :=
  at' (onCtl s d (fun c => { c with outward := c.outward.map (fun y => if y == o then p else y) })) p.due (.checkerMatch d true)

/-- The order of the posts that stall: those of earlier cycles first, and of one cycle the lower context first (R251). -/
def Stalled.before (p : Stalled) (now set : Nat) : Bool := p.since < now || p.q.set < set

/-- A request handed to the window: its entries, or a stall in the local order; a post that does not stall is told so; one that would
receive the serial 2^44 traps (R115, R251, R270). -/
def handPost (s : State) (d : Nat) (q : PostReq) : State :=
  let x := dieOf s d
  if 2 ^ 44 < x.nextSerial + q.recs.length then ccTrapAgain s d q.set .reservedField 0
  else if x.stalled.isEmpty && q.recs.length ≤ x.room then
    let r := acceptPost s d q
    let s := match q.foldOf with
      | some v => onSpace r.2 q.asid (fun a => { a with vints := tput a.vints v .folding })
      | none => r.2
    ccDeliver s d q.set s.cycle ([.cc q.set q.dst (BitVec.ofNat 64 r.1)] ++ (match q.nbPred with | some p => [.ccPred q.set p true] | none => []))
  else match q.nbPred with
    | some p => ccDeliver s d q.set s.cycle [.cc q.set q.dst 0, .ccPred q.set p false]
    | none =>
      onCtl (onDie s d (fun x => { x with
        stalled := x.stalled.filter (fun p => p.before s.cycle q.set) ++ [{ since := s.cycle, q := q }] ++
          x.stalled.filter (fun p => !p.before s.cycle q.set) })) d
        (fun c => c.onCtx q.set (fun y => { y with wait := .window, state := .waiting }))

/-- The cycle by which the stores that a set issued before an action have left through the checker, as far as can be said; zero when all have. -/
def unmatched (s : State) (d : Nat) (o : Outward) : Nat :=
  ((ctlOf s d).outward.takeWhile (fun x => x != o)).foldl (fun acc x => match x.act with
    | .store _ _ _ _ _ _ => if x.set = o.set then max acc (max x.due (s.cycle + 1)) else acc
    | _ => acc) 0

/-- A post whose records are read and checked is matched 8 cycles after the cycle in which its context's earlier writes are visible at
its scope, and not before that (R115, R119). -/
def awaitVisible (s : State) (d : Nat) (o p : Outward) (scope : Nat) : State :=
  let v := max (releasedBy s (.ctx d o.set) scope) (unmatched s d o)
  if s.cycle < v then retryOutward s d o { p with due := v } else retryOutward s d o { p with due := s.cycle + 8, whole := true }

/-- The page that a die which serves a record sent to it has to wait for before it checks the record (R119, R296). -/
def postAwaits (s : State) (d : Nat) (who : Waiter) (r : List Word) : Option Leaf :=
  if !(dieOf s d).letterboxBit || (launchOfAsid s (recAsid r)).isNone then none
  else (recordAbsent s r).filter (fun l => !pageFailed s (recAsid r) l.va who)

/-- A post looked at: its records are read and checked, once; then it awaits its context's earlier writes (R115, R116, R119). -/
def readPost (s : State) (d : Nat) (o : Outward) : State :=
  let dropped (t : State) : State := onCtl t d (fun c => { c with outward := c.outward.erase o })
  let read (q : PostReq) (va slot n scope : Nat) (gang full : Bool) (here : Option Nat) (act : PostReq → OutAct) : State :=
    if !q.recs.isEmpty then awaitVisible s d o o scope
    else match readRecords d o q va slot gang full (List.range n) s with
      | .trap c info t => ccTrapAgain (dropped t) d o.set c info
      | .wait n t => retryOutward t d o { o with due := n }
      | .recs rs t =>
        let ceiling := ((ctlOf t d).ctxOf o.set).ceiling
        match here.bind (fun die => postAwaits t die (.ctx d o.set) (rs.headD [])) with
        | some l => retryOutward (requestPage t (recAsid (rs.headD [])) 0 false l (some (.ctx d o.set))) d o { o with due := t.cycle + 64 }
        | none => awaitVisible t d o { o with act := act { q with
          recs := rs.map (fun r => lowerPri r ceiling)
          slots := (List.range n).map (fun i => if slot = 0 then 0 else slot + 64 * i) } } scope
  match o.act with
  | .post q va slot n => read q va slot n 2 (decide (1 < n)) true none (fun q => .post q va slot n)
  | .rpost q va dev die => read q va 0 1 3 false false (if some dev = s.devid then some die else none) (fun q => .rpost q va dev die)
  | _ => s

/-- A post matched by the checker is handed to the window four cycles later (R115). -/
def matchPost (s : State) (d : Nat) (q : PostReq) : State :=
  at' (onCtl s d (fun c => { c with handed := c.handed ++ [(s.cycle + 4, q)] })) (s.cycle + 4) (.checkerMatch d true)

/-- The posts that reach the window in this cycle. -/
def handDue (s : State) (d : Nat) : State :=
  let now := s.cycle
  let due := (ctlOf s d).handed.filter (fun p => decide (p.1 ≤ now))
  due.foldl (fun s p => handPost s d p.2) (onCtl s d (fun c => { c with handed := c.handed.filter (fun p => decide (now < p.1)) }))

/-! ## Remote posts (R119, R252) -/

/-- A record that reaches a die from elsewhere: the answer's status and value (R119, R252). -/
def remotePost (s : State) (d : Nat) (r : List Word) : (Nat × Nat) × State :=
  let x := dieOf s d
  let launch := match launchOfAsid s (recAsid r) with | some l => l.number | none => 0
  if !x.letterboxBit then ((0x51, 0), s)
  else if (launchOfAsid s (recAsid r)).isNone then ((0x51, Cause.prot.code), s)
  else match recordNeeds s r with
  | (.bad, s) => ((0x51, Cause.uncorrectable.code), s)
  | (.absent _, s) => ((0x51, Cause.prot.code), s)
  | (.coded _, s) => ((0x51, Cause.format.code), s)
  | (_, s) => match recordFault s d r false 0 true with
    | some (c, _) => ((0x51, c.code), s)
    | none =>
      if !x.acceptPosts then ((0x50, 1048575), s)
      else if 2 ^ 44 ≤ x.nextSerial then ((0x51, Cause.reservedField.code), s)
      else if x.room ≠ 0 && x.childQueue.isEmpty && x.letterbox.isEmpty then
        let n := x.nextSerial
        let s := onDie s d (fun x => { x with nextSerial := n + 1 })
        ((0, n), acceptEntry s d r n 0 launch (recPred r) none (x.entries.length + 1))
      else if x.letterbox.length < 64 then
        let n := x.nextSerial
        ((0, n), onDie s d (fun x => { x with
          nextSerial := n + 1
          letterbox := x.letterbox ++ [{ recd := r, serial := n, pred := recPred r, launch := launch }] }))
      else
        let busy := (x.entries.filter (fun e => e.state == .ready || e.state == .waiting)).length
        ((0x50, min 1048575 (100 + 64 * busy)), s)

/-- The answer of a remote post or cancel as c[D] receives it. -/
def remoteAnswer (a : Nat × Nat) : Word := fieldAt a.1 56 ||| fieldAt (a.2 % 2 ^ 48) 0

/-- An RPOST matched by the checker: served on the own device, or sent. -/
def matchRpost (s : State) (d : Nat) (q : PostReq) (dev die : Nat) : State :=
  let r := q.recs.headD []
  if some dev = s.devid then
    let a := remotePost s die r
    ccDeliver a.2 d q.set (s.cycle + 200) [.cc q.set q.dst (remoteAnswer a.1)]
  else if !routeUp s dev then ccDeliver s d q.set s.cycle [.cc q.set q.dst (remoteAnswer (0x52, 0))]
  else
    let n := takeOpid s dev
    let t := addOp n.2 dev n.1 (.rpost d q.set q.dst) 1 0
    sendReq t dev (mkFrame t dev 6 (recAsid r) n.1 0 die 0 (wordsBytes r))

/-! ## Cancel (R120) -/

/-- CANCEL: allowed in both modes (R120). -/
def execCancel (h : Hdr) (f : FS) (s : State) : Out :=
  .next (if ccHolds h s then
    let t := targetOf (numReg5 s f)
    let local_ := f.num.toNat % 64 = 0
    ccBlock (outward s 8 (.cancel (bits (ccGet s f.a) 47 0) (if local_ then 4096 else t.1) (if local_ then s.focus.die else t.2) f.d.toNat))
  else s)

/-- A CANCEL matched by the checker: its code lands at t + 24 on the own device, after the fabric's round trip elsewhere. -/
def matchCancel (s : State) (d : Nat) (o : Outward) (serial dev die dst : Nat) : State :=
  if dev = 4096 || some dev = s.devid then
    let r := cancelTask s die serial
    ccDeliver r.2 d o.set (s.cycle + 16) [.cc o.set dst (BitVec.ofNat 64 r.1)]
  else if !routeUp s dev then ccDeliver s d o.set (s.cycle + 16) [.cc o.set dst 0x52]
  else
    let n := takeOpid s dev
    let t := addOp n.2 dev n.1 (.cancel d o.set dst) 1 0
    sendReq t dev (mkFrame t dev 8 (setAsid t d o.set) n.1 (serial / 2 ^ 32) die (serial % 2 ^ 32) [])

/-! ## Asking the window (R118, R121) -/

/-- The code of a state (R118). -/
def TaskState.code : TaskState → Nat
  | .posted => 0 | .waiting => 1 | .ready => 2 | .dispatched => 3 | .running => 4 | .committed => 5 | .halted => 6
  | .retired => 7 | .faulted => 8 | .cancelled => 9 | .replay => 10

/-- The state code of a serial of a window: live, left, or never accepted; a child by its record or the last 4,096 left. -/
def serialCode (x : Die) (serial : Nat) : Nat :=
  if x.letterbox.any (fun l => l.serial == serial) then 0
  else match x.entries.find? (fun e => e.serial == serial) with
    | some e => e.state.code
    | none =>
      if generation serial = 0 then (if 1 ≤ serial ∧ serial < x.nextSerial then 7 else 15)
      else match x.leftChildren.find? (fun c => c.1 == serial) with
        | some c => c.2.code
        | none => 15

/-- Whether a serial has reached a final state that the window has recorded. -/
def serialFinal (x : Die) (serial : Nat) : Bool := let c := serialCode x serial; 7 ≤ c && c ≤ 9

/-- The lowest live serial of a posted record; the next serial when none is live (R118). -/
def lowestLive (x : Die) : Nat :=
  ((x.entries.map (fun e => e.serial)) ++ (x.letterbox.map (fun l => l.serial))).foldl
    (fun m n => if generation n = 0 then min m n else m) x.nextSerial

/-- A WINQ word: the value is sampled in the issue cycle and lands in the next (R118). -/
def ccWinq (h : Hdr) (f : FS) (s : State) (v : Die → Nat) : Out :=
  .next (if ccHolds h s then
    ccHold (ccLand s 1 [.cc (ccSet s) f.d.toNat (BitVec.ofNat 64 (v (dieOf s s.focus.die)))]) (s.cycle + 1)
  else s)

/-- WINQ SEL 0: live entries. -/
def execWinqLiveEntries (h : Hdr) (f : FS) (s : State) : Out := ccWinq h f s (fun x => x.entries.length)

/-- WINQ SEL 1: free entries. -/
def execWinqFreeEntries (h : Hdr) (f : FS) (s : State) : Out := ccWinq h f s (fun x => x.room)

/-- WINQ SEL 2: letterbox occupancy. -/
def execWinqLetterbox (h : Hdr) (f : FS) (s : State) : Out := ccWinq h f s (fun x => x.letterbox.length)

/-- WINQ SEL 3: the serial the next accepted post receives. -/
def execWinqNextSerial (h : Hdr) (f : FS) (s : State) : Out := ccWinq h f s (fun x => x.nextSerial)

/-- WINQ SEL 4: the lowest live posted serial. -/
def execWinqLowestLive (h : Hdr) (f : FS) (s : State) : Out := ccWinq h f s lowestLive

/-- WINQ SEL 5: free rename area in 4 KiB units. -/
def execWinqFreeRename (h : Hdr) (f : FS) (s : State) : Out := ccWinq h f s freeUnits

/-- WINQ SEL 6: the state code of a serial. -/
def execWinqTaskState (h : Hdr) (f : FS) (s : State) : Out :=
  ccWinq h f s (fun x => serialCode x (bits (ccGet s f.a) 47 0))

/-- TWAIT: the context waits for a task's final state; one that finds it is an acquire (R121, R319). -/
def execTwait (h : Hdr) (f : FS) (s : State) : Out :=
  .next (if ccHolds h s then
    if (ctlOf s s.focus.die).monitor then ccTrapHere s .prot 0
    else
      let d := s.focus.die
      let set := ccSet s
      let n := bits (ccGet s f.a) 47 0
      let x := dieOf s d
      if serialCode x n = 15 then ccHold (ccLand s 1 [.ccPred set f.d.toNat false]) (s.cycle + 1)
      else if serialFinal x n then
        let due := acquireDue s (.ctx d set) (s.cycle + 2)
        ccHold (ccLand (noteAcquire s (.ctx d set) due) (due - s.cycle) [.ccPred set f.d.toNat true]) due
      else
        let ticks := f.num.toNat % 0x100000
        let deadline := if ticks = 0 then none else some (s.cycle + 25 * ticks)
        let s := ccWait s (.serial n f.d.toNat deadline)
        match deadline with
        | some t => at' s t (.twaitTimeout d set)
        | none => s
  else s)

/-- TWAIT_TIMEOUT: a TWAIT whose time has passed writes 0 (R121); the 0 lands in the cycle after the deadline (entry 121). -/
def execTwaitTimeout (d set : Nat) (s : State) : Out :=
  .next (match ((ctlOf s d).ctxOf set).wait with
  | .serial _ pd (some t) => if t ≤ s.cycle then ccOutcome s d set (s.cycle + 1) [.ccPred set pd false] else s
  | _ => s)

/-! ## Window settings (R117) -/

/-- WINCFG: it takes effect when the checker matches it. -/
def ccWincfg (h : Hdr) (f : FS) (s : State) (sel : Nat) : Out :=
  .next (if ccHolds h s then
    let c := ctlOf s s.focus.die
    let v := ccGet s f.a
    if sel < 2 && !c.monitor then ccTrapHere s .prot 0
    else if sel = 1 && bit v 0 && !(dieOf s s.focus.die).letterboxBit then ccTrapHere s .prot 0
    else ccHold (outward s 8 (.wincfg sel v (if c.monitor then c.pctx else c.ctx))) (s.cycle + 8)
  else s)

/-- WINCFG SEL 0: dispatch hold. -/
def execWincfgDispatchHold (h : Hdr) (f : FS) (s : State) : Out := ccWincfg h f s 0

/-- WINCFG SEL 1: letterbox accept. -/
def execWincfgLetterboxAccept (h : Hdr) (f : FS) (s : State) : Out := ccWincfg h f s 1

/-- WINCFG SEL 2: priority ceiling. -/
def execWincfgPriorityCeiling (h : Hdr) (f : FS) (s : State) : Out := ccWincfg h f s 2

/-- A window setting takes effect, truncated to its width. -/
def matchWincfg (s : State) (d sel : Nat) (v : Word) (ctx : Nat) : State :=
  match sel with
  | 0 => onDie s d (fun x => { x with holdDispatch := bit v 0 })
  | 1 => onDie s d (fun x => { x with acceptPosts := bit v 0 })
  | _ => onCtl s d (fun c => c.onCtx ctx (fun x => { x with ceiling := bits v 2 0 }))

end Sys2Proof.Machine
end

