-- ==== Sys2Proof/Machine/CcVint.lean ====
section
/-! DEFINITION. Control core: vintages (R122 to R124, R306, R307). -/

namespace Sys2Proof.Machine

/-- The vintages of an address space that are not FREE, vintage 0 left out. -/
def Space.used (a : Space) : Nat := (a.vints.filter (fun v => v.1 ≠ 0 && v.2 != .free)).length

/-- The lowest-numbered FREE vintage that VALLOC may take now. -/
def Space.next (a : Space) : Option Nat :=
  if a.vlim ≤ a.used then none
  else ((List.range 4095).map (fun i => i + 1)).find? (fun v => tget a.vints v .free == .free)

/-- The state of a vintage: 0 is always LIVE. -/
def Space.stateOf (a : Space) (v : Nat) : VintState := if v = 0 then .live else tget a.vints v .free

/-- A VALLOC that has left the core: a vintage that becomes LIVE, the news that there is none, or a wait in order of arrival. -/
def matchValloc (s : State) (d : Nat) (o : Outward) (dst : Nat) (nb : Option Nat) : State :=
  let asid := setAsid s d o.set
  let a := spaceOf s asid
  match a.next, nb with
  | some v, _ =>
    let s := onSpace s asid (fun a => { a with vints := tput a.vints v .live })
    ccDeliver s d o.set (s.cycle + 40) ([.cc o.set dst (BitVec.ofNat 64 v)] ++ (match nb with | some p => [.ccPred o.set p true] | none => []))
  | none, some p => ccDeliver s d o.set (s.cycle + 40) [.cc o.set dst 0, .ccPred o.set p false]
  | none, none =>
    let w : VintWaiter := { die := d, set := o.set, dst := dst, at_ := s.cycle }
    let earlier (y : VintWaiter) : Bool := y.at_ < w.at_ || (y.at_ = w.at_ && (y.die < d || (y.die = d && y.set < o.set)))
    let s := onSpace s asid (fun a => { a with waiters := a.waiters.filter earlier ++ [w] ++ a.waiters.filter (fun y => !earlier y) })
    onCtl s d (fun c => c.onCtx o.set (fun y => { y with wait := .vintage, state := .waiting }))

/-- Waiting VALLOCs served in order while a vintage is to be had; each lands 40 cycles after it is (entry 172). -/
def serveVallocs (s : State) (asid : Nat) : Nat → State
  | 0 => s
  | fuel + 1 =>
    let a := spaceOf s asid
    match a.waiters, a.next with
    | w :: rest, some v =>
      let s := onSpace s asid (fun a => { a with waiters := rest, vints := tput a.vints v .live })
      serveVallocs (ccDeliver s w.die w.set (s.cycle + 40) [.cc w.set w.dst (BitVec.ofNat 64 v)]) asid fuel
    | _, _ => s

/-- VALLOC (R123). -/
def execValloc (h : Hdr) (f : FS) (s : State) : Out :=
  .next (if ccHolds h s then
    if (ctlOf s s.focus.die).monitor then ccTrapHere s .prot 0 else ccBlock (outward s 8 (.valloc f.d.toNat none))
  else s)

/-- VALLOC.NB (R123). -/
def execVallocNb (h : Hdr) (f : FS) (s : State) : Out :=
  .next (if ccHolds h s then
    if (ctlOf s s.focus.die).monitor then ccTrapHere s .prot 0
    else ccBlock (outward s 8 (.valloc f.d.toNat (some (f.num.toNat % 8))))
  else s)

/-- VRET: a LIVE vintage becomes RETIRING (R123, R124). -/
def execVret (h : Hdr) (f : FS) (s : State) : Out :=
  .next (if ccHolds h s then
    let v := (ccGet s f.a).toNat
    let asid := ccAsid s
    if v = 0 || 4095 < v || (spaceOf s asid).stateOf v != .live then ccTrapHere s .vintageState (BitVec.ofNat 64 v)
    else outward s 8 (.vret asid v)
  else s)

/-- A VRET matched by the checker. -/
def matchVret (s : State) (d : Nat) (o : Outward) (asid v : Nat) : State :=
  if (spaceOf s asid).stateOf v != .live then ccLateTrap s d o .vintageState (BitVec.ofNat 64 v)
  else settleCounts (onSpace s asid (fun a => { a with vints := tput a.vints v .retiring }))

/-- The record of a fold task (R307). -/
def foldRecord (asid v ceiling : Nat) : List Word :=
  [fieldAt 1 0 ||| fieldAt (min 7 ceiling) 4, 0, fieldAt 1 36 ||| fieldAt asid 12 ||| fieldAt v 0] ++ List.replicate 29 0

/-- VFOLD: a fold task is posted to the own die's window (R123, R307); the vintage is checked at the word, and not again when the post
reaches the window (entry 122). -/
def execVfold (h : Hdr) (f : FS) (s : State) : Out :=
  .next (if ccHolds h s then
    let c := ctlOf s s.focus.die
    let v := (ccGet s f.a).toNat
    let asid := ccAsid s
    let slot := if f.num.toNat % 64 = 0 then 0 else (numReg5 s f).toNat + 1
    if c.monitor then ccTrapHere s .prot 0
    else if v = 0 || 4095 < v || (spaceOf s asid).stateOf v != .live then ccTrapHere s .vintageState (BitVec.ofNat 64 v)
    else if slot ≠ 0 && (slot - 1) % 64 ≠ 0 then ccTrapHere s .align (BitVec.ofNat 64 (slot - 1))
    else if slot ≠ 0 && !pageOk s asid (slot - 1) true then ccTrapHere s .prot (BitVec.ofNat 64 (slot - 1))
    else
      let q := { postReq s f.d.toNat none with recs := [foldRecord asid v (c.ctxOf c.set).ceiling], slots := [slot], foldOf := some v }
      ccBlock (outPost s 0 (.post q 0 slot 1))
  else s)

/-- The cells of a vintage that are materialised. -/
def cellCount (s : State) (asid v : Nat) : Nat := (s.cells.filter (fun c => c.asid = asid && c.vint = v)).length

/-- The code of a vintage's state (R123). -/
def VintState.code : VintState → Nat
  | .free => 0 | .live => 1 | .retiring => 2 | .folding => 3

/-- VQUERY SEL 0: a vintage's state and its cells (R123). -/
def execVqueryState (h : Hdr) (f : FS) (s : State) : Out :=
  .next (if ccHolds h s then
    let v := (ccGet s f.a).toNat
    let asid := ccAsid s
    if v = 0 || 4095 < v then ccTrapHere s .vintageState (BitVec.ofNat 64 v)
    else
      let x := fieldAt ((spaceOf s asid).stateOf v).code 0 ||| fieldAt (cellCount s asid v) 16
      ccHold (ccLand s 40 [.cc (ccSet s) f.d.toNat x]) (s.cycle + 40)
  else s)

/-- VQUERY SEL 1: the vintages VALLOC could take now (R123). -/
def execVqueryAvailable (h : Hdr) (f : FS) (s : State) : Out :=
  .next (if ccHolds h s then
    let a := spaceOf s (ccAsid s)
    ccHold (ccLand s 40 [.cc (ccSet s) f.d.toNat (BitVec.ofNat 64 (min (4095 - a.used) (a.vlim - a.used)))]) (s.cycle + 40)
  else s)

/-- VINTAGE_FREE: the cells of a RETIRING vintage are freed, those still being made among them, its deposits, which no cell is left for, go,
and its translations are shot down; it becomes FREE when that is complete (R280, R306). -/
def execVintageFree (asid vint : Nat) (s : State) : Out :=
  .next (if liveRecords s asid vint ≠ 0 || !((spaceOf s asid).stateOf vint == .retiring || (spaceOf s asid).stateOf vint == .folding) then s
  else
    let held := (s.cells.filter (fun c => c.asid = asid && c.vint = vint)).map (fun c => (c.frame, c.size))
      ++ (s.making.filter (fun m => m.asid = asid && m.vint = vint)).map (fun m => (m.frame, m.size))
    let mine := held.map (fun r => r.1)
    let s := { s with cells := s.cells.filter (fun c => !(c.asid = asid && c.vint = vint)),
                      making := s.making.filter (fun m => !(m.asid = asid && m.vint = vint)),
                      cellWaits := s.cellWaits.filter (fun w => !(w.asid = asid && w.vint = vint)),
                      poste := s.poste.filter (fun p => !(p.asid = asid && p.vint = vint
                        && (match mappedLeaf s asid p.va with | some l => l.vintaged | none => false))) }
    let s := mine.foldl (fun s frame => match poolDie frame with
      | some d => onDie s d (fun x => { x with renameUsed := x.renameUsed.filter (fun u => u.1 != frame - poolBase d) })
      | none => s) s
    startShootdown s asid (some vint) 0 (2 ^ 56) (some held) (.free asid vint))

end Sys2Proof.Machine
end

