-- ==== Sys2Proof/Machine/CcSys.lean ====
section
/-! DEFINITION. Control core: WAIT, system registers, traps and returns, contexts, the checker (R96 to R104, R125 to R127, R402, R403,
R415, R416). -/

namespace Sys2Proof.Machine

/-! ## Contexts (R96) -/

/-- The control core hands over to another RUNNABLE context, when there is one: its first word issues 12 cycles after the last. -/
def switchCtx (s : State) (d : Nat) : State :=
  match (ctlOf s d).nextCtx with
  | none => s
  | some n => onCtl s d (fun c => c.load n)

/-- CTXSW: the context yields and stays RUNNABLE (R96, R126). -/
def execCtxsw (h : Hdr) (_ : FS) (s : State) : Out :=
  .next (if ccHolds h s then
    if (ctlOf s s.focus.die).monitor then ccTrapHere s .prot 0 else switchCtx s s.focus.die
  else s)

/-- CONTEXT_QUANTUM_SWITCH: a context that has issued 65,536 words gives way to another RUNNABLE one (R96). -/
def execContextQuantumSwitch (d : Nat) (s : State) : Out :=
  .next (let c := ctlOf s d
    if !c.monitor && 65536 ≤ (c.ctxOf c.ctx).issued then switchCtx s d else s)

/-! ## WAIT (R125) -/

/-- The trap of a control core's WAIT that selects some conditions: kinds 1 and 2 are not valid there (R44, R125). -/
def ccCondTrap (ws : List Word) : Option (Cause × Nat) :=
  if ws.any (fun w => !condLegal 6 w || condKind w = 1 || condKind w = 2) then some (.reservedField, 0)
  else (ws.find? (fun w => ((condKind w = 3 || condKind w = 4) && bits w 55 0 % 8 ≠ 0) || (condKind w = 5 && bits w 55 0 % 64 ≠ 0))).map
    (fun w => (.align, bits w 55 0))

/-- What a re-read of a condition finds: whether it holds, or the trap it meets; a page that is not resident does not hold, and
one that the pager could not make resident is PROT (R296). -/
def ccCond (s : State) (d set : Nat) (w : Word) : Except (Cause × Nat) Bool × State :=
  if condKind w = 0 then (.ok false, s)
  else
    let asid := setAsid s d set
    let va := bits w 55 0
    let r := splitAccess d none asid 0 { write := false, raw := true, ordered := false, hostTrap := false } va 8 s
    match r.2.1 with
    | some (.trap c _ at_) => (.error (c, at_), r.2.2)
    | some (.absent at_ l _) =>
      if pageFailed r.2.2 asid l.va (.ctx d set) then (.error (.prot, at_), r.2.2)
      else (.ok false, requestPage r.2.2 asid 0 false l (some (.ctx d set)))
    | none =>
      let b := readRuns r.2.2 (.ctx d set) d 32 r.2.2.seq (runsOf r.1)
      let v := leNat b.1
      if b.2.1 then (.error (.uncorrectable, 0), b.2.2)
      else (.ok (match condKind w with
        | 3 => v ≠ 0
        | 4 => v = 0
        | _ => let st := v / 2 ^ 48 % 16; 7 ≤ st && st ≤ 9), b.2.2)

/-- The parts of memory that a condition of a set reads. -/
def condParts (s : State) (d set : Nat) (w : Word) : List Part :=
  if condKind w = 0 then []
  else (splitAccess d none (setAsid s d set) 0 { write := false, raw := true, ordered := false, hostTrap := false } (bits w 55 0) 8 s).1

/-- The cycle before which the barrier objects of other dies among a set's conditions do not answer (R321). -/
def condsHold (s : State) (d set : Nat) (ws : List Word) : Nat :=
  ws.foldl (fun acc w => max acc (barrierHold s d (runsOf (condParts s d set w)))) 0

/-- The cycle before which the memory conditions of a set are not read: its earlier accesses come first where the pages' kinds, a fence or an
overlap order them (R315, R322). -/
def condsBound (s : State) (d set : Nat) (ws : List Word) : Nat :=
  ws.foldl (fun acc w => max acc (ccReadBound s d set (condParts s d set w))) 0

/-- The conditions of a WAIT re-read one after another. -/
def ccConds (d set : Nat) : List Word → State → Except (Cause × Nat) (List Bool) × State
  | [], s => (.ok [], s)
  | w :: rest, s =>
    let r := ccCond s d set w
    match r.1 with
    | .error e => (.error e, r.2)
    | .ok b =>
      let q := ccConds d set rest r.2
      (match q.1 with | .ok bs => .ok (b :: bs) | .error e => .error e, q.2)

/-- The cycle before which a set's WAIT reads no memory: its earlier stores have left through the checker, and the releases among its earlier
accesses are performed, which come before the acquire that a re-read is (R103, R315, R329). -/
def ccSettled (s : State) (d set : Nat) : Nat :=
  ((ctlOf s d).outward.filter (fun o => o.set = set)).foldl (fun acc o => match o.act with
    | .store _ _ _ _ _ _ => max acc (max o.due (s.cycle + 1))
    | _ => acc) (acquireDue s (.ctx d set) 0)

/-- A re-read of a waiting set's conditions; what a bank rebuilds comes later (R285). A trap is taken at the WAIT when its set runs; a set that is not loaded meets it when
it issues the WAIT again; in monitor mode it waits for the next re-read. What the set was told of failed pages is over with the trap. The 1 of a
WAIT that is satisfied lands in the cycle of this re-read (entry 173). -/
def ccReread (s : State) (d set from_ : Nat) : State :=
  let c := ctlOf s d
  match (c.ctxOf set).wait with
  | .conds all ws pd _ =>
    let r := ccConds d set ws s
    let free := max (ccSettled s d set) (condsBound s d set ws)
    if s.cycle < free then at' s free (.waitReread (.cc d))
    else match r.1 with
    | .error (cause, info) =>
      if c.monitor then toldUntil r.2 (.ctx d set) (s.cycle + 64)
      else
        let kept := toldUntil r.2 (.ctx d set) (if c.ctx = set then s.cycle else s.cycle + 2 ^ 40)
        let t := ccWake (onCtl kept d (fun c => c.onCtx set (fun x => { x with regs := { x.regs with pc := x.regs.pc - 8 } }))) d set s.cycle
        if c.ctx = set then ccTrap t d ((c.ctxOf set).regs.pc - 8) cause (BitVec.ofNat 64 info) else t
    | .ok bs =>
      if ws.any (fun w => rebuilds s (runsOf (condParts s d set w))) then at' r.2 (s.cycle + rebuildDelay) (.waitReread (.cc d))
      else if if all then bs.all id else bs.any id then
        ccOutcome r.2 d set (max (s.cycle + from_) (condsHold s d set ws)) [.ccPred set pd true]
      else r.2
  | _ => s

/-- Whether a set waits on conditions. -/
def Ctx.onConds (x : Ctx) : Bool := match x.wait with | .conds _ _ _ _ => true | _ => false

/-- The next re-read of a die's waiting contexts, 64 cycles on, unless one is set. -/
def nextReread (s : State) (d : Nat) : State :=
  if (ctlOf s d).ctxs.any (fun x => x.2.onConds) && !s.timers.any (fun t => t.2 == .waitReread (.cc d)) then
    at' s (s.cycle + 64) (.waitReread (.cc d))
  else s

/-- The re-reads of every waiting context of a die. -/
def ccRereadAll (s : State) (d : Nat) : State :=
  nextReread ((List.range 8).foldl (fun s n => ccReread s d n 0) s) d

/-- The waits of a die whose time has passed end with 0. -/
def ccWaitTimeouts (s : State) (d : Nat) : State :=
  (List.range 8).foldl (fun s n =>
    match ((ctlOf s d).ctxOf n).wait with
    | .conds _ _ pd (some t) => if t ≤ s.cycle then ccOutcome s d n s.cycle [.ccPred n pd false] else s
    | _ => s) s

/-- WAIT: the context waits as WAITING (R125). -/
def ccWaitWord (h : Hdr) (f : FW) (s : State) : Out :=
  .next (if ccHolds h s then
    let d := s.focus.die
    if (ctlOf s d).monitor then ccTrapHere s .prot 0
    else
      let set := ccSet s
      let ws := selected f.wmask ((List.range 4).map (fun i => (ccRegs s).get (32 + i)))
      match ccCondTrap ws with
      | some (c, va) => ccTrapHere s c (BitVec.ofNat 64 va)
      | none =>
        let deadline := if f.timeout = 0 then none else some (s.cycle + 25 * f.timeout.toNat)
        let s := ccWait s (.conds (f.all = 1) ws f.pd.toNat deadline)
        let s := match deadline with | some t => at' s t (.waitTimeout (.cc d)) | none => s
        nextReread (ccReread s d set 1) d
  else s)

/-- WAIT.ANY of a context. -/
def execCcWaitAny (h : Hdr) (f : FW) (s : State) : Out := ccWaitWord h f s

/-- WAIT.ALL of a context. -/
def execCcWaitAll (h : Hdr) (f : FW) (s : State) : Out := ccWaitWord h f s

/-! ## TRAP, ERET, HALT, NOP (R97, R98, R126) -/

/-- TRAP: monitor mode with cause 0, EINFO = NUM, and EPC at the word after. -/
def execTrap (h : Hdr) (f : FS) (s : State) : Out :=
  .next (if ccHolds h s then ccTrap s s.focus.die (s.focus.pc + 8) .none (f.num.setWidth 64) else s)

/-- ERET (R98). -/
def execEret (h : Hdr) (_ : FS) (s : State) : Out :=
  .next (if ccHolds h s then
    if !(ctlOf s s.focus.die).monitor then ccTrapHere s .prot 0 else onCtl s s.focus.die (fun c => c.ret (s.cycle + 2))
  else s)

/-- HALT: a context becomes DONE; the monitor idles until an event, or takes one that is held (R97, R126). -/
def execCcHalt (h : Hdr) (_ : FS) (s : State) : Out :=
  .next (if ccHolds h s then
    let d := s.focus.die
    if (ctlOf s d).monitor then
      onCtl s d (fun c => { c with mon := { c.mon with state := .waiting, wait := .idle } }.takeEvent (s.cycle + 1))
    else settleLaunches (ccOn s (fun x => { x with state := .done }))
  else s)

/-- NOP: one cycle. -/
def execNop (_ : Hdr) (_ : FS) (s : State) : Out := .next s

/-- MONITOR_EVENT: a monitor event of a die is taken or held (R97). -/
def execMonitorEvent (d code : Nat) (s : State) : Out := .next (postEvent s d code)

/-! ## System registers (R99 to R101, R402, R415) -/

/-- The state of a context as CTXST codes it. -/
def CtxState.code : CtxState → Nat
  | .free => 0 | .runnable => 1 | .waiting => 2 | .done => 3

/-- The context that runs or was interrupted. -/
def Ctl.graphCtx (c : Ctl) : Nat := if c.monitor then c.pctx else c.ctx

/-- A hotness counter of a logical core: what the shard that runs there has counted, in its earlier runs too (R309). -/
def hotOf (s : State) (d c tag : Nat) (stall : Bool) : Nat :=
  let x := coreOf s d c
  let own := tget (if stall then x.hotStall else x.hotBytes) tag 0
  match x.task with
  | some t => (match (entryOf s t.wdie t.serial).bind (fun e => e.shards[t.shard]?) with
    | some y => min hotMost (own + tget (if stall then y.hotStall else y.hotBytes) tag 0)
    | none => own)
  | none => own

/-- The unit whose score a system register holds. -/
def scoreReg (d n : Nat) : Option HwUnit :=
  if 0x200000 ≤ n ∧ n < 0x200200 then some (.plot d ((n - 0x200000) / 16) (n % 16))
  else if 0x250000 ≤ n ∧ n < 0x250020 then some (.core d (n - 0x250000))
  else if 0x250100 ≤ n ∧ n < 0x250110 then some (.poolGroup d (n - 0x250100))
  else if 0x250200 ≤ n ∧ n < 0x250204 then some (.link d (n - 0x250200))
  else if 0x260000 ≤ n ∧ n < 0x260800 then some (.pch ((n - 0x260000) / 512) (n % 512))
  else if 0x261000 ≤ n ∧ n < 0x261010 then some (.fport ((n - 0x261000) / 4) (n % 4))
  else none

/-- The value of a listed system register. -/
def sysRead (s : State) (d n : Nat) : Word :=
  let x := dieOf s d
  let c := x.ctl
  if n = 0 then fieldAt c.mas 32 ||| fieldAt c.pctx 12 ||| fieldAt (cond c.pmode 1 0) 11 ||| fieldAt c.ctx 8 ||| fieldAt (cond c.monitor 1 0) 0
  else if n = 1 then c.tvec
  else if n = 2 then c.epc
  else if n = 3 then c.ecause
  else if n = 4 then c.einfo
  else if n = 5 then c.escratch
  else if n = 0x10 then fieldAt d 8 ||| fieldAt c.graphCtx 0
  else if n = 0x11 then BitVec.ofNat 64 s.cycle
  else if n = 0x12 then BitVec.ofNat 64 (tickOf s.cycle)
  else if n = 0x13 then (match launchOf s (c.ctxOf c.graphCtx).launch with | some l => l.seed | none => 0)
  else if n = 0x14 then fieldAt (s.devid.getD 0) 0
  else if n = 0x15 then fieldAt (spaceOf s (setAsid s d c.set)).vlim 0
  else if n = 0x20 then BitVec.ofNat 64 ((List.range 8).foldl (fun a i => a + (c.ctxOf i).state.code * 4 ^ i) 0)
  else if 0x100000 ≤ n ∧ n ≤ 0x103FFF then BitVec.ofNat 64 (hotOf s d (n / 512 % 32) (n / 2 % 256) (n % 2 = 1))
  else if n = 0x210000 then fieldAt x.thresh 0
  else if n = 0x220000 then x.inj
  else if n = 0x220001 then x.injmem
  else if n = 0x230000 then x.testrec
  else if n = 0x240000 then BitVec.ofNat 64 x.errcnt
  else if 0x240100 ≤ n ∧ n < 0x240200 then
    let r := tget x.errors ((n - 0x240100) / 4) { w0 := 0, w1 := 0, w2 := 0, w3 := 0 }
    (match n % 4 with | 0 => r.w0 | 1 => r.w1 | 2 => r.w2 | _ => r.w3)
  else if n = 0x270000 then BitVec.ofNat 64 fenceBase
  else match scoreReg d n with
    | some u => fieldAt (scoreOf s u) 0
    | none => 0

/-- Whether graph mode may reach a system register at all (R99). -/
def sysGraph (n : Nat) : Bool := n = 0 || (0x10 ≤ n && n ≤ 0x15) || n = 0x20 || (0x100000 ≤ n && n ≤ 0x103FFF)

/-- Whether monitor mode may write a system register. -/
def sysWritable (n : Nat) : Bool :=
  n ≤ 5 || n = 0x15 || n = 0x20 || n = 0x210000 || n = 0x220000 || n = 0x220001 || (scoreReg 0 n).isSome

/-- The trap of an access to a system register in the mode that runs (R99). -/
def sysTrap (monitor write : Bool) (n : Nat) : Option Cause :=
  if !monitor && !sysGraph n then some .prot
  else if write && !(if monitor then sysWritable n else n = 0x15) then some .reservedField
  else none

/-- SYSR (R99). -/
def execSysr (h : Hdr) (f : FS) (s : State) : Out :=
  .next (if ccHolds h s then
    match sysTrap (ctlOf s s.focus.die).monitor false f.num.toNat with
    | some c => ccTrapHere s c 0
    | none => ccLand s 1 [.cc (ccSet s) f.d.toNat (sysRead s s.focus.die f.num.toNat)]
  else s)

/-- SYSR of CHKCNT, which the read clears (R99). -/
def execSysrChkcnt (h : Hdr) (f : FS) (s : State) : Out :=
  .next (if ccHolds h s then
    let d := s.focus.die
    if !(ctlOf s d).monitor then ccTrapHere s .prot 0
    else onCtl (ccLand s 1 [.cc (ccSet s) f.d.toNat (BitVec.ofNat 64 (ctlOf s d).chkcnt)]) d (fun c => { c with chkcnt := 0 })
  else s)

/-- A write of a system register that the core itself holds; its read-only and reserved bits keep their values (R99 to R101). -/
def Ctl.sysPut (c : Ctl) (n : Nat) (v : Word) : Ctl :=
  match n with
  | 0 => { c with mas := bits v 39 32, pctx := bits v 14 12, pmode := bit v 11 }
  | 1 => { c with tvec := v &&& ~~~7 }
  | 2 => { c with epc := v }
  | 3 => { c with ecause := fieldAt (bits v 63 32) 32 ||| fieldAt (bits v 8 0) 0 }
  | 4 => { c with einfo := v }
  | 5 => { c with escratch := v }
  | _ => c

/-- SYSW of a register without behaviour of its own: it changes when the checker matches (R99, R103). -/
def execSysw (h : Hdr) (f : FS) (s : State) : Out :=
  .next (if ccHolds h s then
    let n := f.num.toNat
    let v := ccGet s f.a
    match sysTrap (ctlOf s s.focus.die).monitor true n with
    | some c => ccTrapHere s c 0
    | none =>
      if n = 0x210000 && !(1 ≤ v.toNat && v.toNat ≤ 65535) then ccTrapHere s .reservedField 0
      else outward s 8 (.sysw n v)
  else s)

/-- SYSW of VLIM: 1 to 4,095, in both modes (R99). -/
def execSyswVlim (h : Hdr) (f : FS) (s : State) : Out :=
  .next (if ccHolds h s then
    let v := ccGet s f.a
    if v.toNat < 1 || 4095 < v.toNat then ccTrapHere s .reservedField 0 else outward s 8 (.sysw 0x15 v)
  else s)

/-- A context's state set by the monitor (R98, R99); RUNNABLE ends its wait (entry 123). -/
def Ctx.setState (x : Ctx) (code : Nat) : Ctx :=
  match code with
  | 0 => { x with state := .free, wait := .none }
  | 1 => { x with state := .runnable, wait := .none }
  | 2 => { x with state := .waiting }
  | _ => { x with state := .done, wait := .none }

/-- The contexts' states as a value of CTXST sets them; a state that does not change keeps its context's wait. -/
def Ctl.setStates (c : Ctl) (v : Word) : Ctl :=
  (List.range 8).foldl (fun c i =>
    let code := v.toNat / 4 ^ i % 4
    if (c.ctxOf i).state.code = code then c else c.onCtx i (fun x => x.setState code)) c

/-- SYSW of CTXST: the monitor sets the states of the contexts when the checker matches it (R98, R99, R103). -/
def execSyswCtxst (h : Hdr) (f : FS) (s : State) : Out :=
  .next (if ccHolds h s then
    if !(ctlOf s s.focus.die).monitor then ccTrapHere s .reservedField 0 else outward s 8 (.sysw 0x20 (ccGet s f.a))
  else s)

/-- SYSW of INJ: in force from the cycle after the checker's match (R403). -/
def execSyswInj (h : Hdr) (f : FS) (s : State) : Out :=
  .next (if ccHolds h s then
    let v := ccGet s f.a
    if !(ctlOf s s.focus.die).monitor then ccTrapHere s .prot 0
    else if 2 ≤ bits v 30 29 || 12 ≤ bits v 18 15 then ccTrapHere s .reservedField 0
    else outward s 9 (.sysw 0x220000 v)
  else s)

/-- SYSW of INJMEM: in force from the cycle after the checker's match (R416). -/
def execSyswInjmem (h : Hdr) (f : FS) (s : State) : Out :=
  .next (if ccHolds h s then
    let v := ccGet s f.a
    if !(ctlOf s s.focus.die).monitor then ccTrapHere s .prot 0
    else if bits v 30 29 = 3 || 6 ≤ bits v 27 24 then ccTrapHere s .reservedField 0
    else outward s 9 (.sysw 0x220001 v)
  else s)

/-- What a die's INJMEM had armed is armed no longer (R416). -/
def unarm (s : State) (d : Nat) (v : Word) : State :=
  if !bit v 31 then s
  else
    let i := bits v 18 8
    match bits v 27 24 with
    | 4 => { s with injPool := tdel s.injPool (64 * d + i % 64) }
    | 5 => (match tfind s.injHub i with
      | some (_, d') => if d' = d then { s with injHub := tdel s.injHub i } else s
      | none => s)
    | t => onCore s d (bits v 23 19) (fun x => { x with inject := tdel x.inject t })

/-- An injection armed by a die's INJMEM; a channel's later arm replaces an earlier one, whose INJMEM reads ARM 0 (R416). -/
def arm (s : State) (d : Nat) (v : Word) : State :=
  if !bit v 31 then s
  else
    let m := bits v 30 29
    let i := bits v 18 8
    match bits v 27 24 with
    | 4 => { s with injPool := tput s.injPool (64 * d + i % 64) m }
    | 5 =>
      let s := match tfind s.injHub i with
        | some (_, d') => if d' = d then s else disarm s d'
        | none => s
      { s with injHub := tput s.injHub i (m, d) }
    | t => onCore s d (bits v 23 19) (fun x => { x with inject := tput x.inject t m })

/-- A SYSW matched by the checker takes effect (R99, R103); a launch may be complete by a write of CTXST (R126). VLIM in monitor mode is
that of the address space of MSTAT.MAS as it stands then (entry 124). -/
def matchSysw (s : State) (d set n : Nat) (v : Word) : State :=
  if n ≤ 5 then onCtl s d (fun c => c.sysPut n v)
  else if n = 0x20 then settleLaunches (onCtl s d (fun c => c.setStates v))
  else if n = 0x15 then
    let asid := if set = 8 then (ctlOf s d).mas else setAsid s d set
    serveVallocs (onSpace s asid (fun a => { a with vlim := v.toNat })) asid 4096
  else if n = 0x210000 then onDie s d (fun x => { x with thresh := v.toNat })
  else if n = 0x220000 then spoilTests (onDie s d (fun x => { x with inj := v &&& 0xE0FF8000 }))
  else if n = 0x220001 then
    let s := unarm s d (dieOf s d).injmem
    arm (onDie s d (fun x => { x with injmem := v &&& 0xEFFFFF00 })) d v
  else match scoreReg d n with
    | some u => setScore s u (bits v 15 0)
    | none => s

/-! ## CKPT (R127, R418) -/

/-- CKPT: an outward action; the set waits until the checkpoint ends. Allowed in both modes. -/
def execCkpt (h : Hdr) (f : FS) (s : State) : Out :=
  .next (if ccHolds h s then ccWait (outward s 8 (.ckpt (ccGet s f.a) f.d.toNat)) .ckpt else s)

/-- A CKPT matched by the checker starts a checkpoint, or joins the one in progress. -/
def matchCkpt (s : State) (d : Nat) (o : Outward) (ident : Word) (dst : Nat) : State :=
  match s.ckpt with
  | some k => { s with ckpt := some { k with joiners := k.joiners ++ [(d, o.set, dst)] } }
  | none => { s with ckpt := some { step := 1, ident := ident, joiners := [(d, o.set, dst)], since := s.cycle - 8, slot := 0 } }

/-! ## The checker (R103, R104) -/

/-- The oldest outward action of a set that is whole and due. -/
def readyOutward (now : Nat) : List Nat → List Outward → Option Outward
  | _, [] => none
  | seen, o :: rest =>
    if seen.contains o.set then readyOutward now seen rest
    else if o.whole && o.due ≤ now then some o
    else readyOutward now (o.set :: seen) rest

/-- Whether a checkpoint holds an outward action: those of graph contexts but CKPT (R418). -/
def ckptHolds (s : State) (o : Outward) : Bool :=
  s.ckpt.isSome && o.set != 8 && (match o.act with | .ckpt _ _ => false | _ => true)

/-- An outward action put off by a cycle, with the plan of a store. -/
def Outward.putOff (o : Outward) (now : Nat) : Outward :=
  { o with due := max o.due now + 1, act := (match o.act with
    | .store asid va ps kind rel plan => .store asid va ps kind rel (plan.later 1)
    | a => a) }

/-- A context that a checkpoint holds at an outward action stands still for a cycle (R418): it issues nothing, its later actions wait, what it has
under way lands a cycle later, and the order of its accesses is kept (entry 167). -/
def holdSet (s : State) (d set : Nat) : State :=
  let mine (l : Landing) : Bool := decide (s.cycle < l.due) && l.writes.any (RegWrite.ofSet set)
  let dues := ((ctlOf s d).landings.filter mine).map (fun l => l.due + 1)
  let s := onCtl { s with order := s.order.map (fun o => if o.agent == .ctx d set then o.later 1 else o) } d (fun c =>
    { (c.onCtx set (fun x => { x with ready := max x.ready s.cycle + 1 })) with
      landings := c.landings.map (fun l => if mine l then { l with due := l.due + 1 } else l)
      outward := c.outward.map (fun o => if o.set = set then o.putOff s.cycle else o) })
  let acts : List (Nat × Instr) := ((ctlOf s d).outward.filter (fun o => o.set = set)).map (fun o : Outward => (o.due, Instr.checkerMatch d true))
  let lands : List (Nat × Instr) := dues.map (fun t => (t, Instr.resultLand (.ctl d)))
  { s with timers := s.timers ++ (acts ++ lands).filter (fun t => !s.timers.contains t) }

/-- Whether the result of an action comes after its match, its set blocked until then. -/
def OutAct.awaited : OutAct → Bool
  | .store _ _ _ _ _ _ => false
  | .vret _ _ => false
  | .wincfg _ _ _ => false
  | .sysw _ _ => false
  | _ => true

/-- A write that the checker has matched: it goes out through the translation as it now stands; one whose page has changed since it issued
traps, or waits for its page (R111, R295). -/
def matched (s : State) (d : Nat) (o : Outward) (asid va n : Nat) (release : Bool) (go : State → List Part → State) : State :=
  let r := splitAccess d none asid 0 { write := true, raw := true, ordered := release, hostTrap := true } va n s
  match r.2.1 with
  | some (.trap c _ at_) => ccLateTrap r.2.2 d o c (BitVec.ofNat 64 at_)
  | some (.absent _ l _) =>
    if pageFailed r.2.2 asid l.va (.ctx d o.set) then ccLateTrap (tookFailure r.2.2 asid l.va (.ctx d o.set)) d o .prot (BitVec.ofNat 64 va)
    else
      let t := requestPage r.2.2 asid 0 true l (some (.ctx d o.set))
      at' (onCtl t d (fun c => { c with outward := { o with due := s.cycle + 64 } :: c.outward })) (s.cycle + 64) (.checkerMatch d true)
  | none => go r.2.2 r.1

/-- A matching action takes effect. -/
def performOutward (s : State) (d : Nat) (o : Outward) : State :=
  match o.act with
  | .store asid va parts kind release plan =>
    let bs := parts.flatMap (fun p => p.2)
    matched s d o asid va bs.length release (fun s ps =>
      (issueBound s (.ctx d o.set) d 32 kind release (ps.foldl (fun m p => max m (s.cycle + pathLat s d p.pa)) s.cycle) s.cycle
        (.bytes (dealBytes ps bs)) plan).1)
  | .amo op asid va size operand cmp dst => matched s d o asid va size false (fun s ps => match ps with
    | [] => s
    | p :: _ => (issueWrite s (.ctx d o.set) d 32 p.leaf.kind false (s.cycle + pathLat s d p.pa)
        (.amo op p.pa size operand cmp (.ctl d) (.cc o.set dst) 0)).1)
  | .post q _ _ _ => matchPost s d q
  | .rpost q _ dev die => matchRpost s d q dev die
  | .cancel serial dev die dst => matchCancel s d o serial dev die dst
  | .valloc dst nb => matchValloc s d o dst nb
  | .vret asid v => matchVret s d o asid v
  | .wincfg sel v ctx => matchWincfg s d sel v ctx
  | .sysw n v => matchSysw s d o.set n v
  | .ckpt ident dst => matchCkpt s d o ident dst

/-- A set back at its last shadow: its actions still to match are dropped, its registers and the results still to land are the
shadow's (R104). A set whose shadow's action is still to bring its result has run no word since, and goes on waiting for it. Where
monitor mode interrupted the set, EPC names the word it goes on at. -/
def restoreShadow (s : State) (d set ready : Nat) : State :=
  match tfind (ctlOf s d).shadows set with
  | none => s
  | some sh =>
    let s := onCtl s d (fun c => { c with outward := c.outward.filter (fun o => o.set ≠ set) })
    if sh.awaits then s
    else
      let s := onCtl s d (fun c =>
        let c := { c with landings := c.landings.filter (fun l => !l.writes.any (RegWrite.ofSet set))
                          epc := if c.monitor && !c.pmode && set != 8 && c.pctx = set then BitVec.ofNat 64 sh.regs.pc else c.epc }
        c.onCtx set (fun x => { x with regs := sh.regs, wait := .none, state := .runnable, ready := ready }))
      sh.landings.foldl (fun s l => landOf s (.ctl d) l.at_ l.pc l.due l.writes) s

/-- The set whose action did not match runs again (entry 52): the entry of monitor mode that followed the action is undone, its event held
again, unless an action of the monitor has matched since; a return that followed an action of the monitor is undone with what the
context has run since. -/
def backTo (s : State) (d set ready : Nat) : State :=
  let c := ctlOf s d
  if set = 8 then
    if c.monitor then s else restoreShadow (onCtl s d (fun c => { c with monitor := true })) d c.ctx ready
  else if !c.monitor then onCtl s d (fun c => { c with ctx := set })
  else if !c.acted && !c.pmode && c.pctx = set then
    onCtl s d (fun c => { c with
      monitor := false, ctx := set, outward := c.outward.filter (fun o => o.set ≠ 8)
      events := (if bit c.ecause 8 then [bits c.ecause 63 32] else []) ++ c.events })
  else s

/-- Every context of a die that runs, and its monitor where that runs, back at its last shadow (R104, R276). -/
def restoreDie (s : State) (d ready : Nat) : State :=
  (List.range 9).foldl (fun s set =>
    let c := ctlOf s d
    let st := (c.ctxOf set).state
    if (if set = 8 then !c.monitor || c.mon.wait == .idle else st == .free || st == .done) then s else restoreShadow s d set ready) s

/-- A mismatch counted against the shadow that a set goes back to (R104). -/
def countMiss (s : State) (d set : Nat) : State :=
  onCtl s d (fun c => match tfind c.shadows set with
    | some sh => { c with shadows := tput c.shadows set { sh with misses := sh.misses + 1 } }
    | none => c)

/-- A mismatch at an action: counted, recorded, and the set goes back to its last shadow. A second one from the same shadow fences the
control pair: each die that it served is served by the next pair, which resumes every context from its shadow (R104, R276, R411). -/
def mismatch (s : State) (d : Nat) (o : Outward) : State :=
  let again := match tfind (ctlOf s d).shadows o.set with | some sh => decide (1 ≤ sh.misses) | none => false
  let p := pairOf s d
  let ready := s.cycle + 64
  let s := backTo (countMiss (onCtl s d (fun c => { c with chkcnt := c.chkcnt + 1 })) d o.set) d o.set ready
  let s := if again then
      let served := (List.range 8).filter (fun e => pairOf s e = p)
      served.foldl (fun s e => restoreDie s e ready) (restoreShadow { s with fencedPairs := s.fencedPairs ++ [p] } d o.set ready)
    else restoreShadow s d o.set ready
  logError s d (if again then 0x4004 else 0x4003) 0x42 { kind := 9, place := p, index := 0, sub := 0 } 0 0

/-- A whole action that the checker has matched takes effect, unless a checkpoint holds it, and the state after its word becomes its set's
shadow. -/
def matchOutward (s : State) (d : Nat) (o : Outward) : State :=
  if ckptHolds s o then holdSet s d o.set
  else
    let s := onCtl s d (fun c => { c with
      outward := c.outward.erase o
      shadows := tput c.shadows o.set { o.snap with awaits := o.act.awaited }
      acted := c.acted || decide (o.set = 8) })
    let s := performOutward s d o
    match readyOutward s.cycle [] (ctlOf s d).outward with
    | some _ => later s (.ev (.checkerMatch d true))
    | none => s

/-- CHECKER_MATCH: the posts whose records are due are read, those matched four cycles before reach the window, and the checker produces
the oldest action due; or the oldest action of the die does not match (R103, R104, R115). -/
def execCheckerMatch (d : Nat) (same : Bool) (s : State) : Out :=
  .next (if same then
    let s := ((ctlOf s d).outward.filter (fun o => !o.whole && decide (o.due ≤ s.cycle))).foldl (fun s o => readPost s d o) s
    let s := handDue s d
    match readyOutward s.cycle [] (ctlOf s d).outward with
    | none => s
    | some o => matchOutward s d o
  else match (ctlOf s d).outward.find? (fun o => o.whole) with
    | none => s
    | some o => mismatch s d o)

end Sys2Proof.Machine
end

