-- ==== Sys2Proof/Machine/Moves.lean ====
section
/-! DEFINITION. What the engines read and write: parameters, formats, bytes and elements of memory and of the typed buffers (R82 to R87,
R131, R146, R151 to R153, R296, R297, R433). -/

namespace Sys2Proof.Machine

/-! ## Parameters (R151) -/

/-- SPACE of an ADDR: 0 virtual, 1 WB, 2 AB, 3 CB. -/
def adrSpace (w : Word) : Nat := bits w 63 60

/-- Whether an ADDR keeps its layout. -/
def adrOk (w : Word) : Bool :=
  decide (adrSpace w ≤ 3) && (if adrSpace w = 0 then bits w 59 56 = 0 else bits w 59 24 = 0)

/-- The virtual address or the buffer offset of an ADDR. -/
def adrBase (w : Word) : Nat := if adrSpace w = 0 then bits w 55 0 else bits w 23 0

/-- Whether a SHAPE keeps its layout. -/
def shapeOk (w : Word) : Bool := bits w 23 0 != 0 && bits w 39 24 != 0 && bits w 63 40 = 0

/-- Whether a CTRL keeps its layout. -/
def ctrlOk (w : Word) : Bool := !bit w 4 && decide (bits w 3 0 ≤ 13)

/-- The signed stride in bits 31:0. -/
def loStride (w : Word) : Int := signedOf 32 (bits w 31 0)

/-- The signed stride in bits 63:32. -/
def hiStride (w : Word) : Int := signedOf 32 (bits w 63 32)

/-- The barrier of a CTRL, or 0. -/
def ctrlBarrier (w : Word) : Nat := bits w 55 5 * 32

/-- A side of a copy: its space, its first byte, its row stride, and whether its rows are found through the index list. -/
structure Side where
  space   : Nat
  base    : Nat
  stride  : Int
  indexed : Bool
  deriving DecidableEq, Repr

/-- A side named by an ADDR. -/
def sideOf (w : Word) (stride : Int) : Side := { space := adrSpace w, base := adrBase w, stride := stride, indexed := false }

/-- What a command of the copy channels moves: no source for FILL, no destination for CSTREAM, a vintage of the source for COPY.V. -/
structure Xfer where
  src     : Option Side
  dst     : Option Side
  len     : Nat
  rows    : Nat
  conv    : Nat
  tag     : Nat
  barrier : Nat
  vint    : Option Nat
  deriving DecidableEq, Repr

/-- A transfer of a SHAPE under a CTRL. -/
def xferOf (src dst : Option Side) (shape ctrl : Word) : Xfer :=
  { src := src, dst := dst, len := bits shape 23 0, rows := bits shape 39 24, conv := bits ctrl 3 0, tag := bits ctrl 63 56,
    barrier := ctrlBarrier ctrl, vint := none }

/-- What a command of the copy channels moves (R153, R155, R156). -/
def xferFor (k : CmdKind) (ps : List Word) : Xfer :=
  let p := wordOf ps
  match k with
  | .copyV => { xferOf (some (sideOf (p 0) (loStride (p 3)))) (some (sideOf (p 1) (hiStride (p 3)))) (p 2) (p 4) with
                vint := some (bits (p 5) 11 0) }
  | .fill => xferOf none (some (sideOf (p 2) (hiStride (p 4)))) (p 3) (p 5)
  | .gather => xferOf (some { space := 0, base := (p 0).toNat, stride := loStride (p 3), indexed := true })
      (some (sideOf (p 5) (hiStride (p 3)))) (p 2) (p 4)
  | .scatter => xferOf (some (sideOf (p 5) (hiStride (p 3))))
      (some { space := 0, base := (p 0).toNat, stride := loStride (p 3), indexed := true }) (p 2) (p 4)
  | .cstream => xferOf (some (sideOf (p 0) (loStride (p 3)))) none (p 2) (p 4)
  | _ => xferOf (some (sideOf (p 0) (loStride (p 3)))) (some (sideOf (p 1) (hiStride (p 3)))) (p 2) (p 4)

/-- What a command moves. -/
def Cmd.xfer (m : Cmd) : Xfer := xferFor m.kind m.params

/-- Index i of the list that a GATHER or SCATTER has read. -/
def Cmd.index (m : Cmd) (i : Nat) : Int := signedOf 32 (leNat ((m.data.drop (4 * i)).take 4))

/-- Where row r of a side begins; none for the index −1. -/
def Side.row (x : Side) (m : Cmd) (r : Nat) : Option Int :=
  if x.indexed then (if m.index r = -1 then none else some (x.base + m.index r * x.stride)) else some (x.base + r * x.stride)

/-- An address as the translation takes it: beyond the address space when it is negative. -/
def vaOf (a : Int) : Nat := if a < 0 then 2 ^ 60 else a.toNat

/-! ## Formats (R81, R82, R153, R433) -/

/-- The effective format of a row side: its code, its page's geometry, and its page's own code (0 for a buffer). -/
structure SideFmt where
  code : Nat
  geom : Nat
  page : Nat
  deriving DecidableEq, Repr

/-- The effective format of a page under CONV. -/
def leafFmt (l : Leaf) (conv : Nat) : SideFmt :=
  { code := if l.fmt = 0 then conv else l.fmt, geom := l.geom, page := l.fmt }

/-- The effective format of a side at an address. -/
def sideFmt (s : State) (asid space conv : Nat) (a : Int) : SideFmt :=
  if space ≠ 0 then { code := conv, geom := 0, page := 0 }
  else match walk s asid (vaOf a) with
    | .ok l => leafFmt l conv
    | .error _ => { code := conv, geom := 0, page := 0 }

/-- Bytes of an element in memory; a bpi element counts as one. -/
def SideFmt.bytes (f : SideFmt) : Nat := if 1 ≤ f.code && f.code ≤ 9 then (elemOfCode f.code).bytes else 1

/-- Whether a copy between two formats traps FORMAT: a page of codes 10 to 13 facing a raw side, and a bpi page facing a format other than
i8 (R153). A CONV of 10 to 13 that a buffer or a raw page would have to be encoded in or decoded from, facing another format, and bpi pages
of two geometries, for which the rule gives no conversion, trap FORMAT too (entry 126). -/
def formatClash (a b : SideFmt) : Bool :=
  let one (x y : SideFmt) : Bool :=
    (decide (10 ≤ x.page) && y.code = 0) || (x.page = 10 && y.code ≠ 1 && y.code ≠ 10)
    || (decide (10 ≤ x.code) && decide (x.page < 10) && y.code ≠ x.code && y.code ≠ 0)
  one a b || one b a || (a.page = 10 && b.page = 10 && a.geom ≠ b.geom)

/-- Whether a copy between two formats converts: equal formats and a raw side move raw bytes (R153). -/
def converts (a b : SideFmt) : Bool := a.code ≠ 0 && b.code ≠ 0 && a.code ≠ b.code

/-- The bytes that a row of n elements takes on a side, when the copy converts. -/
def SideFmt.rowBytes (f : SideFmt) (conv : Bool) (n : Nat) : Nat :=
  if !conv then n else if f.code = 10 then ceilDiv (n * f.geom) 8 else n * f.bytes

/-- The formats of the pages that a row of n bytes of a side touches. -/
def rowFmts (s : State) (asid space conv : Nat) (a : Int) (n : Nat) : List SideFmt :=
  if space ≠ 0 then [sideFmt s asid space conv a]
  else match leavesFrom s asid (n / 4096 + 2) (vaOf a) (vaOf a + n) with
    | .ok ls => ls.map (fun l => leafFmt l conv)
    | .error _ => [sideFmt s asid space conv a]

/-- Whether the pages of a row side differ in their effective format (R433). -/
def mixedFmts : List SideFmt → Bool
  | [] => false
  | f :: rest => rest.any (fun g => g.code != f.code || (f.code == 10 && g.geom != f.geom))

/-! ## What an access of an engine meets -/

/-- The outcome of a part of an engine's work: done, a trap, or a wait until it is tried again. -/
inductive Got (α : Type) where
  | ok (x : α)
  | trap (c : Cause) (err va : Nat)
  | wait (again : Option Nat)
  deriving DecidableEq, Repr

/-- The agent that a command is. -/
def Cmd.agent (m : Cmd) (d c : Nat) : AgentId := .cmd d c m.id

/-- A command that waits for a page asks for it, and looks again. -/
def engineAsk {α : Type} (s : State) (d c : Nat) (m : Cmd) (asid vint va : Nat) (write : Bool) (l : Leaf) : Got α × State :=
  if pageFailed s asid l.va (.cmd d c m.id) then (.trap .prot 0 va, s)
  else (.wait (some 64), requestPage s asid vint write l (some (.cmd d c m.id)))

/-- What an engine's read of a page that is not resident does: the pager is asked; before COMMIT the command is abandoned, after it the
command waits (R152, R262). -/
def engineAbsent {α : Type} (s : State) (d c : Nat) (m : Cmd) (asid vint va : Nat) (l : Leaf) : Got α × State :=
  if (coreOf s d c).committed then engineAsk s d c m asid vint va false l
  else (.trap .prot 0x2001 va, requestPage s asid vint false l none)

/-- The parts of an engine's read of virtual memory, which waits for its translations (R293) and for a cell that is still being made; raw: a read that carries no element
type, which pages of codes 10 to 13 do not take (R82). -/
def engineParts (s : State) (d c : Nat) (m : Cmd) (vint va n : Nat) (named raw : Bool) : Got (List Part) × State :=
  let x := coreOf s d c
  let r := splitAccess d (some c) x.asid vint { write := false, raw := raw, ordered := false, hostTrap := false } va n s
  let ready := r.1.foldl (fun acc p => max acc (cellReadyAt r.2.2 p.pa)) 0
  match r.2.1 with
  | some (.trap cause e at_) => (.trap cause e at_, r.2.2)
  | some (.absent at_ l _) => engineAbsent r.2.2 d c m x.asid vint at_ l
  | none =>
    if named && namesFree r.2.2 x.asid vint (r.1.map (fun p => p.leaf)) then (.trap .vintageState 0 vint, r.2.2)
    else
      let free := max (ready - s.cycle) (r.1.foldl (fun acc p => max acc p.added) 0)
      (if 0 < free then .wait (some free) else .ok r.1, r.2.2)

/-- The bytes of some runs as a command reads them: after its own writes to them whose bytes are made at their home, and a barrier object of
another die after what has entered that die (R321); what a bank rebuilds comes later (R285). -/
def engineRuns (s : State) (d c : Nat) (m : Cmd) (va : Nat) (runs : List (Nat × Nat)) : Got (List Byte) × State :=
  let h := readHold s (m.agent d c) 0 d runs
  let free := max (overlapReach s (m.agent d c) d c true runs).rd h.1
  if s.cycle < free then (.wait (some (free - s.cycle)), h.2)
  else
    let s := h.2
    let b := readRuns s (m.agent d c) d c s.seq runs
    (if b.2.1 then .trap .uncorrectable 0 va else if rebuilds s runs then .wait (some rebuildDelay) else .ok b.1, b.2.2)

/-- The bytes of virtual memory that a command reads. -/
def engineRead (s : State) (d c : Nat) (m : Cmd) (vint va n : Nat) (named raw : Bool) : Got (List Byte) × State :=
  match engineParts s d c m vint va n named raw with
  | (.ok ps, s) => engineRuns s d c m va (runsOf ps)
  | (.trap a b e, s) => (.trap a b e, s)
  | (.wait t, s) => (.wait t, s)

/-- The bytes of a typed buffer that an engine reads. -/
def bufferRead (s : State) (d c buf off n : Nat) : Got (List Byte) × State :=
  let e := coreReadError s d c buf
  (if e.1 then .trap .uncorrectable 0 off else .ok (bytesAt (bufOf (coreOf e.2 d c) buf) off n), e.2)

/-! ## Elements (R83 to R87) -/

/-- The values of n elements of a block-scaled page, from an address. -/
def blockRead (s : State) (d c : Nat) (m : Cmd) (vint code va n : Nat) (named : Bool) : Got (List FVal) × State :=
  let first := va / 32 * 32
  match engineParts s d c m vint first (roundUp (va + n) 32 - first) named false with
  | (.trap a b e, s) => (.trap a b e, s)
  | (.wait t, s) => (.wait t, s)
  | (.ok ps, s) => match engineRuns s d c m va (runsOf ps) with
    | (.trap a b e, s) => (.trap a b e, s)
    | (.wait t, s) => (.wait t, s)
    | (.ok bs, s) => match engineRuns s d c m va (ps.map scaleRun) with
      | (.trap a b e, s) => (.trap a b e, s)
      | (.wait t, s) => (.wait t, s)
      | (.ok cs, s) =>
        let vs := List.zipWith (fun i (b : Byte) => blockValue code (cs.getD (i / 32) 0).toNat b.toNat) (List.range bs.length) bs
        (.ok ((vs.drop (va - first)).take n), s)

/-- The block of a bpi page that holds element e of a row which begins at an address, and the element's place in it: blocks are
whole in every page. -/
def bpiPlace (l : Leaf) (a e : Nat) : Nat × Nat :=
  let size := 32 * l.geom
  let k := 8 * ((a - l.va) / l.geom) + e
  let cap := l.size / size * 256
  (l.va + k / cap * l.size + k % cap / 256 * size, k % 256)

/-- The page that an address lies on, or a leaf of nothing. -/
def leafAt (s : State) (asid va : Nat) : Leaf :=
  match walk s asid va with
  | .ok l => l
  | .error _ => { va := 0, size := 4096, word := fieldAt 2 45, half2 := 0, pte := 0 }

/-- How many elements of a row a slice takes from element e on, of at most n: to the end of a block on a coded page. -/
def sliceLen (l : Leaf) (f : SideFmt) (a : Int) (e n : Nat) : Nat :=
  if f.page = 10 then min n (256 - (bpiPlace l (vaOf a) e).2) else n

/-- The values of n elements of a row of a side, from element e on. -/
def readVals (s : State) (d c : Nat) (m : Cmd) (vint space off : Nat) (f : SideFmt) (a : Int) (e n : Nat) (named : Bool) :
    Got (List FVal) × State :=
  let plain (r : Got (List Byte) × State) : Got (List FVal) × State :=
    match r with
    | (.ok bs, s) => (.ok ((List.range n).map (fun i =>
        (elemOfCode f.code).value false (leNat ((bs.drop (i * f.bytes)).take f.bytes)))), s)
    | (.trap x y z, s) => (.trap x y z, s)
    | (.wait t, s) => (.wait t, s)
  if space ≠ 0 then plain (bufferRead s d c space (off + e * f.bytes) (n * f.bytes))
  else if f.code = 10 then
    let l := leafAt s (coreOf s d c).asid (vaOf a)
    let b := bpiPlace l (vaOf a) e
    match engineRead s d c m vint b.1 (32 * f.geom) named false with
    | (.ok bs, s) => (.ok ((List.range n).map (fun i => intV (signedOf 8 (planeValue f.geom f.geom bs (b.2 + i))))), s)
    | (.trap x y z, s) => (.trap x y z, s)
    | (.wait t, s) => (.wait t, s)
  else if 11 ≤ f.code then blockRead s d c m vint f.code (vaOf a + e) n named
  else plain (engineRead s d c m vint (vaOf a + e * f.bytes) (n * f.bytes) named false)

/-! ## Writes of the engines (R152, R297) -/

/-- The bytes that a quarter of the poste restante holds. -/
def posteUsed (s : State) (hub : Nat) : Nat :=
  s.poste.foldl (fun n p => if p.hub = hub then n + 32 + roundUp p.data.length 32 else n) 0

/-- Bytes for a page that is not resident left at the poste restante of its home hub; the first deposit asks for the page. A full
quarter holds the engine up (R297). The bytes are at the hub after the path's latency, and not before what they follow. -/
def deposit (s : State) (asid vint va floor : Nat) (l : Leaf) (bs : List Byte) : Got Nat × State :=
  let hub := hubOf va
  let due := max (s.cycle + 421) floor
  if 0x4000000 < posteUsed s hub + 32 + roundUp bs.length 32 then (.wait (some 64), s)
  else
    let n := tget s.posteSeq hub 0
    let s := { s with poste := s.poste ++ [{ asid := asid, va := va, vint := vint, hub := hub, seq := n, due := due, data := bs }],
                      posteSeq := tput s.posteSeq hub (n + 1) }
    (.ok due, requestPage s asid vint true l none)

/-- Whether a translation of some parts holds as many pins as it counts: the units in flight that a die has sent through it (R295). -/
def pinsFull (s : State) (d : Nat) (ps : List Part) : Bool :=
  65535 ≤ s.writes.length && ps.any (fun p =>
    65535 ≤ (s.writes.filter (fun w => w.die = d && runsMeet w.act.runs [(p.leaf.frame, p.leaf.size)])).length)

/-- The parts of a command's write with the cells that they need: it waits until its write to a piece without a cell has reached the hub (R303),
and where no cell is free (R130, R305). -/
def engineCells (s : State) (d c : Nat) (m : Cmd) (vint : Nat) (ps : List Part) : Got (List Part) × State :=
  let walk := ps.foldl (fun n p => if p.need then max n p.added else n) 0
  if 0 < walk then (.wait (some walk), s)
  else match cellParts s (coreOf s d c).asid vint ps with
  | .error (p, _, _) =>
    if s.cellWaits.any (fun w => w.waiter == .cmd d c m.id) then (.wait none, s)
    else (.wait none, (waitForCell s s.cycle (cellSource (coreOf s d c).asid p.leaf) (coreOf s d c).asid vint p.va (.cmd d c m.id)).2)
  | .ok r => (.ok r.1, r.2)

/-- A command's write to parts already translated, once they have their cells; it waits too while a translation can count no more pins. The
rows of a SCATTER become visible in their order (R155), and the receipt of an MCAST goes out in its own cycle (R380). -/
def engineCommit (s : State) (d c : Nat) (m : Cmd) (vint : Nat) (ps : List Part) (deal : List Part → WriteAct) : Got Nat × State :=
  match engineCells s d c m vint ps with
  | (.trap a b e, s) => (.trap a b e, s)
  | (.wait t, s) => (.wait t, s)
  | (.ok qs, t) =>
    if qs.isEmpty then (.ok t.cycle, t)
    else if pinsFull s d qs then (.wait (some 1), s)
    else
      let w := issueParts t (m.agent d c) d c false (t.cycle + cond (m.kind == .mcast) 0 1) (if m.kind == .scatter then m.landed else 0) qs (deal qs)
      (.ok w.2, w.1)

/-- A command's write of bytes to virtual memory, in ascending order: done up to the part that stops it. What meets a page that is not
resident is deposited in pieces of up to 4,096 bytes; a page of codes 10 to 13 is waited for (R297). raw: a write that carries no element
type (R82). -/
def engineWrite (d c : Nat) (m : Cmd) (raw : Bool) : Nat → Nat → List Byte → State → Got Nat × State
  | 0, _, _, s => (.ok s.cycle, s)
  | fuel + 1, va, bs, s =>
    let x := coreOf s d c
    let r := splitAccess d (some c) x.asid x.vt { write := true, raw := raw, ordered := false, hostTrap := false } va bs.length s
    match engineCommit r.2.2 d c m x.vt r.1 (fun ps => .bytes (dealBytes ps bs)) with
    | (.wait t, s) => (.wait t, s)
    | (.trap a b e, s) => (.trap a b e, s)
    | (.ok due, s) => match r.2.1 with
      | none => (.ok due, s)
      | some (.trap cause e at_) => (.trap cause e at_, s)
      | some (.absent at_ l _) =>
        let rest := bs.drop (at_ - va)
        let n := min rest.length (min 4096 (l.va + l.size - at_))
        if 10 ≤ l.fmt then engineAsk s d c m x.asid x.vt at_ true l
        else match deposit s x.asid x.vt at_ 0 l (rest.take n) with
        | (.ok due2, s) =>
          if rest.length ≤ n then (.ok (max due due2), s)
          else match engineWrite d c m raw fuel (at_ + n) (rest.drop n) s with
            | (.ok due3, s) => (.ok (max (max due due2) due3), s)
            | r => r
        | r => r

/-- The parts of a write to a coded page; one that is not resident is waited for (R297). -/
def codedParts (s : State) (d c : Nat) (m : Cmd) (va n : Nat) : Got (List Part) × State :=
  let x := coreOf s d c
  let r := splitAccess d (some c) x.asid x.vt { write := true, raw := false, ordered := false, hostTrap := false } va n s
  match r.2.1 with
  | some (.trap cause e at_) => (.trap cause e at_, r.2.2)
  | some (.absent at_ l _) => engineAsk r.2.2 d c m x.asid x.vt at_ true l
  | none => (.ok r.1, r.2.2)

/-- What a write of a part of some runs meets there: data that cannot be corrected would be encoded with the rest. -/
def partErrors (s : State) (d c : Nat) (m : Cmd) (va : Nat) (whole : Bool) (runs : List (Nat × Nat)) : Got Unit × State :=
  if whole then (.ok (), s)
  else
    let b := readRuns s (m.agent d c) d c s.seq runs
    (if b.2.1 then .trap .uncorrectable 0 va else .ok (), b.2.2)

/-- Values written into a block-scaled page: each block they touch is encoded anew at its home (R84, R85). -/
def blockWrite (s : State) (d c : Nat) (m : Cmd) (code va : Nat) (vs : List FVal) : Got Nat × State :=
  let first := va / 32 * 32
  let stop := roundUp (va + vs.length) 32
  match codedParts s d c m first (stop - first) with
  | (.trap a b e, s) => (.trap a b e, s)
  | (.wait t, s) => (.wait t, s)
  | (.ok ps, s) => match partErrors s d c m va (va = first && stop = va + vs.length) (runsOf ps ++ ps.map scaleRun) with
    | (.trap a b e, s) => (.trap a b e, s)
    | (.wait t, s) => (.wait t, s)
    | (.ok _, s) => engineCommit s d c m (coreOf s d c).vt ps (fun qs => .blocks code (blockPuts qs va vs))

/-- Values written into one block of a bpi page, which is encoded anew at its home (R86). -/
def bpiWrite (s : State) (d c : Nat) (m : Cmd) (geom block j : Nat) (vs : List FVal) : Got Nat × State :=
  match codedParts s d c m block (32 * geom) with
  | (.trap a b e, s) => (.trap a b e, s)
  | (.wait t, s) => (.wait t, s)
  | (.ok ps, s) => match partErrors s d c m block (vs.length = 256) (runsOf ps) with
    | (.trap a b e, s) => (.trap a b e, s)
    | (.wait t, s) => (.wait t, s)
    | (.ok _, s) => engineCommit s d c m (coreOf s d c).vt ps (fun qs => .planes geom (runsOf qs) j vs)

/-- Bytes written into a typed buffer, at once. -/
def bufferWrite (s : State) (d c buf off : Nat) (bs : List Byte) : Got Nat × State :=
  (.ok (s.cycle + 5), onCore s d c (fun x => putBuf x buf off bs))

/-- The values of n elements of a row written to a side, from element e on. -/
def writeVals (s : State) (d c : Nat) (m : Cmd) (space off : Nat) (f : SideFmt) (a : Int) (e : Nat) (vs : List FVal) : Got Nat × State :=
  let packed := vs.flatMap (fun v => leBytes f.bytes ((elemOfCode f.code).pack 0 0 v))
  if space ≠ 0 then bufferWrite s d c space (off + e * f.bytes) packed
  else if f.code = 10 then
    let b := bpiPlace (leafAt s (coreOf s d c).asid (vaOf a)) (vaOf a) e
    bpiWrite s d c m f.geom b.1 b.2 vs
  else if 11 ≤ f.code then blockWrite s d c m f.code (vaOf a + e) vs
  else engineWrite d c m false (packed.length / 4096 + 8) (vaOf a + e * f.bytes) packed s

/-! ## What R130 finds at issue (R150) -/

/-- The page that a command of the task in focus finds at issue, in the task's vintage or in one that it names; a block that the task's shadow holds needs no
home (R242). -/
def issueLeaf (s : State) (asid va : Nat) (named : Option Nat) : Except WalkFail Leaf :=
  let served := match s.core.task with
    | some t => (taskShadow s t (named.getD s.core.vt) va 1).1.isSome
    | none => false
  match walk s asid va with
  | .error f => if served then .ok (shadowLeaf s asid va) else .error f
  | .ok l => .ok l

/-- The trap that a command meets at issue on the page of an address, with its EINFO. A page that is not resident is met during the
run (R152). -/
def pageAtIssue (s : State) (asid va : Nat) (write raw : Bool) (named : Option Nat) : Option (Cause × Nat) :=
  if 2 ^ 56 ≤ va then some (.prot, va)
  else match issueLeaf s asid va named with
    | .error f => some (f.trap.1, va)
    | .ok l =>
      if l.home = 2 || (write && !l.wr) then some (.prot, va)
      else if raw && decide (10 ≤ l.fmt) then some (.format, va)
      else if write && l.seal then some (.sealed, va)
      else match named with
        | some v => if namesFree s asid v [l] then some (.vintageState, v) else none
        | none => none

/-- The first trap on the pages from an address up to an end; fuel bounds the pages. -/
def pagesAtIssue (s : State) (asid : Nat) (write raw : Bool) (named : Option Nat) : Nat → Nat → Nat → Option (Cause × Nat)
  | 0, _, _ => none
  | fuel + 1, va, stop =>
    if stop ≤ va then none
    else match pageAtIssue s asid va write raw named with
      | some x => some x
      | none => pagesAtIssue s asid write raw named fuel ((va / 4096 + 1) * 4096) stop

/-- The first trap on n bytes of memory that a command names; raw: with an access that carries no element type (R82). -/
def bytesAtIssue (s : State) (asid : Nat) (write raw : Bool) (named : Option Nat) (va n : Nat) : Option (Cause × Nat) :=
  pagesAtIssue s asid write raw named (n / 4096 + 2) va (va + n)

/-- The error code of a trap at issue: a malformed table entry is PTE_MALFORMED (R291). -/
def issueError (s : State) (c : Cause) (va : Nat) : Nat :=
  match c, walk s s.core.asid va with
  | .prot, .error f => f.trap.2
  | _, _ => 0

/-! ## Landed bytes (R146, R153) -/

/-- The part of memory that a barrier named by a command lies in: a pool page of kind SO or RC; in the task's vintage it has a cell of its own
(R144). -/
def barrierPart (s : State) (d c : Nat) (m : Cmd) (va : Nat) : Got Part × State :=
  let x := coreOf s d c
  let r := splitAccess d (some c) x.asid x.vt { write := true, raw := true, ordered := false, hostTrap := false } va 32 s
  match r.2.1, r.1 with
  | some (.trap cause e at_), _ => (.trap cause e at_, r.2.2)
  | some (.absent at_ l _), _ => engineAsk r.2.2 d c m x.asid x.vt at_ true l
  | none, [] => (.trap .prot 0 va, r.2.2)
  | none, p :: _ =>
    if p.leaf.size ≠ 4096 || p.leaf.kind == .un then (.trap .prot 0 va, r.2.2)
    else match engineCells r.2.2 d c m x.vt [p] with
      | (.ok qs, s) => (.ok (qs.headD p), s)
      | (.trap a b e, s) => (.trap a b e, s)
      | (.wait t, s) => (.wait t, s)

/-- The cycle in which a unit that is performed in a cycle is visible on its die: with its bytes at the die's memory interface, or at its home
where its bytes are made there (R85, R86, R323). -/
def unitSeen (s : State) (d c : Nat) (m : Cmd) (due : Nat) : Nat :=
  if s.writes.any (fun w => w.agent == m.agent d c && w.late && w.due = due) then due else min due (s.cycle + 25)

/-- PENDING of a barrier lowered by a unit's bytes when the unit is visible at the barrier's scope: the die's for a barrier of the own
die's pool, else the device's (R146). -/
def lowerBarrier (s : State) (d c : Nat) (m : Cmd) (p : Part) (seen due n : Nat) : State :=
  let at_ := if (poolDie p.pa).or (poolDie p.leaf.frame) = some d then seen else due
  (issueWrite s (m.agent d c) d c .un false (max at_ (cellReadyAt s p.pa)) (.barrier .land p.pa (BitVec.ofNat 64 n) 0)).1

/-- The write pointer of a channel advanced by landed bytes once they are visible at die scope. -/
def raisePointer (s : State) (d c : Nat) (m : Cmd) (seen n : Nat) : State :=
  match m.queue with
  | .chan ch => if m.reissue || n = 0 then s else land s (.core d c) seen [.wp ch n]
  | _ => s

/-- What the landed bytes of a unit of a command set off, which are visible on its die and at their homes in two cycles: its hotness counter, its
write pointer, the barrier it names. -/
def landUnit (s : State) (d c : Nat) (m : Cmd) (tag : Nat) (bar : Option Part) (seen due n : Nat) : State :=
  let s := raisePointer (addHot s d c tag n) d c m seen n
  match bar with
  | some p => if m.reissue || n = 0 then s else lowerBarrier s d c m p seen due n
  | none => s

/-- The same of bytes that have just been handed over. -/
def landBytes (s : State) (d c : Nat) (m : Cmd) (tag : Nat) (bar : Option Part) (due n : Nat) : State :=
  landUnit s d c m tag bar (unitSeen s d c m due) due n

end Sys2Proof.Machine
end

