-- ==== Sys2Proof/Machine/Channels.lean ====
section
/-! DEFINITION. The copy channels: COPY, COPY.V, FILL, GATHER, SCATTER, CSTREAM from issue to the landing of their units (R150 to R156). -/

namespace Sys2Proof.Machine

/-! ## Issue (R150, R151) -/

/-- The parameter registers of an EC word. -/
def ecParams (s : State) (f : FE) (n : Nat) : List Word := (List.range n).map (fun i => s.core.aGet (f.x.toNat + i))

/-- An EC word: its traps, its checks, a stall while its queue is full, else a command at the queue's tail. -/
def ecIssue (h : Hdr) (f : FE) (s : State) (q : QueueId) (k : CmdKind) (n : Nat) (check : Core → List Word → Option (Cause × Nat)) : Out :=
  .next (if apHolds h s then
    let ps := ecParams s f n
    match check s.core ps with
    | some (c, va) => apFault s c (issueError s c va) va
    | none =>
      if s.core.queueFull q then apStall s (.stalled .queueFull) else issueCmd s s.focus.die s.focus.core q k ps f
  else s)

/-- The first of several checks that fails. -/
def firstOf : List (Bool × Cause × Nat) → Option (Cause × Nat)
  | [] => none
  | (b, x) :: r => if b then some x else firstOf r

/-- Whether rows of n bytes of a buffer side pass its end or the end of its phase range (R151, R432). -/
def rowsPass (c : Core) (half : BitVec 3) (dst : Bool) (x : Side) (rows n : Nat) : Bool :=
  x.space ≠ 0 && (List.range rows).any (fun (r : Nat) =>
    let a : Int := x.base + r * x.stride
    a < 0 || bufBytes x.space < resolveIn c half dst x.space a.toNat + n || passesRange c x.space a.toNat n)

/-- The row bytes of both sides as the first row's formats give them. -/
def firstRow (s : State) (asid : Nat) (x : Xfer) : Nat × Nat :=
  let side (y : Option Side) : SideFmt := match y with
    | some z => sideFmt s asid z.space x.conv z.base
    | none => { code := 0, geom := 0, page := 0 }
  let a := side x.src
  let b := match x.dst with | some _ => side x.dst | none => { code := x.conv, geom := 0, page := 0 }
  let v := converts a b
  (a.rowBytes v x.len, b.rowBytes v x.len)

/-- The first trap that R130 finds at issue on the rows of a transfer in memory. Rows found through an index list are checked when they
are processed (R155). -/
def rowsAtIssue (s : State) (asid : Nat) (x : Xfer) : Option (Cause × Nat) :=
  let at_ (y : Option Side) (r : Nat) : Option Int := match y with
    | some z => if z.space ≠ 0 || z.indexed then none else some (z.base + r * z.stride)
    | none => none
  let form (y : Option Side) (r : Nat) : SideFmt := match y with
    | some z => sideFmt s asid z.space x.conv (z.base + r * z.stride)
    | none => { code := 0, geom := 0, page := 0 }
  let indexed : Bool := [x.src, x.dst].any (fun y => match y with | some z => z.indexed | none => false)
  (List.range x.rows).findSome? (fun r =>
    let sf := form x.src r
    let df := match x.dst with | some _ => form x.dst r | none => { code := x.conv, geom := 0, page := 0 }
    let conv := converts sf df
    let side (y : Option Side) (write : Bool) (named : Option Nat) (f : SideFmt) : Option (Cause × Nat) := match at_ y r with
      | some a => bytesAtIssue s asid write false named (vaOf a) (f.rowBytes conv x.len)
      | none => none
    let first := [side x.src false none sf, side x.dst true none df]
    match first.filterMap id with
    | (.prot, va) :: _ => some (.prot, va)
    | rest =>
      if !indexed && formatClash sf df then some (.format, vaOf ((at_ x.dst r).getD ((at_ x.src r).getD 0)))
      else match rest with
        | z :: _ => some z
        | [] => side x.src false x.vint sf)

/-- The checks of a transfer's sides at issue: the engine's rights, the buffers' ranges, then R130 on the pages of its rows. -/
def sidesFail (s : State) (c : Core) (x : Xfer) (indexed : Option Side) : Option (Cause × Nat) :=
  let n := firstRow s c.asid x
  let wb (y : Option Side) : Bool := match y with | some z => z.space = 1 | none => false
  let pass (dst : Bool) (y : Option Side) (n : Nat) : Bool := match y with
    | some z => !z.indexed && rowsPass c c.half dst z x.rows n
    | none => false
  match firstOf [(wb x.src || wb indexed, .bufferAccess, 0),
    (pass false x.src n.1 || pass true x.dst n.2, .prot, 0),
    ((match indexed with | some z => rowsPass c c.half false z 1 (4 * x.rows) | none => false), .prot, 0)] with
  | some z => some z
  | none => match indexed with
    | some z => if z.space ≠ 0 then rowsAtIssue s c.asid x
        else (bytesAtIssue s c.asid false true none z.base (4 * x.rows)).or (rowsAtIssue s c.asid x)
    | none => rowsAtIssue s c.asid x

/-- COPY and COPY.V at issue. -/
def copyCheck (s : State) (k : CmdKind) (c : Core) (ps : List Word) : Option (Cause × Nat) :=
  let p := wordOf ps
  if !adrOk (p 0) || !adrOk (p 1) || !shapeOk (p 2) || !ctrlOk (p 4) then some (.reservedField, 0)
  else sidesFail s c (xferFor k ps) none

/-- FILL at issue. -/
def fillCheck (s : State) (c : Core) (ps : List Word) : Option (Cause × Nat) :=
  let p := wordOf ps
  if !adrOk (p 2) || !shapeOk (p 3) || loStride (p 4) ≠ 0 || !ctrlOk (p 5) then some (.reservedField, 0)
  else sidesFail s c (xferFor .fill ps) none

/-- GATHER and SCATTER at issue. -/
def indexedCheck (s : State) (k : CmdKind) (c : Core) (ps : List Word) : Option (Cause × Nat) :=
  let p := wordOf ps
  if !adrOk (p 1) || !shapeOk (p 2) || !ctrlOk (p 4) || !adrOk (p 5) then some (.reservedField, 0)
  else if adrBase (p 1) % 4 ≠ 0 then some (.align, adrBase (p 1))
  else sidesFail s c (xferFor k ps) (some (sideOf (p 1) 0))

/-- CSTREAM at issue. -/
def cstreamCheck (s : State) (c : Core) (ps : List Word) : Option (Cause × Nat) :=
  let p := wordOf ps
  if !adrOk (p 0) || 12 ≤ (p 1).toNat || !shapeOk (p 2) || hiStride (p 3) ≠ 0 || !ctrlOk (p 4) then some (.reservedField, 0)
  else sidesFail s c (xferFor .cstream ps) none

/-- COPY (R153). -/
def execEcCopy (h : Hdr) (f : FE) (s : State) : Out := ecIssue h f s (.chan f.ch.toNat) .copy 5 (copyCheck s .copy)

/-- COPY.V (R153). -/
def execEcCopyV (h : Hdr) (f : FE) (s : State) : Out := ecIssue h f s (.chan f.ch.toNat) .copyV 6 (copyCheck s .copyV)

/-- FILL of memory by a copy channel (R153). -/
def execEcFill (h : Hdr) (f : FE) (s : State) : Out := ecIssue h f s (.chan f.ch.toNat) .fill 6 (fillCheck s)

/-- GATHER (R155). -/
def execGather (h : Hdr) (f : FE) (s : State) : Out := ecIssue h f s (.chan f.ch.toNat) .gather 6 (indexedCheck s .gather)

/-- SCATTER (R155). -/
def execScatter (h : Hdr) (f : FE) (s : State) : Out := ecIssue h f s (.chan f.ch.toNat) .scatter 6 (indexedCheck s .scatter)

/-- CSTREAM (R156). -/
def execCstream (h : Hdr) (f : FE) (s : State) : Out := ecIssue h f s (.chan f.ch.toNat) .cstream 5 (cstreamCheck s)

/-! ## Units (R153 to R156) -/

/-- The bytes of a row of the pattern of FILL. -/
def patternBytes (w : Word) (from_ n : Nat) : List Byte :=
  (List.range n).map (fun i => (wordBytes w).getD ((from_ + i) % 8) 0)

/-- Where an address of memory lies, for a comparison of two sides. -/
def sidePlace (s : State) (asid va : Nat) : Nat :=
  match walk s asid va with
  | .ok l => l.frame + (va - l.va)
  | .error _ => va + 2 ^ 60

/-- How far the destination of a slice lies past its source, when both are bytes of one space. -/
def sideAhead (s : State) (asid : Nat) (x : Xfer) (vt sva dva soff doff : Nat) : Option Nat :=
  match x.src, x.dst with
  | some a, some b =>
    if a.space ≠ b.space || x.vint.getD vt ≠ vt then none
    else
      let p := if a.space = 0 then sidePlace s asid sva else soff
      let q := if a.space = 0 then sidePlace s asid dva else doff
      if p < q then some (q - p) else none
  | _, _ => none

/-- How many of n bytes of memory from an address on lie in its 4 KiB block, whose bytes stand together in physical memory: a slice ends
there, so that its place against the other side's is the place of its first byte. -/
def blockRoom (space : Nat) (va : Option Nat) (n : Nat) : Nat :=
  match va with
  | some a => if space ≠ 0 then n else min n (4096 - a % 4096)
  | none => n

/-- Elements of n that a budget of destination bytes takes: those of a block of a bpi page where they fit, of which room are left in the block; up to the
end of a block of a block-scaled page, else whole elements; all that are left where they fit. -/
def fitting (df : SideFmt) (start room : Nat) (budget left : Nat) : Nat :=
  if df.page = 10 then (if ceilDiv (min room left * df.geom) 8 ≤ budget then min room left else 0)
  else
    let n := budget / df.bytes
    if left ≤ n then left else if 11 ≤ df.page then (start + n) / 32 * 32 - start else n

/-- A slice of a row: n elements from element e on, moved now. A slice ends before a source byte that it writes itself (R153). Answers
its elements (none where the budget takes none), its destination bytes, and when they are visible. A zero row of a GATHER has the format of the
page at its base (entry 174). -/
def copySlice (s : State) (d c : Nat) (m : Cmd) (row e budget : Nat) : Got (Nat × Nat × Nat) × State :=
  let x := m.xfer
  let k := coreOf s d c
  let sa := x.src.bind (fun y => y.row m row)
  let da := x.dst.bind (fun y => y.row m row)
  if x.dst.isSome && da.isNone then (.ok (x.len - e, 0, s.cycle), s)
  else
    let sf : SideFmt := match x.src with
      | some y => sideFmt s k.asid y.space x.conv (sa.getD y.base)
      | none => { code := 0, geom := 0, page := 0 }
    let df : SideFmt := match x.dst with
      | some y => sideFmt s k.asid y.space x.conv (da.getD 0)
      | none => { code := x.conv, geom := 0, page := 0 }
    let conv := converts sf df
    let sspace := match x.src with | some y => y.space | none => 0
    let dspace := match x.dst with | some y => y.space | none => 0
    let forms (z : Option Int) (space : Nat) (f : SideFmt) : List SideFmt := match z with
      | some a => if e = 0 then rowFmts s k.asid space x.conv a (f.rowBytes conv x.len) else [f]
      | none => [f]
    let sfs := forms sa sspace sf
    let dfs := forms da dspace df
    let past (z : Option Int) (space : Nat) (dst : Bool) (f : SideFmt) : Bool := match z with
      | some a => space ≠ 0 && bufBytes space < resolveIn k m.half dst space (vaOf a) + f.rowBytes conv x.len
      | none => false
    if mixedFmts sfs || mixedFmts dfs || sfs.any (fun f => dfs.any (fun g => formatClash f g)) then (.trap .format 0 (vaOf (da.getD (sa.getD 0))), s)
    else if past sa sspace false sf || past da dspace true df then (.trap .prot 0 0, s)
    else
      let soff := resolveIn k m.half false sspace (vaOf (sa.getD 0))
      let doff := resolveIn k m.half true dspace (vaOf (da.getD 0))
      let vint := x.vint.getD k.vt
      let left := x.len - e
      let sink (s : State) (bs : List Byte) : Got Nat × State :=
        (.ok s.cycle, onCmd s d c m.id (fun y => { y with data := y.data ++ bs }))
      let ahead (u v : Nat) : Option Nat :=
        if sa.isNone then none
        else sideAhead s k.asid x k.vt (vaOf (sa.getD 0) + e * u) (vaOf (da.getD 0) + e * v) (soff + e * u) (doff + e * v)
      if !conv then
        let n := min budget left
        let n := blockRoom sspace (sa.map (fun a => vaOf a + e)) (blockRoom dspace (da.map (fun a => vaOf a + e)) n)
        let n := match ahead 1 1 with | some z => min n z | none => n
        let got : Got (List Byte) × State :=
          match x.src, sa with
          | none, _ => (.ok (patternBytes (wordOf m.params 0) e n), s)
          | some _, none => (.ok (List.replicate n 0), s)
          | some y, some a =>
            if y.space ≠ 0 then bufferRead s d c y.space (soff + e) n else engineRead s d c m vint (vaOf a + e) n x.vint.isSome false
        match got with
        | (.trap a b z, s) => (.trap a b z, s)
        | (.wait t, s) => (.wait t, s)
        | (.ok bs, s) =>
          let put : Got Nat × State :=
            match x.dst with
            | none => sink s bs
            | some y => if y.space ≠ 0 then bufferWrite s d c y.space (doff + e) bs else engineWrite d c m false 8 (vaOf (da.getD 0) + e) bs s
          match put with
          | (.ok due, s) => (.ok (n, n, due), s)
          | (.trap a b z, s) => (.trap a b z, s)
          | (.wait t, s) => (.wait t, s)
      else
        let dst := leafAt s k.asid (vaOf (da.getD 0))
        let n := fitting df (vaOf (da.getD 0) + e) (sliceLen dst df (da.getD 0) e 256) budget left
        if n = 0 then (.ok (0, 0, s.cycle), s)
        else
        let n := if 10 ≤ sf.page || 10 ≤ df.page then n else
          max 1 (min (blockRoom sspace (sa.map (fun a => vaOf a + e * sf.bytes)) (n * sf.bytes) / sf.bytes)
            (blockRoom dspace (da.map (fun a => vaOf a + e * df.bytes)) (n * df.bytes) / df.bytes))
        let n := match ahead sf.bytes df.bytes with | some z => if sf.page < 10 && df.page < 10 && z < n * max sf.bytes df.bytes then 1 else n | none => n
        let n := sliceLen (leafAt s k.asid (vaOf (sa.getD 0))) sf (sa.getD 0) e n
        let n := sliceLen dst df (da.getD 0) e n
        let got : Got (List FVal) × State :=
          match sa with
          | none => (.ok (List.replicate n (.fin false 0 0)), s)
          | some a => readVals s d c m vint sspace soff sf a e n x.vint.isSome
        match got with
        | (.trap a b z, s) => (.trap a b z, s)
        | (.wait t, s) => (.wait t, s)
        | (.ok vs, s) =>
          let put : Got Nat × State :=
            match x.dst with
            | none => sink s (vs.flatMap (fun v => leBytes df.bytes ((elemOfCode df.code).pack 0 0 v)))
            | some y => writeVals s d c m y.space doff df (da.getD 0) e vs
          match put with
          | (.ok due, s) => (.ok (n, df.rowBytes true n, due), s)
          | (.trap a b z, s) => (.trap a b z, s)
          | (.wait t, s) => (.wait t, s)

/-- What a command has moved after n elements of its row. -/
def Cmd.moved (m : Cmd) (n due : Nat) : Cmd :=
  let m := { m with landed := max m.landed due }
  if m.xfer.len ≤ m.unit + n then { m with rows := m.rows + 1, unit := 0 } else { m with unit := m.unit + n }

/-- The bytes of a unit that have been moved, counted together: they set off what the unit does when all of them are visible (R146). -/
def countUnit (s : State) (d c id : Nat) (bar : Option Part) : State :=
  match (coreOf s d c).cmdOf id with
  | none => s
  | some m => onCmd (landUnit s d c m m.xfer.tag bar m.freshSeen m.freshDue m.fresh) d c id
      (fun y => { y with fresh := 0, freshSeen := 0, freshDue := 0 })

/-- Slices moved until a budget of destination bytes is spent or the rows are done; what is left of it. -/
def moveSlices (d c id : Nat) : Nat → Nat → State → Got Nat × State
  | 0, budget, s => (.ok budget, s)
  | fuel + 1, budget, s =>
    match (coreOf s d c).cmdOf id with
    | none => (.ok budget, s)
    | some m =>
      if budget = 0 || m.xfer.rows ≤ m.rows then (.ok budget, s)
      else match copySlice s d c m m.rows m.unit budget with
        | (.trap a b z, s) => (.trap a b z, s)
        | (.wait t, s) => (.wait t, s)
        | (.ok (0, 0, _), s) => (.ok budget, s)
        | (.ok (n, bytes, due), s) =>
          let seen := unitSeen s d c m due
          let s := onCmd s d c id (fun y => y.moved n due)
          let s := if bytes = 0 || m.kind == .cstream then addHot s d c m.xfer.tag bytes
            else onCmd s d c id (fun y => { y with fresh := y.fresh + bytes, freshSeen := max y.freshSeen seen, freshDue := max y.freshDue due })
          moveSlices d c id fuel (budget - bytes) s

/-- A full or final entry of a CSTREAM delivered: to an aq, or to the weight-stream port of a claim, which holds 4 KiB; false while it
must wait. -/
def deliverStream (s : State) (d c : Nat) (m : Cmd) : Bool × State :=
  let x := coreOf s d c
  let t := (wordOf m.params 1).toNat
  if t < 8 then
    if 64 ≤ x.aqUsed t s.cycle then (false, s)
    else
      let n := nextSeq s
      let e : AqEntry := { id := n.1, data := vecOf m.data, landed := true, due := s.cycle, pieces := [],
                           form := { fmt := 0, geom := 0, sz := 0, scale := 0 }, absent := 0, seq := n.1, pc := 0, gone := none }
      (true, onCmd (onCore n.2 d c (fun x => x.aqReserve t e)) d c m.id (fun y => { y with data := [] }))
  else
    let k := tget x.claims (t - 8) .reset
    if !k.held || 4096 < k.port.length + m.data.length then (false, s)
    else
      (true, onCmd (onCore s d c (fun x => { x with claims := tput x.claims (t - 8) { k with port := k.port ++ m.data } })) d c m.id
        (fun y => { y with data := [] }))

/-- The next unit of a command of the copy channels, at its landing: 256 destination bytes, and what the units before it left because no
block fitted (R154). -/
def channelUnit (s : State) (d c : Nat) (m : Cmd) : State :=
  let x := m.xfer
  let bar : Got (Option Part) × State :=
    if x.barrier = 0 then (.ok none, s)
    else match barrierPart s d c m x.barrier with
      | (.ok p, s) => (.ok (some p), s)
      | (.trap a b z, s) => (.trap a b z, s)
      | (.wait t, s) => (.wait t, s)
  let again (s : State) (t : Nat) : State := at' s (s.cycle + t) (.engineUnitLand d c m.id)
  match bar with
  | (.trap a b z, s) => cmdFault s d c m a b z
  | (.wait t, s) => again s (t.getD 64)
  | (.ok bar, s) =>
    let budget := if m.kind == .cstream then 256 - m.data.length else 256 + m.room - m.fresh
    match moveSlices d c m.id (640 + x.rows) budget s with
    | (.trap a b z, s) => cmdFault (countUnit s d c m.id bar) d c m a b z
    | (.wait (some t), s) => again s t
    | (.wait none, s) => s
    | (.ok room, s) =>
      let s := onCmd (countUnit s d c m.id bar) d c m.id (fun y => { y with room := room })
      match (coreOf s d c).cmdOf m.id with
      | none => s
      | some y =>
        let past := decide (x.rows ≤ y.rows)
        if m.kind == .cstream then
          if y.data.length = 256 || (past && !y.data.isEmpty) then
            let r := deliverStream s d c y
            if !r.1 then again (addStall s d c x.tag) 1
            else
              let s := match bar with
                | some p => if y.reissue then r.2 else lowerBarrier r.2 d c y p r.2.cycle r.2.cycle y.data.length
                | none => r.2
              if past then doneCmd s d c m.id s.cycle else at' s (s.cycle + 1) (.engineUnitLand d c m.id)
          else if past then doneCmd s d c m.id s.cycle
          else at' s (s.cycle + 1) (.engineUnitLand d c m.id)
        else if past then doneCmd s d c m.id (max s.cycle y.landed)
        else at' s (s.cycle + 1) (.engineUnitLand d c m.id)

/-! ## The start of a transfer (R154, R155) -/

/-- The latency with which an engine reads an address: path and translation, 4 for a typed buffer. -/
def engineLat (s : State) (d c space va vint : Nat) : Nat × State :=
  if space ≠ 0 then (4, s)
  else match translate s d (some c) (coreOf s d c).asid vint va with
    | (.page _ frame fva _ added, s) => (pathLat s d (frame + (va - fva)) + added, s)
    | (_, s) => (0, s)

/-- The first row of a side that has an address. -/
def firstAddr (m : Cmd) (y : Side) : Nat → Nat → Option Int
  | 0, _ => none
  | n + 1, r => match y.row m r with
    | some a => some a
    | none => firstAddr m y n (r + 1)

/-- The cycles after which the first unit of a transfer lands. -/
def sourceLat (s : State) (d c : Nat) (m : Cmd) : Nat × State :=
  match m.xfer.src with
  | none => (0, s)
  | some y => match firstAddr m y m.xfer.rows 0 with
    | none => (0, s)
    | some a => engineLat s d c y.space (vaOf a) (m.xfer.vint.getD (coreOf s d c).vt)

/-- The first unit of a transfer, after some cycles. -/
def beginUnits (s : State) (d c : Nat) (m : Cmd) (after : Nat) : State :=
  let r := sourceLat s d c m
  at' r.2 (r.2.cycle + after + r.1 + 8) (.engineUnitLand d c m.id)

/-- A GATHER or SCATTER reads its whole index list; its rows come after the list's latency (R155). -/
def readIndices (s : State) (d c : Nat) (m : Cmd) : State :=
  let w := wordOf m.params 1
  let k := coreOf s d c
  let n := 4 * m.xfer.rows
  let got := if adrSpace w ≠ 0 then bufferRead s d c (adrSpace w) (resolveIn k m.half false (adrSpace w) (adrBase w)) n
    else engineRead s d c m k.vt (adrBase w) n false true
  match got with
  | (.trap a b z, s) => cmdFault s d c m a b z
  | (.wait t, s) => at' s (s.cycle + t.getD 64) (.engineUnitLand d c m.id)
  | (.ok bs, s) =>
    let s := onCmd s d c m.id (fun y => { y with data := bs })
    let r := engineLat s d c (adrSpace w) (adrBase w) k.vt
    beginUnits r.2 d c { m with data := bs } r.1

/-- The start of a transfer: a GATHER or SCATTER reads its index list at its start. -/
def startTransfer (s : State) (d c : Nat) (m : Cmd) : State :=
  match m.kind with
  | .gather => readIndices s d c m
  | .scatter => readIndices s d c m
  | _ => beginUnits s d c m 0

/-- A landing of a command of the copy channels. -/
def transferLand (s : State) (d c : Nat) (m : Cmd) : State :=
  if (m.kind == .gather || m.kind == .scatter) && m.data.isEmpty then readIndices s d c m else channelUnit s d c m

end Sys2Proof.Machine
end

