-- ==== Sys2Proof/Machine/Routing.lean ====
section
/-! DEFINITION. The routing engine: ROUTE, RCSNAP and RCREAD (R157, R353 to R366). -/

namespace Sys2Proof.Machine

/-! ## Tensors (R353, R354, R356) -/

/-- A tensor as its table entry gives it. -/
structure Tensor where
  va     : Nat
  fmt    : Nat
  counts : List Nat
  stride : List Nat
  words  : List Word
  deriving DecidableEq, Repr

/-- The tensor of an entry. -/
def tensorOf (w : List Word) : Tensor :=
  let n := bits (wordOf w 1) 1 0 + 1
  let r := handleRegion w 0
  { va := bits (wordOf w 0) 55 0, fmt := bits (wordOf w 1) 7 4, counts := (List.range n).map (countOf r),
    stride := (List.range n).map (strideOf r), words := w }

/-- Bytes of an element of a tensor. -/
def Tensor.elem (t : Tensor) : Nat := 2 ^ codeLog2 t.fmt

/-- The address of an element. -/
def Tensor.at' (t : Tensor) (is : List Nat) : Nat := (List.zipWith (fun i s => i * s) is t.stride).foldl (fun a x => a + x) t.va

/-- The bytes from a tensor's first to past its last. -/
def Tensor.hull (t : Tensor) : Nat := (boxOf (handleRegion t.words (codeLog2 t.fmt))).len

/-- Whether a page that an access of a tensor's element reaches, and that does not trap PROT, is neither raw nor of its own format. -/
def tensorClash (s : State) (asid : Nat) (t : Tensor) (write : Bool) (va : Nat) : Bool :=
  [va, va + t.elem - 1].any (fun a => match walk s asid a with
    | .ok l => (l.wr || !write) && l.home ≠ 2 && l.fmt ≠ 0 && l.fmt ≠ t.fmt
    | .error _ => false)

/-- A command as it stands in its core now. -/
def nowCmd (s : State) (d c : Nat) (m : Cmd) : Cmd := ((coreOf s d c).cmdOf m.id).getD m

/-- Elements of a tensor read one after another, each once: what has been read stays with the command (R354, R365), and its bytes count under
tag 0 (R309, entry 145). -/
def readElems (d c : Nat) (m : Cmd) (t : Tensor) : List (List Nat) → State → Got Unit × State
  | [], s => (.ok (), s)
  | i :: rest, s =>
    let k := coreOf s d c
    if tensorClash s k.asid t false (t.at' i) then (.trap .format 0 (t.at' i), s)
    else match engineRead s d c m k.vt (t.at' i) t.elem false false with
      | (.trap a b z, s) => (.trap a b z, s)
      | (.wait u, s) => (.wait u, s)
      | (.ok bs, s) => readElems d c m t rest (addHot (onCmd s d c m.id (fun y => { y with seen := y.seen ++ [leNat bs] })) d c 0 t.elem)

/-- Elements of tensors written one after another, each once: how many are written, and when the last of them is performed, stays with the
command; its bytes count under tag 0 (R309, entry 145). -/
def writeElems (d c : Nat) (m : Cmd) : List (Tensor × List Nat × Nat) → State → Got Unit × State
  | [], s => (.ok (), s)
  | p :: rest, s =>
    if tensorClash s (coreOf s d c).asid p.1 true (p.1.at' p.2.1) then (.trap .format 0 (p.1.at' p.2.1), s)
    else match engineWrite d c m false 8 (p.1.at' p.2.1) (leBytes p.1.elem p.2.2) s with
      | (.trap a b z, s) => (.trap a b z, s)
      | (.wait u, s) => (.wait u, s)
      | (.ok a, s) => writeElems d c m rest
          (addHot (onCmd s d c m.id (fun y => { y with room := y.room + 1, landed := max y.landed a })) d c 0 p.1.elem)

/-! ## Operands (R355 to R357) -/

/-- The handles of a ROUTE: scores, index, weight, slot map, histogram, bias, replication table. -/
def routeHandles (ps : List Word) : List Nat :=
  let p := wordOf ps
  [bits (p 0) 31 0, bits (p 1) 31 0, bits (p 1) 63 32, bits (p 2) 31 0, bits (p 2) 63 32, bits (p 5) 31 0, bits (p 5) 63 32]

/-- TOPK. -/
def routeTopk (ps : List Word) : Nat := bits (wordOf ps 3) 3 0

/-- The fields of ROUTE at issue. -/
def routeCheck (_ : Core) (ps : List Word) : Option (Cause × Nat) :=
  let p := wordOf ps
  let cape := bits (p 4) 31 0
  if bits (p 0) 63 32 ≠ 0 || bits (p 3) 31 6 ≠ 0 || routeTopk ps = 0 || 8 < routeTopk ps || cape = 0 || 65535 < cape then
    some (.reservedField, 0)
  else none

/-- The entry that handle i of a ROUTE names, read as a device-scope read, or the trap of R354; an optional one whose slot is 0 names
none. -/
def routeEntry (d c : Nat) (m : Cmd) (i h : Nat) (s : State) : Got (Option (List Word)) × State :=
  if h % 2 ^ 20 = 0 then (if 5 ≤ i then .ok none else .trap .staleHandle 0 h, s)
  else match engineRead s d c m 0 (slotVa h) 64 false true with
    | (.trap a b z, s) => (.trap a b z, s)
    | (.wait u, s) => (.wait u, s)
    | (.ok bs, s) =>
      let w := bytesWords 8 bs
      (if entryStale h w then .trap .staleHandle 0 h else .ok (some w), s)

/-- The entries of a ROUTE's handles read one after another, each once: their bytes stay with the command, those of an absent one as zeros
(R354). -/
def routeWords (d c : Nat) (m : Cmd) : List (Nat × Nat) → State → Got Unit × State
  | [], s => (.ok (), s)
  | p :: rest, s => match routeEntry d c m p.1 p.2 s with
    | (.trap a b z, s) => (.trap a b z, s)
    | (.wait u, s) => (.wait u, s)
    | (.ok w, s) =>
      let bs := match w with | some w => wordsBytes w | none => List.replicate 64 0
      routeWords d c m rest (addHot (onCmd s d c m.id (fun y => { y with data := y.data ++ bs })) d c 0 (if w.isSome then 64 else 0))

/-- What a ROUTE works on. -/
structure Route where
  scores  : Tensor
  index   : Tensor
  weight  : Tensor
  map     : Tensor
  hist    : Tensor
  bias    : Option Tensor
  copies  : Option Tensor
  topk    : Nat
  norm    : Nat
  tbase   : Nat
  cape    : Nat
  capd    : Nat
  deriving DecidableEq, Repr

/-- A ROUTE of its parameters and the entries its handles name. -/
def routeOf (ps : List Word) (ws : List (Option (List Word))) : Route :=
  let t (i : Nat) := tensorOf ((ws.getD i none).getD [])
  let p := wordOf ps
  { scores := t 0, index := t 1, weight := t 2, map := t 3, hist := t 4, bias := (ws.getD 5 none).map tensorOf,
    copies := (ws.getD 6 none).map tensorOf, topk := routeTopk ps, norm := bits (p 3) 5 4, tbase := bits (p 3) 63 32,
    cape := bits (p 4) 31 0, capd := bits (p 4) 63 32 }

/-- T, the tokens. -/
def Route.tokens (r : Route) : Nat := r.scores.counts.getD 0 0

/-- E, the experts. -/
def Route.experts (r : Route) : Nat := r.scores.counts.getD 1 0

/-- Whether a tensor has one of some formats and given counts. -/
def Tensor.isA (t : Tensor) (fmts counts : List Nat) : Bool := fmts.contains t.fmt && t.counts == counts

/-- Whether the tensors of a ROUTE match R356, the rows of the slot map left out. -/
def Route.shaped (r : Route) : Bool :=
  let ranks := if r.topk = 1 && r.index.counts.length = 1 then [r.tokens] else [r.tokens, r.topk]
  [5, 6, 7, 8, 9].contains r.scores.fmt && r.scores.counts.length = 2 && decide (1 ≤ r.tokens) && decide (r.tokens ≤ 65535)
    && decide (1 ≤ r.experts) && decide (r.experts ≤ 256)
    && r.index.isA [3] ranks && r.weight.isA [7, 8, 9] ranks && r.map.fmt = 3 && r.map.counts.length = 2
    && r.hist.isA [3] [r.experts]
    && (match r.bias with | some t => t.isA [9] [r.experts] | none => true)
    && (match r.copies with | some t => t.isA [4] [r.experts] | none => true)

/-- Whether the hulls of two tensors overlap. -/
def hullsMeet (a b : Tensor) : Bool := overlaps a.va a.hull b.va b.hull

/-- Whether an output of a ROUTE overlaps another output or an input. -/
def Route.tangled (r : Route) : Bool :=
  let ins := r.scores :: (r.bias.toList ++ r.copies.toList)
  let rec go : List Tensor → Bool
    | [] => false
    | o :: rest => (ins ++ rest).any (hullsMeet o) || go rest
  go [r.index, r.weight, r.map, r.hist]

/-- A replication entry: the die of the primary copy, the die of the replica where there is one, and whether odd tokens go to it. -/
structure Copies where
  home    : Nat
  replica : Option Nat
  split   : Bool
  deriving DecidableEq, Repr

/-- A replication entry that keeps R357. -/
def copiesOf (w : Nat) : Option Copies :=
  let w := BitVec.ofNat 64 w
  let split := bits w 9 8
  if bits w 63 10 ≠ 0 || bit w 3 || 2 ≤ split then none
  else if !bit w 7 then (if split ≠ 0 || bits w 6 4 ≠ 0 then none else some { home := bits w 2 0, replica := none, split := false })
  else if bits w 6 4 = bits w 2 0 then none
  else some { home := bits w 2 0, replica := some (bits w 6 4), split := split = 1 }

/-- The copies of every expert without a table. -/
def plainCopies (n : Nat) : List Copies := (List.range n).map (fun e => { home := e % 8, replica := none, split := false })

/-! ## Selection and weights (R358, R359) -/

/-- A number as f32. -/
def f32Of (v : FVal) : FVal := decodeF .f32 (roundF .f32 .rne 0 v)

/-- The exponential of a value, rounded to f32 (entry 7). -/
def expF32 : FVal → FVal
  | .nan => .nan
  | .inf neg => if neg then .fin false 0 0 else .inf false
  | .fin neg m e =>
    if m = 0 then .fin false 1 0
    else if (m.log2 : Int) + e > 12 then (if neg then .fin false 0 0 else .inf false)
    else let p := expV neg m e; decodeF .f32 (roundMag .f32 .rne 0 false p.1 p.2 true)

/-- Whether expert i ranks before expert j: b descending, NaN last, lower expert first among equals. -/
def ranksBefore (b : List FVal) (i j : Nat) : Bool :=
  let x := b.getD i .nan
  let y := b.getD j .nan
  if x.isNan then y.isNan && decide (i < j)
  else if y.isNan then true
  else if ltV y x then true
  else if ltV x y then false
  else decide (i < j)

/-- The first experts in that order. -/
def topExperts (b : List FVal) (topk : Nat) : List Nat :=
  (List.range topk).filterMap (fun r => (List.range b.length).find? (fun i =>
    ((List.range b.length).filter (fun j => ranksBefore b j i)).length = r))

/-- The weights of the selected experts from the unbiased scores. -/
def gateWeights (norm : Nat) (s : List FVal) (sel : List Nat) : List FVal :=
  let at_ (i : Nat) := s.getD i .nan
  let set := if norm = 2 then List.range s.length else (List.range s.length).filter (fun i => sel.contains i)
  if set.any (fun i => (at_ i).isNan) then sel.map (fun _ => .nan)
  else if norm = 0 then sel.map at_
  else
      let top := set.foldl (fun m i => maxV m (at_ i)) (.inf true)
      let x (i : Nat) : FVal := if norm = 3 then at_ i else expF32 (f32Of (addV (at_ i) (negV top)))
      let z := set.foldl (fun z i => f32Of (addV z (x i))) (.fin false 0 0)
      if norm = 3 && (z.isZero || !z.isFin) then sel.map (fun _ => .nan)
      else sel.map (fun i => decodeF .f32 (divF .f32 .rne 0 (x i) z))

/-! ## Capacity (R360) -/

/-- An outcome of a token-rank: the expert, whether its replica was meant, and whether it was admitted. -/
structure Place where
  expert   : Nat
  replica  : Bool
  admitted : Bool
  deriving DecidableEq, Repr

/-- An outcome as a number kept with the command. -/
def Place.code (p : Place) : Nat := 4 * p.expert + cond p.replica 2 0 + cond p.admitted 1 0

/-- The outcome of a number. -/
def placeOf (n : Nat) : Place := { expert := n / 4, replica := n / 2 % 2 = 1, admitted := n % 2 = 1 }

/-- The die of the copy an outcome names. -/
def dieOfPlace (cs : List Copies) (p : Place) : Nat :=
  match cs[p.expert]? with
  | some c => if p.replica then c.replica.getD c.home else c.home
  | none => 0

/-- The outcome of one token-rank after those before it. -/
def admitOne (r : Route) (cs : List Copies) (before : List Place) (e id : Nat) : Place :=
  let replica := match cs[e]? with | some c => c.replica.isSome && c.split && id % 2 = 1 | none => false
  let p : Place := { expert := e, replica := replica, admitted := true }
  let nc := (before.filter (fun q => q.admitted && q.expert = e && q.replica = replica)).length
  let nd := (before.filter (fun q => q.admitted && dieOfPlace cs q = dieOfPlace cs p)).length
  { p with admitted := decide (nc < r.cape) && (r.capd = 0 || decide (nd < r.capd)) }

/-- The outcomes of a token's ranks, one after another. -/
def admitAll (r : Route) (cs : List Copies) (id : Nat) : List Nat → List Place → List Place
  | [], _ => []
  | e :: rest, before =>
    let p := admitOne r cs before e id
    p :: admitAll r cs id rest (before ++ [p])

/-- The row of the slot map of an expert's copy. -/
def copyRow (cs : List Copies) (experts e : Nat) (replica : Bool) : Nat :=
  if replica then experts + ((cs.take e).filter (fun c => c.replica.isSome)).length else e

/-- The identifiers in a row of the slot map, in order. -/
def rowTokens (r : Route) (cs : List Copies) (ps : List Place) (row : Nat) : List Nat :=
  ((List.range ps.length).zip ps).filterMap (fun p =>
    if p.2.admitted && copyRow cs r.experts p.2.expert p.2.replica = row then some (r.tbase + p.1 / r.topk) else none)

/-! ## Counters (R362 to R364) -/

/-- A sum that saturates, and whether it did. -/
def satAdd (w a b : Nat) : Nat × Bool := (min (2 ^ w - 1) (a + b), decide (2 ^ w ≤ a + b))

/-- Two tables of counts added. -/
def tableAdd (a b : Table Nat) : Table Nat × Bool :=
  b.foldl (fun acc p => let x := satAdd 32 (tget acc.1 p.1 0) p.2; (tput acc.1 p.1 x.1, acc.2 || x.2)) (a, false)

/-- Counts added. -/
def RouteCounters.add (a b : RouteCounters) : RouteCounters :=
  let r := satAdd 64 a.routes b.routes
  let t := satAdd 64 a.tokens b.tokens
  let x := tableAdd a.adm b.adm
  let y := tableAdd a.drop b.drop
  { routes := r.1, tokens := t.1, nans := max a.nans b.nans, adm := x.1, drop := y.1, emax := max a.emax b.emax,
    sat := if r.2 || t.2 || x.2 || y.2 then 1 else max a.sat b.sat }

/-- A field cleared of what was written of it. -/
def clearField (w a b : Nat) : Nat := if b = 2 ^ w - 1 then 0 else a - b

/-- Counts cleared of a snapshot; empty ones forget Emax. -/
def RouteCounters.clear (a b : RouteCounters) : RouteCounters :=
  let f (x y : Table Nat) : Table Nat := (x.map (fun p => (p.1, clearField 32 p.2 (tget y p.1 0)))).filter (fun p => p.2 != 0)
  let c : RouteCounters :=
    { routes := clearField 64 a.routes b.routes, tokens := clearField 64 a.tokens b.tokens, nans := a.nans - b.nans,
      sat := a.sat - b.sat, adm := f a.adm b.adm, drop := f a.drop b.drop, emax := a.emax }
  if c.routes = 0 && c.tokens = 0 && c.nans = 0 && c.sat = 0 && c.adm.isEmpty && c.drop.isEmpty then { c with emax := 0 } else c

/-- NC of a counter block. -/
def RouteCounters.nc (a : RouteCounters) : Nat := 16 * ceilDiv (max 1 a.emax) 16

/-- The bytes of a counter block. -/
def RouteCounters.block (a : RouteCounters) : List Byte :=
  wordsBytes ([BitVec.ofNat 64 a.routes, BitVec.ofNat 64 a.tokens, fieldAt a.nans 1 ||| fieldAt a.sat 0] ++ List.replicate 5 0)
    ++ (List.range a.nc).flatMap (fun e => leBytes 4 (tget a.adm e 0)) ++ (List.range a.nc).flatMap (fun e => leBytes 4 (tget a.drop e 0))

/-- Whether a task has committed, as its window has recorded it. -/
def taskCommitted (s : State) (d serial : Nat) : Bool :=
  match entryOf s d serial with
  | some e => e.state == .committed || e.state == .halted
  | none => false

/-- Counts added for a shard of a task. -/
def countRoute (s : State) (d serial shard : Nat) (x : RouteCounters) : State :=
  let k := routeKey serial shard
  if taskCommitted s d serial then onDie s d (fun y => { y with routing := y.routing.add x })
  else onDie s d (fun y => { y with provisional := tput y.provisional k ((tget y.provisional k .zero).add x) })

/-- What the shards of a task hold of a table kept for each of them. -/
def ofTask {α : Type} (t : Table α) (serial : Nat) : List α := (t.filter (fun p => p.1 / 65536 = serial)).map (fun p => p.2)

/-- What a task has counted and not committed. -/
def Die.counted (y : Die) (serial : Nat) : RouteCounters := (ofTask y.provisional serial).foldl RouteCounters.add .zero

/-- A task's COMMIT moves what it has counted, and carries out its clears. -/
def commitRouting (s : State) (d serial : Nat) : State :=
  onDie s d (fun y => { y with
    routing := (ofTask y.clears serial).flatten.foldl RouteCounters.clear (y.routing.add (y.counted serial))
    provisional := y.provisional.filter (fun p => p.1 / 65536 != serial)
    clears := y.clears.filter (fun p => p.1 / 65536 != serial) })

/-- What a snapshot of a task writes. -/
def countsSeen (s : State) (d serial : Nat) : RouteCounters := (dieOf s d).routing.add ((dieOf s d).counted serial)

/-! ## Issue (R157, R355) -/

/-- ROUTE (R157). -/
def execRoute (h : Hdr) (f : FE) (s : State) : Out := ecIssue h f s .routing .route 6 routeCheck

/-- The destination of a counter block: its pages are met when it is written (R366). -/
def blockCheck (_ : Core) (ps : List Word) : Option (Cause × Nat) :=
  let va := (wordOf ps 0).toNat
  if va % 64 ≠ 0 then some (.align, va) else none

/-- RCSNAP (R157). -/
def execRcsnap (h : Hdr) (f : FE) (s : State) : Out := ecIssue h f s .routing .rcsnap 1 blockCheck

/-- RCREAD (R157). -/
def execRcread (h : Hdr) (f : FE) (s : State) : Out := ecIssue h f s .routing .rcread 1 blockCheck

/-! ## The engine (R157, R363, R365) -/

/-- The window of the task a core runs. -/
def homeOf (x : Core) : Nat × Nat := match x.task with | some t => (t.wdie, t.serial) | none => (0, 0)

/-- The shard of its task that a core runs. -/
def shardOf (x : Core) : Nat := match x.task with | some t => t.shard | none => 0

/-- The routing command of a core that could start now, but for the engine. -/
def routeHead (x : Core) (now : Nat) : Option Cmd :=
  match x.queued .routing with
  | m :: _ => if m.issuedAt < now && m.tokensMet x now then some m else none
  | [] => none

/-- Whether the engine of a core's task may start the core's command: it is free, and no command that arrived before waits for it. -/
def routeTurn (s : State) (d c : Nat) (m : Cmd) : Bool :=
  let w := (homeOf (coreOf s d c)).1
  let mates := s.cores.filter (fun k => k.2.task.isSome && (homeOf k.2).1 = w)
  decide ((dieOf s w).routeFree ≤ s.cycle)
    && mates.all (fun k => !k.2.cmds.any (fun y => y.queue == .routing && y.started.isSome))
    && mates.all (fun k => match routeHead k.2 s.cycle with
      | some y => decide (m.issuedAt < y.issuedAt) || (y.issuedAt = m.issuedAt && decide (32 * c + d ≤ 32 * (k.1 % 32) + k.1 / 32))
      | none => true)

/-- The next landing of a routing command. -/
def routeNext (s : State) (d c : Nat) (m : Cmd) (n : Nat) : State := at' s (s.cycle + n) (.engineUnitLand d c m.id)

/-- The latency of a tensor's first element. -/
def tensorLat (s : State) (d c : Nat) (t : Option Tensor) : Nat × State :=
  match t with
  | some t => engineLat s d c 0 t.va (coreOf s d c).vt
  | none => (0, s)

/-- The checks of a ROUTE at its start that need its replication entries, or their words where it has a table (R366). -/
def routeFail (r : Route) (cs : List Nat) : Option Cause :=
  let extra := (cs.filter (fun w => bit (BitVec.ofNat 64 w) 7)).length
  if r.map.counts.getD 0 0 < r.experts + extra || r.map.counts.getD 1 0 < r.cape then some .format
  else if r.experts < r.topk || 0xFFFFFFFF ≤ r.tbase + r.tokens - 1 || r.tangled || cs.any (fun w => (copiesOf w).isNone) then
    some .reservedField
  else none

/-- The entries that a ROUTE has read, kept as their bytes, an absent one as zeros. -/
def keptEntries (bs : List Byte) : List (Option (List Word)) :=
  (List.range 7).map (fun i =>
    let w := bytesWords 8 (bs.drop (64 * i))
    if bit (wordOf w 1) 32 then some w else none)

/-- The ROUTE that a command is, from the entries it has read. -/
def Cmd.route (m : Cmd) : Route := routeOf m.params (keptEntries m.data)

/-- The biases that a command has read, as f32 words, after its entries. -/
def Cmd.biases (m : Cmd) : List FVal :=
  (List.range m.route.experts).map (fun e => decodeF .f32 (leNat ((m.data.drop (448 + 4 * e)).take 4)))

/-- The replication entries that a command has read, after its biases. -/
def Cmd.copyList (m : Cmd) : List Copies :=
  let n := m.route.experts
  if m.route.copies.isNone then plainCopies n
  else (List.range n).filterMap (fun e => copiesOf (leNat ((m.data.drop (448 + 4 * n + 8 * e)).take 8)))

/-- A wait of a routing command, or its trap. -/
def routeStop {α : Type} (d c : Nat) (m : Cmd) (r : Got α × State) : State :=
  match r.1 with
  | .trap a b z => cmdFault r.2 d c m a b z
  | .wait (some n) => routeNext r.2 d c m n
  | _ => r.2

/-- A ROUTE reads its entries at its start and checks them (R354, R366); they have come after their latency, and the bias and replication
tensors are read next. -/
def routeEntries (s : State) (d c : Nat) (m : Cmd) : State :=
  match routeWords d c m (((List.range 7).zip (routeHandles m.params)).drop (m.data.length / 64)) s with
  | (.ok _, s) =>
    let ws := keptEntries (nowCmd s d c m).data
    let r := routeOf m.params ws
    if ws.any (fun w => match w with | some w => entryMalformed w | none => false) || !r.shaped then cmdFault s d c m .format 0 0
    else
      let s := onCmd s d c m.id (fun y => { y with unit := 1 })
      let a := tensorLat s d c r.bias
      let b := tensorLat a.2 d c r.copies
      let e := engineLat b.2 d c 0 (slotVa ((routeHandles m.params).headD 0)) 0
      routeNext e.2 d c m (e.1 + max a.1 b.1)
  | q => routeStop d c m q

/-- A routing command starts: a ROUTE reads its entries, the others their counters. -/
def startRoute (s : State) (d c : Nat) (m : Cmd) : State :=
  match m.kind with
  | .route => routeEntries s d c m
  | _ =>
    let h := homeOf (coreOf s d c)
    routeNext s d c m (ceilDiv (64 + 8 * (countsSeen s h.1 h.2).nc) 256 + 7)

/-- A ROUTE has read its bias and replication tensors: the scores are read next. A check of its start that needs no replication entry
comes before a trap of their reads (R366). -/
def routeTables (s : State) (d c : Nat) (m : Cmd) : State :=
  let r := m.route
  let idx := (List.range r.experts).map (fun e => [e])
  let n := if r.copies.isSome then r.experts else 0
  let b : Got Unit × State := match r.copies with
    | some t => readElems d c m t (idx.drop m.seen.length) s
    | none => (.ok (), s)
  match b with
  | (.ok _, s) =>
    let seen := (nowCmd s d c m).seen
    let cs := seen.take n
    (match routeFail r cs with
    | some e => cmdFault s d c m e 0 0
    | none =>
      let a : Got Unit × State := match r.bias with
        | some t => readElems d c m t (idx.drop (seen.length - n)) s
        | none => (.ok (), s)
      (match a with
      | (.ok _, s) =>
        let bs := if r.bias.isSome then (nowCmd s d c m).seen.drop n else List.replicate r.experts 0
        let s := onCmd s d c m.id (fun y =>
          { y with data := y.data ++ bs.flatMap (leBytes 4) ++ cs.flatMap (leBytes 8), unit := 2, seen := [] })
        let l := tensorLat s d c (some r.scores)
        routeNext l.2 d c m (l.1 + ceilDiv r.experts 32)
      | q => routeStop d c m q))
  | (.trap a b z, s) => (match routeFail r [] with
    | some e => cmdFault s d c m e 0 0
    | none => cmdFault s d c m a b z)
  | q => routeStop d c m q

/-- The next token of a ROUTE: its scores are read, its experts chosen, its elements written. -/
def routeToken (s : State) (d c : Nat) (m : Cmd) : State :=
  let r := m.route
  let t := m.rows
  match readElems d c m r.scores (((List.range r.experts).map (fun e => [t, e])).drop m.seen.length) s with
  | (.ok _, s) =>
    let raw := (nowCmd s d c m).seen.map (fun x => (elemOfCode r.scores.fmt).value false x)
    let b := List.zipWith (fun x y => f32Of (addV x y)) raw m.biases
    let sel := topExperts b r.topk
    let ws := gateWeights r.norm raw sel
    let ps := admitAll r m.copyList (r.tbase + t) sel (m.aux.map placeOf)
    let at_ (j : Nat) : List Nat := if r.index.counts.length = 1 then [t] else [t, j]
    let is := (List.range ps.length).zipWith (fun j p => (r.index, at_ j, if p.admitted then p.expert else 0xFFFFFFFF)) ps
    let gs := (List.range ps.length).zipWith (fun j p =>
      (r.weight, at_ j, if p.1.admitted then (elemOfCode r.weight.fmt).pack 0 0 p.2 else 0)) (ps.zip ws)
    (match writeElems d c m ((is ++ gs).drop m.room) s with
    | (.ok _, s) =>
      let s := onCmd s d c m.id (fun y =>
        { y with
          aux := y.aux ++ ps.map Place.code
          rows := t + 1
          seen := []
          room := 0
          opid := if b.any FVal.isNan then 1 else y.opid
          unit := if t + 1 = r.tokens then 3 else 2 })
      routeNext s d c m (if t + 1 = r.tokens then ceilDiv (4 * r.map.counts.getD 1 0 * r.map.counts.getD 0 0 + 4 * r.experts) 256 + 7
        else ceilDiv r.experts 32)
    | q => routeStop d c m q)
  | q => routeStop d c m q

/-- The slot map and the histogram of a ROUTE are written, after its last token. -/
def routeFinish (s : State) (d c : Nat) (m : Cmd) : State :=
  let r := m.route
  let ps := m.aux.map placeOf
  let rows := r.map.counts.getD 0 0
  let w := r.map.counts.getD 1 0
  let slots := (List.range rows).flatMap (fun row =>
    let ids := rowTokens r m.copyList ps row
    (List.range w).map (fun k => (r.map, [row, k], ids.getD k 0xFFFFFFFF)))
  let hist := (List.range r.experts).map (fun e => (r.hist, [e], (ps.filter (fun p => p.admitted && p.expert = e)).length))
  match writeElems d c m ((slots ++ hist).drop m.room) s with
  | (.ok _, s) => doneCmd s d c m.id (nowCmd s d c m).landed
  | q => routeStop d c m q

/-- The counts that a counter block holds. -/
def blockCounts (bs : List Byte) : RouteCounters :=
  let w := bytesWords 8 bs
  let nc := (bs.length - 64) / 8
  let t (off : Nat) : Table Nat := (List.range nc).filterMap (fun e =>
    let v := leNat ((bs.drop (off + 4 * e)).take 4)
    if v = 0 then none else some (e, v))
  { routes := (wordOf w 0).toNat, tokens := (wordOf w 1).toNat, nans := bits (wordOf w 2) 1 1, sat := bits (wordOf w 2) 0 0,
    adm := t 64, drop := t (64 + 4 * nc), emax := 0 }

/-- A counter block written, up to the end of each 4 KiB block at a time; its bytes count under tag 0 (R309, entry 145). -/
def putCounters (d c : Nat) (m : Cmd) : Nat → State → Got Unit × State
  | 0, s => (.ok (), s)
  | fuel + 1, s =>
    let y := nowCmd s d c m
    let va := (wordOf m.params 0).toNat + y.room
    let bs := (y.data.drop y.room).take (4096 - va % 4096)
    if bs.isEmpty then (.ok (), s)
    else match engineWrite d c m true 8 va bs s with
      | (.trap a b z, s) => (.trap a b z, s)
      | (.wait u, s) => (.wait u, s)
      | (.ok due, s) => putCounters d c m fuel
          (addHot (onCmd s d c m.id (fun y => { y with room := y.room + bs.length, landed := max y.landed due })) d c 0 bs.length)

/-- RCSNAP or RCREAD: the counters are taken when the command is served and written; a snapshot clears exactly what it has written. -/
def routeCounters (s : State) (d c : Nat) (m : Cmd) : State :=
  let h := homeOf (coreOf s d c)
  let s := if m.data.isEmpty then onCmd s d c m.id (fun y => { y with data := (countsSeen s h.1 h.2).block }) else s
  match putCounters d c m 8 s with
  | (.ok _, s) =>
    let y := nowCmd s d c m
    let w := blockCounts y.data
    let s := if m.kind != .rcsnap then s
      else if taskCommitted s h.1 h.2 then onDie s h.1 (fun y => { y with routing := y.routing.clear w })
      else
        let k := routeKey h.2 (shardOf (coreOf s d c))
        onDie s h.1 (fun y => { y with clears := tput y.clears k (tget y.clears k [] ++ [w]) })
    doneCmd s d c m.id y.landed
  | q => routeStop d c m q

/-- A landing of a routing command. -/
def routeLand (s : State) (d c : Nat) (m : Cmd) : State :=
  if m.kind != .route then routeCounters s d c m
  else match m.unit with
    | 0 => routeEntries s d c m
    | 1 => routeTables s d c m
    | 2 => routeToken s d c m
    | _ => routeFinish s d c m

/-- What a completed ROUTE has counted. -/
def routeCounted (m : Cmd) : RouteCounters :=
  let ps := m.aux.map placeOf
  let count (yes : Bool) : Table Nat := (List.range m.route.experts).filterMap (fun e =>
    let n := (ps.filter (fun p => p.admitted = yes && p.expert = e)).length
    if n = 0 then none else some (e, n))
  { routes := 1, tokens := m.route.tokens, nans := m.opid, sat := 0, adm := count true, drop := count false, emax := m.route.experts }

/-- A routing command completes: a ROUTE is counted, and the engine is free in the next cycle. -/
def routeDone (s : State) (d c : Nat) (m : Cmd) : State :=
  let h := homeOf (coreOf s d c)
  let s := if m.kind == .route then countRoute s h.1 h.2 (shardOf (coreOf s d c)) (routeCounted m) else s
  onDie s h.1 (fun y => { y with routeFree := s.cycle + 1 })

end Sys2Proof.Machine
end

