-- ==== Sys2Proof/Machine/Courier.lean ====
section
/-! DEFINITION. The courier and its words, and SPAWN (R64, R158 to R160, R270). -/

namespace Sys2Proof.Machine

/-! ## COURIER (R158) -/

/-- COURIER at issue: its program is 4-aligned, its flag and its table are 8-aligned. -/
def courierCheck (s : State) (c : Core) (ps : List Word) : Option (Cause × Nat) :=
  let a (i : Nat) := (wordOf ps i).toNat
  (firstOf [(decide (a 0 % 4 ≠ 0), .align, a 0), (decide (a 1 % 8 ≠ 0), .align, a 1), (decide (a 2 % 8 ≠ 0), .align, a 2)]).or
    ((bytesAtIssue s c.asid false true none (a 0) 4).or (bytesAtIssue s c.asid true true none (a 1) 8))

/-- COURIER (R158). -/
def execCourier (h : Hdr) (f : FE) (s : State) : Out := ecIssue h f s .courier .courier 3 (courierCheck s)

/-- The courier starts: PC at the program, OFS and LC zero, WB_c the write pointers. -/
def startCourier (s : State) (d c : Nat) (m : Cmd) : State :=
  onCore s d c (fun x => { x with courier :=
    { running := true, cmd := m.id, prog := (wordOf m.params 0).toNat, flag := (wordOf m.params 1).toNat,
      table := (wordOf m.params 2).toNat, pc := (wordOf m.params 0).toNat, ofs := 0, lc := 0,
      wb := (List.range 8).map (fun ch => x.wpBefore ch s.cycle), copies := [], waiting := false, ended := false } })

/-- The courier of the core in focus. -/
def State.courier (s : State) : Courier := s.core.courier

/-- The courier of the core in focus changed. -/
def State.onCourier (s : State) (f : Courier → Courier) : State := s.onCore (fun c => { c with courier := f c.courier })

/-- The courier goes on at an address. -/
def courierTo (s : State) (pc : Nat) : State := s.onCourier (fun r => { r with pc := pc % 2 ^ 56, waiting := false })

/-- The courier goes on at the next word. -/
def courierNext (s : State) : State := courierTo s (s.courier.pc + 4)

/-- The courier tries its word again in the next cycle. -/
def courierAgain (s : State) : State := s.onCourier (fun r => { r with waiting := true })

/-- A core's courier runs no word before some cycles are past. -/
def courierHold (s : State) (d c t : Nat) : State := onCore s d c (fun x => { x with grants := tput x.grants 9 (s.cycle + t) })

/-- The 32-bit word at an address of a core's courier, as its engine reads it in the task's vintage (R332). -/
def courierWordAt (s : State) (d c a : Nat) : Option (BitVec 32) :=
  let x := coreOf s d c
  let r := splitAccess d (some c) x.asid x.vt { write := false, raw := true, ordered := false, hostTrap := false } a 4 s
  match r.2.1 with
  | some _ => none
  | none => some (BitVec.ofNat 32 (leNat ((runsOf r.1).flatMap (fun p => readNow s (.cmd d c x.courier.cmd) d c s.seq p.1 p.2))))

/-- The flag doubleword of a COURIER command on its way: due when it is visible at device scope. -/
def sendFlag (s : State) (d c : Nat) (m : Cmd) (w : Word) : Got Nat × State :=
  let x := coreOf s d c
  let va := x.courier.flag
  let r := splitAccess d (some c) x.asid x.vt { write := true, raw := true, ordered := true, hostTrap := false } va 8 s
  match r.2.1 with
  | some (.trap cause e at_) => (.trap cause e at_, r.2.2)
  | some (.absent at_ l _) => deposit r.2.2 x.asid x.vt at_ 0 l (wordBytes w)
  | none => engineCommit r.2.2 d c m x.vt r.1 (fun ps => .bytes (dealBytes ps (wordBytes w)))

/-- The flag doubleword written by a COURIER command over the channel that its word names, whose write pointer rises by its bytes once they are
visible on the die (R58, R153, R158; entry 163). -/
def writeFlag (s : State) (d c : Nat) (m : Cmd) (w : Word) : Got Nat × State :=
  match sendFlag s d c m w with
  | (.ok due, s) => (.ok due, land s (.core d c) (unitSeen s d c m due) [.wp m.chan 8])
  | x => x

/-- The last flag of a courier that has ended or stopped, tried until it is written; the COURIER completes when it is visible. -/
def finishCourier (s : State) (d c : Nat) : State :=
  match (coreOf s d c).cmdOf (coreOf s d c).courier.cmd with
  | none => s
  | some m =>
    if m.unit ≠ 1 then s
    else match writeFlag s d c m (BitVec.ofNat 64 (m.aux.headD 0)) with
      | (.ok due, s) => doneCmd (onCmd s d c m.id (fun y => { y with unit := 2 })) d c m.id due
      | (.trap a b z, s) => cmdFault s d c m a b z
      | (.wait _, s) => s

/-- A courier that ends with a flag. -/
def endCourier (s : State) (d c : Nat) (w : Word) : State :=
  let s := onCore s d c (fun x => { x with courier := { x.courier with ended := true, waiting := false } })
  finishCourier (onCmd s d c (coreOf s d c).courier.cmd (fun y => { y with aux := [w.toNat], unit := 1 })) d c

/-- A courier stopped at its word (R64, R158); a page that is not resident stops the task into REPLAY (R152). -/
def haltCourier (s : State) (d c : Nat) (m : Cmd) (cause : Cause) (err va : Nat) : State :=
  let r := (coreOf s d c).courier
  if err = 0x2001 then cmdFault s d c m cause err va else endCourier s d c (courierFault r r.pc cause.code)

/-- A courier stopped by a word (R64). -/
def stopCourier (s : State) (cause : Cause) : State :=
  endCourier s s.focus.die s.focus.core (courierFault s.courier s.courier.pc cause.code)

/-- The COURIER command that the courier in focus runs. -/
def courierCmd (s : State) : Option Cmd := s.core.cmdOf s.courier.cmd

/-- A COURIER has completed: another may start in the next cycle. -/
def courierDone (s : State) (d c : Nat) : State :=
  onCore s d c (fun x => { x with courier := .idle, grants := tput x.grants 9 (s.cycle + 1) })

/-! ## Courier words (R158) -/

/-- An address field of a descriptor with OFS added: a carry out of the field is lost, so that the sum stays in the address space or in the
buffer's offset (entry 128). -/
def addOfs (w : Word) (ofs : Nat) : Word :=
  let n := if adrSpace w = 0 then 56 else 24
  BitVec.ofNat 64 (w.toNat / 2 ^ n * 2 ^ n + (w.toNat + ofs) % 2 ^ n)

/-- CW.COPY: a COPY from a descriptor, without tokens and bound; a full queue is waited for. -/
def execCwCopy (c : BitVec 4) (n : BitVec 24) (s : State) : Out :=
  .next (match courierCmd s with
  | none => s
  | some m =>
    let d := s.focus.die
    let k := s.focus.core
    let q : QueueId := .chan c.toNat
    if s.core.queueFull q then courierAgain s
    else match engineRead s d k m s.core.vt (s.courier.table + 40 * n.toNat) 40 false true with
      | (.trap a b z, s) => haltCourier s d k m a b z
      | (.wait t, s) => courierAgain (courierHold s d k (t.getD 64))
      | (.ok bs, s) =>
        let ofs := s.courier.ofs
        let ps := (bytesWords 5 bs).mapIdx (fun i w => if i < 2 then addOfs w ofs else w)
        match copyCheck s .copy s.core ps with
        | some (cause, _) => stopCourier s cause
        | none =>
          let f : FE := { kp := 0, kc1 := 0, kc2 := 0, kc3 := 0, bnd := 0xFF, x := 0, ch := c.setWidth 3 }
          let id := s.seq
          let s := onCmd (issueCmd s d k q .copy ps f) d k id (fun y => { y with fromCourier := true, aux := [s.courier.pc] })
          courierNext (s.onCourier (fun r => { r with copies := r.copies ++ [id] })))

/-- CW.WAIT: the courier waits for a write pointer. -/
def execCwWait (c : BitVec 4) (n : BitVec 24) (s : State) : Out :=
  .next (if s.courier.wb.getD c.toNat 0 + 256 * n.toNat ≤ s.core.wpBefore c.toNat s.cycle then courierNext s else courierAgain s)

/-- CW.FLAG: the flag with STATE 1 and a value. -/
def execCwFlag (v : BitVec 24) (s : State) : Out :=
  .next (match courierCmd s with
  | none => s
  | some m => match writeFlag s s.focus.die s.focus.core m (fieldAt 1 56 ||| fieldAt v.toNat 0) with
    | (.ok _, s) => courierNext s
    | (.trap a b z, s) => haltCourier s s.focus.die s.focus.core m a b z
    | (.wait _, s) => courierAgain s)

/-- CW.LOOP: LC counts down, and the courier goes back while it is not 0. -/
def execCwLoop (cnt back : BitVec 12) (s : State) : Out :=
  .next (if cnt = 0 || back = 0 then stopCourier s .reservedField
  else
    let lc := (if s.courier.lc = 0 then cnt.toNat else s.courier.lc) - 1
    let s := s.onCourier (fun r => { r with lc := lc })
    if lc ≠ 0 then courierTo s (s.courier.pc + 2 ^ 56 - 4 * back.toNat) else courierNext s)

/-- CW.ADD: OFS rises by 64 times a signed number. -/
def execCwAdd (d : BitVec 24) (s : State) : Out :=
  .next (courierNext (s.onCourier (fun r => { r with ofs := (BitVec.ofNat 64 r.ofs + sext d * 64).toNat })))

/-- CW.END: once every COPY that the courier issued has completed, the flag with STATE 2. -/
def execCwEnd (s : State) : Out :=
  .next (if s.core.cmds.any (fun m => s.courier.copies.contains m.id) then courierAgain s
  else endCourier s s.focus.die s.focus.core (fieldAt 2 56))

/-- COURIER_ILLEGAL_WORD: a word with OPC 6 to 15 stops the courier with ILLEGAL_OP (R64). -/
def execCourierIllegalWord (_ : BitVec 32) (s : State) : Out := .next (stopCourier s .illegalOp)

/-! ## SPAWN (R160, R270) -/

/-- SPAWN at issue: its record and its completion slot are 64-aligned. -/
def spawnCheck (s : State) (c : Core) (ps : List Word) : Option (Cause × Nat) :=
  let a (i : Nat) := (wordOf ps i).toNat
  (firstOf [(!c.committed, .notCommitted, 0), (decide (a 0 % 64 ≠ 0), .align, a 0), (decide (a 1 % 64 ≠ 0), .align, a 1)]).or
    (bytesAtIssue s c.asid false true none (a 0) 256)

/-- SPAWN (R160). -/
def execSpawn (h : Hdr) (f : FE) (s : State) : Out := ecIssue h f s .spawn .spawn 2 (spawnCheck s)

/-- SPAWN starts: a serial that can have no children traps; else its record is read. -/
def startSpawn (s : State) (d c : Nat) (m : Cmd) : State :=
  let p := (homeOf (coreOf s d c)).2
  if generation p = 7 || p / 2 ^ 38 % 64 ≠ 0 then cmdFault s d c m .reservedField 0 0
  else
    let r := engineLat s d c 0 (wordOf m.params 0).toNat (coreOf s d c).vt
    at' r.2 (r.2.cycle + r.1) (.engineUnitLand d c m.id)

/-- SPAWN has read its record: it is checked as a post's, and captured. -/
def spawnLand (s : State) (d c : Nat) (m : Cmd) : State :=
  let x := coreOf s d c
  let h := homeOf x
  let va := (wordOf m.params 0).toNat
  let slot := (wordOf m.params 1).toNat
  if x.blockedBy m then at' s (s.cycle + 1) (.engineUnitLand d c m.id)
  else match engineRead s d c m x.vt va 256 false true with
    | (.trap a b z, s) => cmdFault s d c m a b z
    | (.wait t, s) => at' s (s.cycle + t.getD 64) (.engineUnitLand d c m.id)
    | (.ok bs, s) =>
      let r := bytesWords 32 bs
      if slot ≠ 0 && !pageOk s x.asid slot true then cmdFault s d c m .prot 0 slot
      else if recAsid r ≠ x.asid then cmdFault s d c m .prot 0 va
      else match recordNeeds s r with
      | (.bad, s) => cmdFault s d c m .uncorrectable 0 0
      | (.coded va, s) => cmdFault s d c m .format 0 va
      | (.rebuilt, s) => at' s (s.cycle + rebuildDelay) (.engineUnitLand d c m.id)
      | (.absent l, s) => (match (engineAsk s d c m x.asid 0 l.va false l : Got Unit × State) with
        | (.trap a b z, s) => cmdFault s d c m a b z
        | (_, s) => at' s (s.cycle + 64) (.engineUnitLand d c m.id))
      | (.ready, s) => match recordFault s h.1 r false 0 true with
        | some (cause, info) => cmdTrap s d c m false { trapOf cause with info := info }
        | none =>
          let held := match entryOf s h.1 h.2 with | some e => e.children.length | none => 0
          if 64 ≤ held then cmdFault s d c m .windowFull 0 0
          else
            let shard := match x.task with | some t => t.shard | none => 0
            let k : Child := { shard := shard, recd := r, slot := if slot = 0 then 0 else slot + 1 }
            doneCmd (onEntry s h.1 h.2 (fun e => { e with children := e.children ++ [k] })) d c m.id s.cycle

end Sys2Proof.Machine
end

