-- ==== Sys2Proof/Machine/Spill.lean ====
section
/-! DEFINITION. The transpose unit and the spill engine: XPOSE, XPOSE.P, SPILL and FILL of the register space (R197, R198, R377). -/

namespace Sys2Proof.Machine

/-! ## Issue -/

/-- The n scalars from s[X] on; none where one is at or beyond its view's COUNT. -/
def xlParams (c : Core) (f : FE) (n : Nat) : Option (List Word) := (List.range n).mapM (fun i => sSrcOf c (f.x + BitVec.ofNat 10 i))

/-- A word that starts a unit of the execute processor: its scalars, its checks, a wait while the unit's queue is full. -/
def xlIssue (h : Hdr) (f : FE) (s : State) (q : QueueId) (k : CmdKind) (n : Nat) (check : Core → List Word → Option (Cause × Nat)) : Out :=
  .next (if xpHolds h s then
    let e := coreReadError s s.focus.die s.focus.core 0
    if e.1 then xpTrap e.2 (trapOf .uncorrectable)
    else match xlParams e.2.core f n with
      | none => viewTrap e.2
      | some ps => match check e.2.core ps with
        | some (c, va) => xpTrap e.2 (trapAt c va)
        | none =>
          if e.2.core.queueFull q then xpStall e.2 (.stalled .queueFull)
          else issueCmd e.2 s.focus.die s.focus.core q k ps f
  else s)

/-! ## XPOSE (R197) -/

/-- What an XPOSE moves: both sides, the elements of a source row, the rows, the bytes of an element. -/
structure Turn where
  src   : Side
  dst   : Side
  len   : Nat
  rows  : Nat
  size  : Nat
  deriving DecidableEq, Repr

/-- What the scalars of an XPOSE say. -/
def turnOf (ps : List Word) : Turn :=
  let p := wordOf ps
  { src := sideOf (p 0) (loStride (p 3)), dst := sideOf (p 1) (hiStride (p 3)), len := bits (p 2) 23 0, rows := bits (p 2) 39 24,
    size := 2 ^ bits (p 4) 1 0 }

/-- The offset at which row r of a side of an XPOSE begins. -/
def rowOffset (c : Core) (half : BitVec 3) (dst : Bool) (y : Side) (r : Nat) : Nat :=
  resolveIn c half dst y.space (y.base + (r : Int) * y.stride).toNat

/-- The first byte and the end of the rows of a side. -/
def rowsSpan (c : Core) (half : BitVec 3) (dst : Bool) (y : Side) (rows n : Nat) : Nat × Nat :=
  (List.range rows).foldl (fun p r => let a := rowOffset c half dst y r; (min p.1 a, max p.2 (a + n))) (2 ^ 24, 0)

/-- The checks of XPOSE and XPOSE.P at issue. -/
def turnCheck (planes : Bool) (c : Core) (ps : List Word) : Option (Cause × Nat) :=
  let p := wordOf ps
  let t := turnOf ps
  let a := rowsSpan c c.half false t.src t.rows (t.len * t.size)
  let b := rowsSpan c c.half true t.dst t.len (t.rows * t.size)
  if !adrOk (p 0) || !adrOk (p 1) || !shapeOk (p 2) || bits (p 4) 63 2 ≠ 0 || (planes && (t.size ≠ 1 || t.rows % 256 ≠ 0))
      || t.src.space = 0 || t.dst.space = 0 then some (.reservedField, 0)
  else if t.src.space = 3 || t.dst.space = 3 then some (.bufferAccess, 0)
  else if rowsPass c c.half false t.src t.rows (t.len * t.size) || rowsPass c c.half true t.dst t.len (t.rows * t.size) then some (.prot, 0)
  else if t.src.space = t.dst.space && overlaps a.1 (a.2 - a.1) b.1 (b.2 - b.1) then some (.reservedField, 0)
  else none

/-- XPOSE (R197). -/
def execXpose (h : Hdr) (f : FE) (s : State) : Out := xlIssue h f s .xpose .xpose 5 (turnCheck false)

/-- XPOSE.P (R197). -/
def execXposeP (h : Hdr) (f : FE) (s : State) : Out := xlIssue h f s .xpose .xposeP 5 (turnCheck true)

/-- An XPOSE starts: it completes S + 8 + ⌈B/256⌉ + 4 cycles on. -/
def startTurn (s : State) (d c : Nat) (m : Cmd) : State :=
  let t := turnOf m.params
  at' s (s.cycle + 12 + ceilDiv (t.len * t.rows * t.size) 256) (.engineUnitLand d c m.id)

/-- The bytes of destination row k of an XPOSE from the rows of its source. -/
def turnedRow (t : Turn) (planes : Bool) (rows : List (List Byte)) (k : Nat) : List Byte :=
  let es := rows.map (fun r => (r.drop (k * t.size)).take t.size)
  if planes then
    let xs := es.map leNat
    (List.range (t.rows / 256)).flatMap (fun b => encodePlanes 8 ((xs.drop (256 * b)).take 256))
  else es.flatten

/-- An XPOSE moves its bytes in its completion cycle; it carries no tag, and they count under tag 0 (R309, entry 145). -/
def turnLand (s : State) (d c : Nat) (m : Cmd) : State :=
  let t := turnOf m.params
  let e := coreReadError s d c t.src.space
  if e.1 then cmdFault e.2 d c m .uncorrectable 0 0
  else
    let k := coreOf e.2 d c
    let rows := (List.range t.rows).map (fun r => bytesAt (bufOf k t.src.space) (rowOffset k m.half false t.src r) (t.len * t.size))
    let s := (List.range t.len).foldl (fun s j => onCore s d c (fun x =>
      putBuf x t.dst.space (rowOffset k m.half true t.dst j) (turnedRow t (m.kind == .xposeP) rows j))) e.2
    doneCmd (addHot s d c 0 (t.len * t.rows * t.size)) d c m.id s.cycle

/-! ## SPILL and FILL (R198, R377) -/

/-- Offset and length of the register range of a SPILL or FILL. -/
def spillRange (ps : List Word) : Nat × Nat := ((wordOf ps 0).toNat, (wordOf ps 1).toNat)

/-- The memory side of a SPILL or FILL as one row. -/
def spillSide (ps : List Word) : Side := sideOf (wordOf ps 2) 0

/-- A page of codes 10 to 13 under a range. -/
def codedPages (s : State) (asid va n : Nat) : Option Nat :=
  match leavesFrom s asid (n / 4096 + 2) va (va + n) with
  | .ok ls => (ls.find? (fun l => 10 ≤ l.fmt)).map (fun l => max va l.va)
  | .error _ => none

/-- The checks of SPILL (dst: memory is its destination) and FILL at issue. -/
def spillCheck (s : State) (dst : Bool) (c : Core) (ps : List Word) : Option (Cause × Nat) :=
  let p := wordOf ps
  let r := spillRange ps
  let y := spillSide ps
  if r.1 % 256 ≠ 0 || r.2 % 256 ≠ 0 || r.2 = 0 || 131072 < r.1 + r.2 || !adrOk (p 2) || !ctrlOk (p 3) || bits (p 3) 3 0 ≠ 0 then
    some (.reservedField, 0)
  else if y.space = 1 then some (.bufferAccess, 0)
  else if y.space = 0 && adrBase (p 2) % 256 ≠ 0 then some (.align, adrBase (p 2))
  else if rowsPass c c.half dst y 1 r.2 then some (.prot, 0)
  else if y.space = 0 then bytesAtIssue s c.asid dst true none (adrBase (p 2)) r.2
  else none

/-- SPILL (R198). -/
def execSpill (h : Hdr) (f : FE) (s : State) : Out := xlIssue h f s .spill .spill 4 (spillCheck s true)

/-- FILL of the register space (R198). -/
def execXpFill (h : Hdr) (f : FE) (s : State) : Out := xlIssue h f s .spill .fillRs 4 (spillCheck s false)

/-- Whether the spill engine may start a command now (R377). -/
def spillFree (x : Core) (now : Nat) : Bool :=
  decide (tget x.grants 8 0 ≤ now) && !x.cmds.any (fun y => y.queue == .spill && y.started.isSome)

/-- A SPILL or FILL starts: a SPILL takes its bytes as they stand before the results that land in this cycle. -/
def startSpill (s : State) (d c : Nat) (m : Cmd) : State :=
  let r := spillRange m.params
  let y := spillSide m.params
  let x := coreOf s d c
  match (if y.space = 0 then codedPages s x.asid (adrBase (wordOf m.params 2)) r.2 else none) with
  | some va => cmdFault s d c m .format 0 va
  | none => match m.kind with
    | .spill =>
      let e := coreReadError s d c 0
      if e.1 then cmdFault e.2 d c m .uncorrectable 0 0
      else
        let s := onCmd e.2 d c m.id (fun z => { z with data := bytesAt x.space r.1 r.2 })
        at' s (s.cycle + 7 + ceilDiv r.2 256) (.engineUnitLand d c m.id)
    | _ =>
      let l := engineLat s d c y.space (vaOf y.base) x.vt
      at' l.2 (l.2.cycle + l.1) (.engineUnitLand d c m.id)

/-- The bytes that a SPILL or FILL moves, landed: the barrier it names and its hotness counter. -/
def spillLanded (s : State) (d c : Nat) (m : Cmd) (due n : Nat) : State :=
  let ctrl := wordOf m.params 3
  let bar : Got (Option Part) × State :=
    if ctrlBarrier ctrl = 0 then (.ok none, s)
    else match barrierPart s d c m (ctrlBarrier ctrl) with
      | (.ok p, s) => (.ok (some p), s)
      | (.trap a b z, s) => (.trap a b z, s)
      | (.wait t, s) => (.wait t, s)
  match bar with
  | (.trap a b z, s) => cmdFault s d c m a b z
  | (.wait t, s) => at' s (s.cycle + t.getD 64) (.engineUnitLand d c m.id)
  | (.ok bar, s) => doneCmd (landBytes s d c m (bits ctrl 63 56) bar due n) d c m.id due

/-- A landing of the spill engine: a SPILL writes its bytes; a FILL reads memory, and writes the range in its completion cycle. -/
def spillLand (s : State) (d c : Nat) (m : Cmd) : State :=
  let r := spillRange m.params
  let y := spillSide m.params
  let x := coreOf s d c
  let off := resolveIn x m.half (m.kind == .spill) y.space (vaOf y.base)
  let stop {α : Type} (g : Got α × State) : State := match g.1 with
    | .trap a b z => cmdFault g.2 d c m a b z
    | .wait (some t) => at' g.2 (g.2.cycle + t) (.engineUnitLand d c m.id)
    | _ => g.2
  match m.kind, m.unit with
  | .spill, 0 =>
    (match (if y.space = 0 then engineWrite d c m true (m.data.length / 4096 + 8) (vaOf y.base) m.data s else bufferWrite s d c y.space off m.data) with
    | (.ok due, s) =>
      let s := onCmd s d c m.id (fun z => { z with unit := 1, landed := due })
      spillLanded s d c { m with unit := 1, landed := due } due r.2
    | g => stop g)
  | .spill, _ => spillLanded s d c m m.landed r.2
  | _, 0 =>
    (match (if y.space = 0 then engineRead s d c m x.vt (vaOf y.base) r.2 false true else bufferRead s d c y.space off r.2) with
    | (.ok bs, s) =>
      at' (onCmd s d c m.id (fun z => { z with unit := 1, data := bs })) (s.cycle + ceilDiv r.2 256 + 8) (.engineUnitLand d c m.id)
    | g => stop g)
  | _, 1 =>
    let s := onCmd (onCore s d c (fun z => { z with space := writeBytes z.space r.1 m.data })) d c m.id (fun z => { z with unit := 2 })
    spillLanded s d c m s.cycle r.2
  | _, _ => spillLanded s d c m s.cycle r.2

/-- A command of the spill engine has completed: the next starts no earlier than the next cycle. -/
def spillDone (s : State) (d c : Nat) : State := onCore s d c (fun x => { x with grants := tput x.grants 8 (s.cycle + 1) })

end Sys2Proof.Machine
end

