-- ==== Sys2Proof/Machine/Fabric.lean ====
section
/-! DEFINITION. Commands to other devices: RPUT, RGET, RAMO and MCAST, and the receipt of a multicast (R161, R379, R380, R392, R396,
R397). -/

namespace Sys2Proof.Machine

/-! ## Issue (R161) -/

/-- Whether an address register keeps bits 63:56 zero. -/
def remoteVa (w : Word) : Bool := bits w 63 56 = 0

/-- DEV of a command. -/
def fabDev (ps : List Word) : Nat := bits (wordOf ps 2) 11 0

/-- LEN of RPUT and RGET. -/
def fabLen (ps : List Word) : Nat := bits (wordOf ps 2) 47 16

/-- The checks of a buffer side of a command to another device. -/
def fabSide (c : Core) (dst : Bool) (w : Word) (n : Nat) : List (Bool × Cause × Nat) :=
  [(!dst && adrSpace w = 1, .bufferAccess, 0), (rowsPass c c.half dst (sideOf w 0) 1 n, .prot, 0)]

/-- What R130 finds at issue on the local side of a command to another device. -/
def fabPages (s : State) (c : Core) (dst : Bool) (w : Word) (n : Nat) : Option (Cause × Nat) :=
  if adrSpace w ≠ 0 then none else bytesAtIssue s c.asid dst true none (adrBase w) n

/-- RPUT and RGET at issue; RGET names a barrier where RPUT names a flag. -/
def putGetCheck (s : State) (get : Bool) (c : Core) (ps : List Word) : Option (Cause × Nat) :=
  let p := wordOf ps
  let flag := bits (p 3) 55 0
  (firstOf ([(!get && !c.committed, .notCommitted, 0),
    (!adrOk (p 0) || !remoteVa (p 1) || bits (p 2) 15 12 ≠ 0 || bits (p 2) 63 48 ≠ 0 || fabLen ps = 0
      || decide (16777216 < fabLen ps) || (get && bits (p 3) 4 0 ≠ 0), .reservedField, 0),
    (!get && flag % 8 ≠ 0, .align, flag)] ++ fabSide c get (p 0) (fabLen ps))).or
    (fabPages s c get (p 0) (fabLen ps))

/-- RPUT (R161). -/
def execRput (h : Hdr) (f : FE) (s : State) : Out := ecIssue h f s (.chan f.ch.toNat) .rput 4 (putGetCheck s false)

/-- RGET (R161). -/
def execRget (h : Hdr) (f : FE) (s : State) : Out := ecIssue h f s (.chan f.ch.toNat) .rget 4 (putGetCheck s true)

/-- OP of a RAMO. -/
def ramoOp (ps : List Word) : Nat := bits (wordOf ps 2) 19 16

/-- The bytes that a RAMO works on. -/
def ramoSize (ps : List Word) : Nat := if bit (wordOf ps 2) 20 then 8 else 4

/-- RAMO at issue. -/
def ramoCheck (s : State) (c : Core) (ps : List Word) : Option (Cause × Nat) :=
  let p := wordOf ps
  (firstOf [(ramoOp ps = 10 && c.strict, .nondeterministic, 0), (!c.committed, .notCommitted, 0),
    (!remoteVa (p 0) || bits (p 2) 15 12 ≠ 0 || bits (p 2) 63 21 ≠ 0 || decide (10 < ramoOp ps) || !remoteVa (p 4), .reservedField, 0),
    ((p 0).toNat % ramoSize ps ≠ 0, .align, (p 0).toNat), ((p 4).toNat % 8 ≠ 0, .align, (p 4).toNat)]).or
    (bytesAtIssue s c.asid true true none (p 4).toNat 8)

/-- RAMO (R161). -/
def execRamo (h : Hdr) (f : FE) (s : State) : Out := ecIssue h f s (.chan f.ch.toNat) .ramo 5 (ramoCheck s)

/-- LIST of an MCAST. -/
def mcastList (ps : List Word) : Nat := bits (wordOf ps 2) 9 0

/-- LEN of an MCAST. -/
def mcastLen (ps : List Word) : Nat := bits (wordOf ps 2) 28 16

/-- MCAST at issue. -/
def mcastCheck (s : State) (c : Core) (ps : List Word) : Option (Cause × Nat) :=
  let p := wordOf ps
  (firstOf ([(!c.committed, .notCommitted, 0),
    (!adrOk (p 0) || !remoteVa (p 1) || bits (p 2) 15 10 ≠ 0 || bits (p 2) 63 29 ≠ 0 || mcastLen ps = 0
      || decide (4096 < mcastLen ps) || !remoteVa (p 3) || !remoteVa (p 4), .reservedField, 0),
    ((p 3).toNat % 8 ≠ 0, .align, (p 3).toNat), ((p 4).toNat % 64 ≠ 0, .align, (p 4).toNat)] ++ fabSide c false (p 0) (mcastLen ps))).or
    ((fabPages s c false (p 0) (mcastLen ps)).or (bytesAtIssue s c.asid true true none (p 4).toNat 64))

/-- MCAST (R161). -/
def execMcast (h : Hdr) (f : FE) (s : State) : Out := ecIssue h f s (.chan f.ch.toNat) .mcast 5 (mcastCheck s)

/-! ## Starting (R392, R397) -/

/-- Whether the outstanding limits of a command's route let it start. -/
def fabReady (s : State) (m : Cmd) : Bool :=
  match m.kind with
  | .rget => true
  | .mcast => (tget s.listSend (mcastList m.params) .reset).unacked.all (fun u =>
      decide ((u.2.filter (fun x => !x.acked)).length
        + (s.mcasts.filter (fun o => o.list = mcastList m.params && !o.sent)).length < 1024))
  | _ => decide ((s.ops.filter (fun o => o.dev = fabDev m.params && o.dst = 0)).length < 256)

/-- A command numbered toward its target, and noted as outstanding; LINK_DOWN ends one whose route is down (R384, R394). -/
def openOp (s : State) (d c : Nat) (m : Cmd) (left dst : Nat) (go : Nat → State → State) : State :=
  let dev := fabDev m.params
  let n := takeOpid s dev
  if !routeUp s dev then cmdFault n.2 d c m .linkDown 0 n.1
  else go n.1 (onCmd (addOp n.2 dev n.1 (.cmd d c m.id) left dst) d c m.id (fun y => { y with opid := n.1 }))

/-- The bytes of the next piece of a range: to a 4,096-byte boundary of its source, or to its end (R387). -/
def pieceLen (src off len : Nat) : Nat := min (4096 - (src + off) % 4096) (len - off)

/-- The next landing of a command: the piece that ends at an offset has gone by the cycle its bytes take from the start. -/
def fabNext (s : State) (d c : Nat) (m : Cmd) (off : Nat) : State :=
  at' s (max s.cycle (m.started.getD s.cycle + ceilDiv off 256)) (.engineUnitLand d c m.id)

/-- The GET frames of an RGET, one after another (R387). -/
def sendGets (m : Cmd) (asid dev opid : Nat) : Nat → Nat → State → State
  | 0, _, s => s
  | fuel + 1, off, s =>
    let va := (wordOf m.params 1).toNat
    let n := pieceLen va off (fabLen m.params)
    if n = 0 then s
    else sendGets m asid dev opid fuel (off + n) (sendSeq s dev (mkFrame s dev 3 asid opid (va + off) 0 n []))

/-- The pieces of an RGET: offset and length. -/
def getPieces (va len : Nat) : Nat → Nat → List (Nat × Nat)
  | 0, _ => []
  | fuel + 1, off =>
    let n := pieceLen va off len
    if n = 0 then [] else (off, n) :: getPieces va len fuel (off + n)

/-- The list of an MCAST. -/
def listOf (s : State) (n : Nat) : MailList := tget s.lists n { valid := false, members := [], grp := 0 }

/-- The members of a list that are delivered to, each once. -/
def deliveries (ms : List Nat) : List Nat := ms.eraseDups

/-- An MCAST starts: it goes by the list as it stands now; a list that may not be used completes at once, and a member whose route is down
has its entry (R394, R396, R397). -/
def startMcast (s : State) (d c : Nat) (m : Cmd) : State :=
  let l := listOf s (mcastList m.params)
  let ms := if l.valid then l.members else []
  let o : McastOp := { id := m.id, die := d, core := c, cmd := m.id, list := mcastList m.params, receipt := (wordOf m.params 4).toNat,
                       members := ms, grp := l.grp, sent := ms.isEmpty, answers := [], opids := [] }
  let s := { s with mcasts := s.mcasts ++ [o] }
  if ms.isEmpty then at' s s.cycle (.mcastReceiptWrite m.id)
  else fabNext ((deliveries ms).foldl (fun s dev => if routeUp s dev then s else mcastAnswer s m.id dev 0x52) s) d c m (mcastLen m.params)

/-- A command to another device starts. -/
def startFab (s : State) (d c : Nat) (m : Cmd) : State :=
  let asid := (coreOf s d c).asid
  match m.kind with
  | .rput =>
    openOp s d c m 1 0 (fun _ s =>
      fabNext s d c m (pieceLen (adrBase (wordOf m.params 0)) 0 (fabLen m.params)))
  | .rget =>
    let len := fabLen m.params
    let va := (wordOf m.params 1).toNat
    openOp s d c m (getPieces va len 4098 0).length 1 (fun n s => sendGets m asid (fabDev m.params) n 4098 0 s)
  | .ramo =>
    openOp s d c m 1 0 (fun n s =>
      let dev := fabDev m.params
      sendSeq s dev (mkFrame s dev 5 asid n (wordOf m.params 0).toNat (ramoOp m.params + (if ramoSize m.params = 8 then 16 else 0)) 0
        (wordsBytes [wordOf m.params 1, wordOf m.params 3])))
  | _ => startMcast s d c m

/-! ## RPUT (R387, R392) -/

/-- The bytes of a command's local source. -/
def fabSource (s : State) (d c : Nat) (m : Cmd) (off n : Nat) : Got (List Byte) × State :=
  let w := wordOf m.params 0
  let x := coreOf s d c
  if adrSpace w ≠ 0 then bufferRead s d c (adrSpace w) (resolveIn x m.half false (adrSpace w) (adrBase w) + off) n
  else engineRead s d c m x.vt (adrBase w + off) n false true

/-- A command to another device that traps is outstanding no longer. -/
def fabFault (s : State) (d c : Nat) (m : Cmd) (cause : Cause) (err va : Nat) : State :=
  cmdFault (dropOp s (fabDev m.params) m.opid) d c m cause err va

/-- The next PUT frame of an RPUT; after the last, its END. -/
def putLand (s : State) (d c : Nat) (m : Cmd) : State :=
  let len := fabLen m.params
  let off := m.unit
  let src := adrBase (wordOf m.params 0)
  let n := pieceLen src off len
  let dev := fabDev m.params
  let asid := (coreOf s d c).asid
  match fabSource s d c m off n with
  | (.trap a b z, s) => fabFault s d c m a b z
  | (.wait t, s) => at' s (s.cycle + t.getD 64) (.engineUnitLand d c m.id)
  | (.ok bs, s) =>
    let s := sendSeq s dev (mkFrame s dev 1 asid m.opid ((wordOf m.params 1).toNat + off) 0 0 bs)
    let s := addHot (onCmd s d c m.id (fun y => { y with unit := off + n })) d c (bits (wordOf m.params 3) 63 56) n
    if len ≤ off + n then sendSeq s dev (mkFrame s dev 2 asid m.opid (bits (wordOf m.params 3) 55 0) 0 0 [])
    else fabNext s d c m (off + n + pieceLen src (off + n) len)

/-! ## RGET and RAMO: what comes back (R387, R392) -/

/-- What a command that writes local bytes found. -/
def fabStop (d c : Nat) (m : Cmd) (r : Got Nat × State) : State :=
  match r.1 with
  | .trap a b z => fabFault r.2 d c m a b z
  | .wait (some t) => at' r.2 (r.2.cycle + t) (.engineUnitLand d c m.id)
  | _ => r.2

/-- The pieces of an RGET that have come: a queue of offset, length and bytes, in the command's data. -/
def getLand (s : State) (d c : Nat) (m : Cmd) : State :=
  match m.aux with
  | off :: n :: rest =>
    let w := wordOf m.params 0
    let x := coreOf s d c
    let bs := m.data.take n
    let ctrl := wordOf m.params 3
    let put := if adrSpace w ≠ 0 then bufferWrite s d c (adrSpace w) (resolveIn x m.half true (adrSpace w) (adrBase w) + off) bs
      else engineWrite d c m true 8 (adrBase w + off) bs s
    (match put with
    | (.ok due, s) =>
      let bar : Got (Option Part) × State :=
        if ctrlBarrier ctrl = 0 then (.ok none, s)
        else match barrierPart s d c m (ctrlBarrier ctrl) with
          | (.ok p, s) => (.ok (some p), s)
          | (.trap a b z, s) => (.trap a b z, s)
          | (.wait t, s) => (.wait t, s)
      (match bar with
      | (.trap a b z, s) => fabFault s d c m a b z
      | (.wait t, s) => at' s (s.cycle + t.getD 64) (.engineUnitLand d c m.id)
      | (.ok bar, s) =>
        let s := landBytes s d c m (bits ctrl 63 56) bar due n
        let landed := max m.landed due
        let s := onCmd s d c m.id (fun y => { y with data := y.data.drop n, aux := rest, landed := landed, rows := y.rows + 1 })
        if m.rows + 1 = (getPieces (wordOf m.params 1).toNat (fabLen m.params) 4098 0).length then doneCmd s d c m.id landed
        else if rest.isEmpty then s
        else at' s (s.cycle + 1) (.engineUnitLand d c m.id))
    | r => fabStop d c m r)
  | _ => s

/-- The old value of a RAMO is written to its result VA; its bytes count under tag 0 (R309, entry 145). -/
def ramoLand (s : State) (d c : Nat) (m : Cmd) : State :=
  match engineWrite d c m true 8 (wordOf m.params 4).toNat m.data s with
  | (.ok due, s) => doneCmd (addHot s d c 0 8) d c m.id due
  | r => fabStop d c m r

/-! ## MCAST (R379, R380, R397) -/

/-- A delivery to memory as an agent from outside the die's cores: all of the range translated and checked in ascending order (R130, R379). The
parts that have a home, and the pieces whose pages are not resident; or the cause of the first check that fails. -/
def outerParts (asid : Nat) : Nat → Nat → Nat → State → Except Nat (List Part × List (Nat × Nat × Leaf)) × State
  | 0, _, _, s => (.ok ([], []), s)
  | fuel + 1, va, n, s =>
    if n = 0 then (.ok ([], []), s)
    else
      let r := splitAccess (2 * hubOf va) none asid 0 { write := true, raw := true, ordered := false, hostTrap := false } va n s
      match r.2.1 with
      | some (.trap cause _ _) => (.error cause.code, r.2.2)
      | none => (.ok (r.1, []), r.2.2)
      | some (.absent at_ l _) =>
        let k := min (va + n - at_) (l.va + l.size - at_)
        match outerParts asid fuel (at_ + k) (va + n - (at_ + k)) r.2.2 with
        | (.ok q, s) => (.ok (r.1 ++ q.1, (at_, k, l) :: q.2), s)
        | q => q

/-- Whether the poste restante has room for all of some pieces (R297). -/
def posteRoom (s : State) (ds : List (Nat × Nat × Leaf)) : Bool :=
  (List.range 4).all (fun h =>
    decide (ds.foldl (fun n x => if hubOf x.1 = h then n + 32 + roundUp x.2.1 32 else n) (posteUsed s h) ≤ 0x4000000))

/-- Bytes from another device performed here, at their home and as an agent of no die (R311, R312); those of a page that is not resident
are left at the poste restante (R297), where they are not before the bytes they follow either. Answers the cycle in which all are visible. -/
def outerWrite (s : State) (who : AgentId) (release : Bool) (asid from_ va : Nat) (bs : List Byte)
    (ps : List Part × List (Nat × Nat × Leaf)) : Nat × State :=
  let w := if ps.1.isEmpty then (s, s.cycle)
    else issueParts s who 8 32 release s.cycle from_ ps.1 (.bytes (ps.1.map (fun p => (p.pa, (bs.drop (p.va - va)).take p.len))))
  ps.2.foldl (fun r x => match deposit r.2 asid 0 x.1 from_ x.2.2 ((bs.drop (x.1 - va)).take x.2.1) with
    | (.ok due, s) => (max r.1 due, s)
    | (_, s) => (r.1, s)) (w.2, w.1)

/-- A delivery of a line and a flag (R379): the cause of the first failing check; else the cycle in which both are visible, none while the
poste restante has no room for what it must take: then nothing is done. -/
def deliverLine (s : State) (who : AgentId) (asid va : Nat) (line : List Byte) (flag : Nat) : Except Nat (Option Nat) × State :=
  match outerParts asid 8 va line.length s with
  | (.error e, s) => (.error e, s)
  | (.ok ls, s) =>
    let found : Except Nat (List Part × List (Nat × Nat × Leaf)) × State :=
      if flag = 0 then (.ok ([], []), s)
      else if flag % 8 ≠ 0 then (.error Cause.align.code, s)
      else outerParts asid 2 flag 8 s
    match found with
    | (.error e, s) => (.error e, s)
    | (.ok fs, s) =>
      if !posteRoom s (ls.2 ++ fs.2) then (.ok none, s)
      else
        let a := outerWrite s who false asid s.cycle va line ls
        let b := if flag = 0 then a else outerWrite a.2 who true asid a.1 flag (wordBytes 1) fs
        (.ok (some (max a.1 b.1)), b.2)

/-- An operation number that is new toward every member of a list. -/
def listOpid (s : State) (ms : List Nat) : Nat × State :=
  let n := ms.foldl (fun a dev => max a (flowOf s dev).nextOpid) 1
  (n, ms.foldl (fun s dev => onFlow s dev (fun x => { x with nextOpid := n + 1 })) s)

/-- The number by which the timers name a list flow with a member. -/
def listPeer (list dev : Nat) : Nat := 4096 * (list + 1) + dev

/-- The fabric port in service of the lowest index. -/
def anyPort (s : State) : Option Nat := (List.range 16).find? (portUp s)

/-- An MCAST has read its line: one frame with the next PSN of its list goes to the group's address, for the members whose results are
still to come. -/
def mcastSend (s : State) (asid : Nat) (m : Cmd) (o : McastOp) (line : List Byte) : State :=
  let far := (deliveries o.members).filter (fun dev => some dev ≠ s.devid && !o.answers.any (fun a => a.1 == dev))
  let n := listOpid s far
  let s := n.2
  let ls := tget s.listSend o.list .reset
  let f : Frame := { mkFrame s 0 9 asid n.1 (wordOf m.params 1).toNat 0 o.list (line ++ leBytes 8 (wordOf m.params 3).toNat) with
    psn := BitVec.ofNat 32 ls.psn }
  let x : Sent := { frame := f, first := s.cycle, attempt := 0, hold := false, acked := false }
  let next : ListSend := { ls with psn := (ls.psn + 1) % 2 ^ 32, unacked := far.foldl (fun t dev => tput t dev (tget t dev [] ++ [x])) ls.unacked }
  let s := { s with
    mcasts := s.mcasts.map (fun y => if y.id == o.id then { y with sent := true, opids := far.map (fun dev => (dev, n.1)) } else y)
    listSend := if far.isEmpty then s.listSend else tput s.listSend o.list next }
  let s := if far.isEmpty then s else match anyPort s with
    | some p => emit s (.frame p (groupTo s p o.list o.grp) { f with port := p })
    | none => s
  far.foldl (fun s dev => at' s (s.cycle + resendTimes.headD 0) (.retransmitTimeout (listPeer o.list dev) ls.psn)) s

/-- Whether an MCAST of the same list that started earlier has still to send its frame: the frames follow the order of the starts (R397). -/
def mcastBehind (s : State) (o : McastOp) : Bool :=
  (s.mcasts.takeWhile (fun x => x.id != o.id)).any (fun x => x.list = o.list && !x.sent && ((coreOf s x.die x.core).cmdOf x.cmd).isSome)

/-- The delivery of an MCAST to the device's own memory, where it is a member: tried until the poste restante has room, and answered once
it is visible (R379). -/
def mcastOwn (s : State) (d c : Nat) (m : Cmd) (o : McastOp) : State :=
  if !o.members.any (fun dev => some dev = s.devid) then onCmd s d c m.id (fun y => { y with unit := 4 })
  else match deliverLine s (m.agent d c) (coreOf s d c).asid (wordOf m.params 1).toNat m.data (wordOf m.params 3).toNat with
    | (.error e, s) => mcastAnswer (onCmd s d c m.id (fun y => { y with unit := 4 })) m.id (ownDev s) e
    | (.ok none, s) => at' s (s.cycle + 64) (.engineUnitLand d c m.id)
    | (.ok (some due), s) => at' (onCmd s d c m.id (fun y => { y with unit := 3 })) due (.engineUnitLand d c m.id)

/-- An MCAST whose line is read: its frame goes once those of the list's earlier ones have gone, then its own delivery is made. -/
def mcastGo (s : State) (d c : Nat) (m : Cmd) (o : McastOp) : State :=
  if mcastBehind s o then at' s (s.cycle + 1) (.engineUnitLand d c m.id)
  else mcastOwn (onCmd (mcastSend s (coreOf s d c).asid m o m.data) d c m.id (fun y => { y with unit := 2 })) d c m o

/-- A landing of an MCAST, by how far its command's unit says it is: 0 its line is to be read, 1 to be sent, 2 to be delivered here, 3 that
delivery to be answered, 4 the receipt to be written once every result is known. A line that cannot be read ends the command. -/
def mcastLand (s : State) (d c : Nat) (m : Cmd) (o : McastOp) : State :=
  match m.unit with
  | 0 => (match fabSource s d c m 0 (mcastLen m.params) with
    | (.trap a b z, s) => cmdFault { s with mcasts := s.mcasts.filter (fun x => x.id != m.id) } d c m a b z
    | (.wait t, s) => at' s (s.cycle + t.getD 64) (.engineUnitLand d c m.id)
    | (.ok line, s) => mcastGo (onCmd (addHot s d c 0 line.length) d c m.id (fun y => { y with data := line, unit := 1 })) d c { m with data := line, unit := 1 } o)
  | 1 => mcastGo s d c m o
  | 2 => mcastOwn s d c m o
  | 3 => mcastAnswer (onCmd s d c m.id (fun y => { y with unit := 4 })) m.id (ownDev s) 0
  | _ => if o.members.all (fun dev => o.answers.any (fun a => a.1 == dev)) then at' s s.cycle (.mcastReceiptWrite m.id) else s

/-- The receipt of a multicast (R397). -/
def receiptWords (o : McastOp) : List Word :=
  let result (dev : Nat) : Nat := match o.answers.find? (fun a => a.1 == dev) with | some a => a.2 | none => 0x52
  let rs := o.members.map result
  let acks := (rs.filter (fun r => r = 0)).length
  [fieldAt (rs.length - acks) 48 ||| fieldAt acks 32 ||| fieldAt rs.length 16 ||| fieldAt o.list 0] ++ List.replicate 7 0
    ++ o.members.map (fun dev => fieldAt (result dev) 16 ||| fieldAt dev 0)

/-- MCAST_RECEIPT_WRITE: every member's result is known, and the receipt is written (R380). -/
def execMcastReceiptWrite (op : Nat) (s : State) : Out :=
  .next (match s.mcasts.find? (fun o => o.id == op) with
  | none => s
  | some o => match (coreOf s o.die o.core).cmdOf o.cmd with
    | none => { s with mcasts := s.mcasts.filter (fun x => x.id != op) }
    | some m =>
      let own := s.writes.foldl (fun a w => if w.agent == m.agent o.die o.core then max a w.due else a) 0
      if s.cycle < own then at' s own (.mcastReceiptWrite op)
      else match engineWrite o.die o.core m true 16 o.receipt (wordsBytes (receiptWords o)) s with
      | (.ok due, s) => doneCmd { s with mcasts := s.mcasts.filter (fun x => x.id != op) } o.die o.core m.id due
      | (.trap a b z, s) => cmdFault { s with mcasts := s.mcasts.filter (fun x => x.id != op) } o.die o.core m a b z
      | (.wait (some t), s) => at' s (s.cycle + t) (.mcastReceiptWrite op)
      | (.wait none, s) => s)

/-- A landing of a command to another device. -/
def fabLand (s : State) (d c : Nat) (m : Cmd) : State :=
  match m.kind with
  | .rput => putLand s d c m
  | .rget => getLand s d c m
  | .ramo => ramoLand s d c m
  | _ => match s.mcasts.find? (fun o => o.id == m.id) with
    | some o => mcastLand s d c m o
    | none => s

end Sys2Proof.Machine
end

