-- ==== Sys2Proof/Machine/Uft.lean ====
section
/-! DEFINITION. Frames of the fabric transport as they arrive, its timers, and the links of the ports (R252, R379, R383 to R397, R420). -/

namespace Sys2Proof.Machine

/-! ## What arrives (R383, R384, R386) -/

/-- A frame discarded and counted at its port. -/
def discardFrame (s : State) (port : Nat) : State := { s with discards := tput s.discards port (tget s.discards port 0 + 1) }

/-- FRAME_DISCARD (R383). -/
def execFrameDiscard (port : Nat) (s : State) : Out := .next (discardFrame s port)

/-- Whether a frame is one that the device takes: it has an index, the frame names it and keeps the header's layout; a frame to a
group names no one. -/
def frameOurs (s : State) (f : Frame) : Bool :=
  s.devid.isSome && f.version = 1 && (f.type = 9 || f.dst.toNat = ownDev s) && f.len.toNat = f.payload.length

/-- Whether the device holds frames off while its image is streamed (R420). -/
def ckptHolding (s : State) : Bool := match s.ckpt with | some k => decide (4 ≤ k.step) | none => false

/-! ## Sequence numbers (R388, R390) -/

/-- A new epoch of the sender: the flow's receiving state and the answer table are discarded. While the image is streamed the answer table
does not change, and the epoch is taken later (R420). -/
def takeEpoch (s : State) (f : Frame) : State :=
  let dev := f.src.toNat
  if (flowOf s dev).peerEpoch = some f.epoch || ckptHolding s then s
  else
    let s := onFlow s dev (fun x => { x with
      peerEpoch := some f.epoch, recvPsn := 0, buffer := [], known := false, sinceAck := 0, ackDue := none, stall := [] })
    { s with answers := tdel s.answers dev, served := s.served.filter (fun o => o.dev != dev),
             listRecv := s.listRecv.filter (fun l => l.1 / 1024 != dev) }

/-- The CE mark of a frame of a flow noted, for the next ACK to report (R386). -/
def noteMark (s : State) (f : Frame) : State := if f.ce then onFlow s f.src.toNat (fun x => { x with ece := true }) else s

/-- An ACK owed for a frame of a flow: after every 16 accepted frames, or within 2,400 cycles of an accepted or repeated one. -/
def oweAck (s : State) (dev : Nat) (f : Frame) (accepted : Bool) : State :=
  let s := onFlow s dev (fun x => { x with sinceAck := x.sinceAck + (if accepted then 1 else 0), ece := x.ece || f.ce })
  let fl := flowOf s dev
  if 16 ≤ fl.sinceAck then sendAck s dev
  else if fl.ackDue.isSome then s
  else at' (onFlow s dev (fun x => { x with ackDue := some (s.cycle + 2400) })) (s.cycle + 2400) (.ackTimer dev)

/-- ACK_TIMER: the ACK that is owed is sent (R388). -/
def execAckTimer (peer : Nat) (s : State) : Out :=
  .next (match (flowOf s peer).ackDue with
  | some t => if t ≤ s.cycle then sendAck s peer else s
  | none => s)

/-- The port by which a request that waits here is looked at again: no port of the device. -/
def innerPort : Nat := 100

/-- A request that waits here, as it is looked at again. -/
def innerFrame (f : Frame) : Frame := { f with port := innerPort }

/-- The port by which a frame that was buffered comes up in its turn: it has been counted already. -/
def bufferPort : Nat := 101

/-- The port by which a frame that stands first in its flow's stall comes up again. -/
def stallPort : Nat := 102

/-- What a sequenced frame is: the next of its flow, a repeated one, or neither. -/
inductive Arrival where
  | next | again | other
  deriving DecidableEq, Repr

/-- A frame that comes up next in the present cycle, through a port of the model's own. -/
def comeUp (s : State) (f : Frame) (port : Nat) : State :=
  match frameEvent { f with port := port } with
  | some i => { s with agenda := .ev i :: s.agenda }
  | none => s

/-- The buffered frame that is next in its flow arrives in its turn. -/
def unbuffer (s : State) (dev : Nat) : State :=
  let fl := flowOf s dev
  match fl.buffer.find? (fun g => g.psn.toNat == fl.recvPsn) with
  | none => s
  | some g => comeUp (onFlow s dev (fun x => { x with buffer := x.buffer.filter (fun h => h.psn != g.psn) })) g bufferPort

/-- A request whose turn has come handed on: where it could not be performed it stands first in its flow's stall, and is tried again; where
it was, the one behind it in the stall or in the buffer comes up. -/
def handOn (s : State) (f : Frame) (stalled : Bool) : State :=
  let dev := f.src.toNat
  if stalled then
    let g := { f with port := stallPort }
    match frameEvent g with
    | some i => unbuffer (at' (onFlow s dev (fun x => { x with stall := g :: x.stall })) (s.cycle + 64) i) dev
    | none => s
  else match (flowOf s dev).stall with
    | g :: _ => comeUp s g stallPort
    | [] => unbuffer s dev

/-- A sequenced frame's place in its flow, and the state with it noted: a later one is buffered, one out of the window is discarded, and
one behind a stall waits there. -/
def arrive (s : State) (f : Frame) : Arrival × State :=
  let dev := f.src.toNat
  if f.port = innerPort then (.again, s)
  else if f.port = stallPort then
    (if (flowOf s dev).stall.head? = some f then (.next, onFlow s dev (fun x => { x with stall := x.stall.drop 1 })) else (.other, s))
  else if !frameOurs s f then (.other, discardFrame s f.port)
  else if ckptHolding s then (.other, sendHold s f none)
  else
    let s := takeEpoch s f
    let fl := flowOf s dev
    if !fl.known && f.psn ≠ 0 then (.other, sendReset (noteMark s f) dev none)
    else
      let k := (f.psn.toNat + 2 ^ 32 - fl.recvPsn) % 2 ^ 32
      let s := onFlow s dev (fun x => { x with known := true })
      if k = 0 then
        let s := onFlow s dev (fun x => { x with recvPsn := (x.recvPsn + 1) % 2 ^ 32 })
        let s := if f.port = bufferPort then s else oweAck s dev f true
        if fl.stall.isEmpty then (.next, s)
        else (.other, unbuffer (onFlow s dev (fun x => { x with stall := x.stall ++ [{ f with port := stallPort }] })) dev)
      else if k < 1024 then
        if fl.buffer.any (fun g => g.psn == f.psn) then (.other, oweAck s dev f false)
        else (.other, oweAck (onFlow s dev (fun x => { x with buffer := x.buffer ++ [{ f with ce := false }] })) dev f true)
      else if 2 ^ 31 ≤ k then (.again, oweAck s dev f false)
      else (.other, discardFrame (noteMark s f) f.port)

/-- The recorded answer of an operation. -/
def answerFor (s : State) (dev opid : Nat) : Option Answer := (tget s.answers dev []).find? (fun a => a.opid == opid)

/-- The operation of another device that is in progress here. -/
def servedFor (s : State) (dev opid : Nat) : Option ServedOp := s.served.find? (fun o => o.dev == dev && o.opid == opid)

/-- The operation in progress replaced. -/
def putServed (s : State) (o : ServedOp) : State :=
  { s with served := s.served.filter (fun x => !(x.dev == o.dev && x.opid == o.opid)) ++ [o] }

/-- The operation no longer in progress. -/
def dropServed (s : State) (dev opid : Nat) : State := { s with served := s.served.filter (fun x => !(x.dev == dev && x.opid == opid)) }

/-- A request performed once: where its answer is recorded, that is sent again (R392). Performing it says whether it is held up. -/
def once (f : Frame) (perform : State → Bool × State) (again : State → State) (s : State) : Out :=
  let dev := f.src.toNat
  let r := arrive s f
  .next (match r.1 with
  | .other => r.2
  | .next => match answerFor r.2 dev f.opid.toNat with
    | some a => handOn (sendResult r.2 dev a.opid a.status a.value) f false
    | none => handOn (perform r.2).2 f (perform r.2).1
  | .again => match answerFor r.2 dev f.opid.toNat with
    | some a => sendResult r.2 dev a.opid a.status a.value
    | none => again r.2)

/-! ## Requests (R392) -/

/-- An operation of another device that nothing has come of yet. -/
def newServed (dev opid : Nat) : ServedOp := { dev := dev, opid := opid, failed := 0, bytes := 0, due := none }

/-- UFT_PUT: the bytes of a frame are checked, and performed once there is room for all of them (R297, R392). -/
def execUftPut (f : Frame) (s : State) : Out :=
  once f (fun s =>
    let dev := f.src.toNat
    let o := (servedFor s dev f.opid.toNat).getD (newServed dev f.opid.toNat)
    match outerParts f.asid.toNat 8 f.va.toNat f.payload.length s with
    | (.error e, s) => (false, putServed s { o with failed := if o.failed = 0 then e else o.failed })
    | (.ok ps, s) =>
      if !posteRoom s ps.2 then (true, s)
      else
        let w := outerWrite s (.remote dev) false f.asid.toNat s.cycle f.va.toNat f.payload ps
        (false, putServed w.2 { o with bytes := max o.bytes w.1 })) (fun s => s) s

/-- The answer of an END that is due. -/
def endDue (f : Frame) (s : State) : State :=
  let dev := f.src.toNat
  match servedFor s dev f.opid.toNat with
  | some o => (match o.due with
    | some t => if t ≤ s.cycle then answerOp (dropServed s dev o.opid) dev o.opid o.failed 0 else s
    | none => s)
  | none => s

/-- UFT_END: the flag is written as a release after the operation's bytes; the answer goes once all are visible (R392). -/
def execUftEnd (f : Frame) (s : State) : Out :=
  once f (fun s =>
    let dev := f.src.toNat
    let n := f.opid.toNat
    let o := (servedFor s dev n).getD (newServed dev n)
    let at_ (s : State) (due : Nat) : Bool × State := (false, at' (putServed s { o with due := some due }) due (.uftEnd (innerFrame f)))
    let fails (s : State) (e : Nat) : Bool × State := (false, answerOp (dropServed s dev n) dev n e 0)
    if o.failed ≠ 0 then fails s o.failed
    else if f.va = 0 then at_ s (max s.cycle o.bytes)
    else if f.va.toNat % 8 ≠ 0 then fails s Cause.align.code
    else match outerParts f.asid.toNat 2 f.va.toNat 8 s with
      | (.error e, s) => fails s e
      | (.ok ps, s) =>
        if !posteRoom s ps.2 then (true, s)
        else
          let w := outerWrite s (.remote dev) true f.asid.toNat o.bytes f.va.toNat (wordBytes 1) ps
          at_ w.2 (max w.1 o.bytes)) (endDue f) s

/-- A request of another device that meets a page which is not resident: the page is asked for, and the request is looked at again; one
that the pager has answered with a failure is answered PROT (R296, R392). -/
def awaitPage (s : State) (f : Frame) (write : Bool) (l : Leaf) (again : Instr) (refuse wait : State → State) : State :=
  let who : Waiter := .remote f.src.toNat f.opid.toNat
  if pageFailed s f.asid.toNat l.va who then refuse s
  else at' (wait (requestPage s f.asid.toNat 0 write l (some who))) (s.cycle + 64) again

/-- The bytes of a GET sent back under its own epoch (R390), as they are at their home; a page that is not resident is waited for, and a rebuilt read is tried again
(R285, R312, R327). -/
def serveGet (f : Frame) (s : State) : State :=
  let dev := f.src.toNat
  let va := f.va.toNat
  let d := 2 * hubOf va
  let n := f.aux2.toNat
  let r := splitAccess d none f.asid.toNat 0 { write := false, raw := true, ordered := false, hostTrap := false } va n s
  let fail (c : Cause) (s : State) : State := sendFrame s dev (mkFrame s dev 10 0 f.opid.toNat 0 c.code f.epoch.toNat (wordBytes 0))
  match r.2.1 with
  | some (.trap cause _ _) => fail cause r.2.2
  | some (.absent _ l _) => awaitPage r.2.2 f false l (.uftGet (innerFrame f)) (fail .prot) id
  | none =>
    let h := readHold r.2.2 (.remote dev) f.opid.toNat 8 (runsOf r.1)
    if s.cycle < h.1 then at' h.2 h.1 (.uftGet (innerFrame f))
    else
    let b := readRuns h.2 (.remote dev) 8 32 r.2.2.seq (runsOf r.1)
    if rebuilds r.2.2 (runsOf r.1) then at' b.2.2 (s.cycle + rebuildDelay) (.uftGet (innerFrame f))
    else if b.2.1 then fail .uncorrectable b.2.2
    else sendFrame b.2.2 dev (mkFrame b.2.2 dev 4 f.asid.toNat f.opid.toNat va 0 f.epoch.toNat b.1)

/-- UFT_GET: a GET is read each time it comes (R392). -/
def execUftGet (f : Frame) (s : State) : Out :=
  let r := arrive s f
  .next (match r.1 with
  | .other => r.2
  | .next => handOn (serveGet f r.2) f false
  | .again => serveGet f r.2)

/-- An AMO checked: it is performed at its home after the path's latency, or answered with the cause of the check that failed. -/
def startAmo (f : Frame) (s : State) : State :=
  let dev := f.src.toNat
  let n := f.opid.toNat
  let va := f.va.toNat
  let size := if bit (f.aux.setWidth 64) 4 then 8 else 4
  let d := 2 * hubOf va
  if va % size ≠ 0 then answerOp s dev n Cause.align.code 0
  else
    let r := splitAccess d none f.asid.toNat 0 { write := true, raw := true, ordered := false, hostTrap := false } va size s
    match r.2.1, r.1 with
    | some (.trap cause _ _), _ => answerOp r.2.2 dev n cause.code 0
    | some (.absent _ l _), _ => awaitPage r.2.2 f true l (.uftAmo (innerFrame f))
      (fun s => answerOp (dropServed s dev n) dev n Cause.prot.code 0) (fun s => putServed s (newServed dev n))
    | none, p :: _ =>
      let kind := kindOf r.1
      let due := accessDue r.2.2 (.remote dev) 8 32 kind false (s.cycle + pathLat r.2.2 d p.pa) (runsOf r.1) false
      let s := noteAccess r.2.2 (.remote dev) kind false (readReach due)
      at' (putServed s { newServed dev n with bytes := p.pa, due := some due }) due (.uftAmo (innerFrame f))
    | none, [] => r.2.2

/-- An AMO that waits: performed once when it is due, tried again while its page was not resident. -/
def continueAmo (f : Frame) (s : State) : State :=
  let dev := f.src.toNat
  let n := f.opid.toNat
  let size := if bit (f.aux.setWidth 64) 4 then 8 else 4
  match servedFor s dev n with
  | none => s
  | some o => match o.due with
    | none => startAmo f s
    | some t =>
      let put (s : State) (t : Nat) : State := at' (putServed s { o with due := some t }) t (.uftAmo (innerFrame f))
      if s.cycle < t then s
      else
        let h := readHold s (.remote dev) n 8 [(o.bytes, size)]
        if s.cycle < h.1 then put h.2 h.1
        else
        let l := linkError h.2 8 o.bytes
        let e := readErrors l.2 o.bytes size
        if l.1 || e.1 == .uncorrectable then answerOp (dropServed e.2 dev n) dev n Cause.uncorrectable.code 0
        else if e.1 == .rebuilt then put e.2 (s.cycle + rebuildDelay)
        else
          let old := natAt e.2.mem o.bytes size
          let ws := bytesWords 2 f.payload
          let new := amoNew (amoOf (f.aux.toNat % 16)) size old (wordOf ws 0).toNat (wordOf ws 1).toNat
          answerOp (dropServed (storeBytes e.2 o.bytes (leBytes size new)) dev n) dev n 0 (BitVec.ofNat 64 old)

/-- UFT_AMO: performed once at the home, or answered from the table (R392, R393). -/
def execUftAmo (f : Frame) (s : State) : Out := once f (fun s => (false, startAmo f s)) (continueAmo f) s

/-- A record for a die's window or letterbox: what its checks read is waited for where it is not resident, and it is checked and answered
(R252, R296). -/
def servePost (f : Frame) (s : State) : State :=
  let dev := f.src.toNat
  let n := f.opid.toNat
  let d := f.aux.toNat
  let r := bytesWords 32 f.payload
  let answer (a : (Nat × Nat) × State) : State := answerOp (dropServed a.2 dev n) dev n a.1.1 (BitVec.ofNat 64 a.1.2)
  if 8 ≤ d then answer ((0x51, 0), s)
  else match postAwaits s d (.remote dev n) r with
    | some l => at' (putServed (requestPage s (recAsid r) 0 false l (some (.remote dev n))) (newServed dev n)) (s.cycle + 64)
        (.uftPost (innerFrame f))
    | none => match recordNeeds s r with
      | (.rebuilt, t) => at' (putServed t (newServed dev n)) (s.cycle + rebuildDelay) (.uftPost (innerFrame f))
      | _ => answer (remotePost s d r)

/-- A POST looked at again, while what its checks read was not resident. -/
def continuePost (f : Frame) (s : State) : State := if (servedFor s f.src.toNat f.opid.toNat).isSome then servePost f s else s

/-- UFT_POST: a record for a die's window or letterbox, taken once (R252, R392). -/
def execUftPost (f : Frame) (s : State) : Out := once f (fun s => (false, servePost f s)) (continuePost f) s

/-- The serial that a NOTIFY or CANCEL names. -/
def frameSerial (f : Frame) : Nat := f.va.toNat % 65536 * 2 ^ 32 + f.aux2.toNat

/-- UFT_NOTIFY: the target's PRED falls (R248). -/
def execUftNotify (f : Frame) (s : State) : Out :=
  once f (fun s => (false, answerOp (notifyWindow s (f.aux.toNat % 8) (frameSerial f)) f.src.toNat f.opid.toNat 0 0)) (fun s => s) s

/-- UFT_CANCEL: as CANCEL on the named task (R120, R275). -/
def execUftCancel (f : Frame) (s : State) : Out :=
  once f (fun s =>
    let r := cancelTask s (f.aux.toNat % 8) (frameSerial f)
    (false, answerOp r.2 f.src.toNat f.opid.toNat 0 (BitVec.ofNat 64 r.1))) (fun s => s) s

/-! ## Multicast (R379, R397) -/

/-- The receiving side of a list flow of which nothing has come. -/
def ListRecv.reset : ListRecv := { psn := 0, buffer := [], known := false, resetSent := false, ece := false, stall := [], answers := [] }

/-- The list flow that a frame belongs to: its sender and list. -/
def listKey (f : Frame) : Nat := 1024 * f.src.toNat + f.aux2.toNat % 1024

/-- The receiving side of a frame's list flow. -/
def recvOf (s : State) (f : Frame) : ListRecv := tget s.listRecv (listKey f) .reset

/-- The receiving side of a frame's list flow changed. -/
def onRecv (s : State) (f : Frame) (g : ListRecv → ListRecv) : State := { s with listRecv := tput s.listRecv (listKey f) (g (recvOf s f)) }

/-- An ACK of a list flow (R397). -/
def sendListAck (s : State) (f : Frame) : State :=
  let r := recvOf s f
  sendFrame (onRecv s f (fun x => { x with ece := false })) f.src.toNat
    (ackFrame s f.src.toNat f.epoch.toNat (some (f.aux2.toNat % 1024)) false r.psn (ackBitmap r.buffer r.psn) r.ece)

/-- The answer of a delivery, kept with its list flow and sent. -/
def answerList (s : State) (f : Frame) (status : Nat) : State :=
  let a : Answer := { opid := f.opid.toNat, at_ := s.cycle, status := status, value := 0 }
  sendResult (onRecv s f (fun x => { x with answers := keptAnswers s.cycle (x.answers ++ [a]) })) f.src.toNat a.opid status 0

/-- The answer of a delivery that is due. -/
def listDue (f : Frame) (s : State) : State :=
  match servedFor s f.src.toNat f.opid.toNat with
  | some o => (match o.due with
    | some t => if t ≤ s.cycle then answerList (dropServed s o.dev o.opid) f o.failed else s
    | none => s)
  | none => s

/-- A delivery whose turn has come performed by a member, and answered once the line and the flag are visible; one that the poste restante has
no room for stands first in its list's stall, and is tried again; else the one behind it comes up (R297, R379). -/
def serveMcast (f : Frame) (s : State) : State :=
  let n := f.payload.length - 8
  let next (s : State) : State := match (recvOf s f).stall with
    | g :: _ => comeUp s g stallPort
    | [] => s
  match deliverLine s (.remote f.src.toNat) f.asid.toNat f.va.toNat (f.payload.take n) (leNat (f.payload.drop n)) with
  | (.error e, s) => next (answerList s f e)
  | (.ok none, s) =>
    let g := { f with port := stallPort }
    at' (onRecv s f (fun x => { x with stall := g :: x.stall })) (s.cycle + 64) (.uftMcast g)
  | (.ok (some due), s) =>
    next (at' (putServed s { newServed f.src.toNat f.opid.toNat with due := some due }) due (.uftMcast (innerFrame f)))

/-- The next frame of a list flow: delivered, or behind those that are held up; and the buffered one after it comes up. -/
def takeMcast (f : Frame) (s : State) : State :=
  let r := recvOf s f
  let s := if r.stall.isEmpty then serveMcast f s else onRecv s f (fun x => { x with stall := x.stall ++ [{ f with port := stallPort }] })
  match r.buffer.find? (fun g => g.psn.toNat == r.psn) with
  | some g => comeUp (onRecv s f (fun x => { x with buffer := x.buffer.filter (fun h => h.psn != g.psn) })) g bufferPort
  | none => s

/-- UFT_MCAST: a frame of a list flow: performed in order, once. A member that has no state for the flow begins it at PSN 0, or where the
frame lies with which its RESET is answered (R379, R397). -/
def execUftMcast (f : Frame) (s : State) : Out :=
  .next (if f.port = innerPort then listDue f s
    else if f.port = stallPort then
      (if (recvOf s f).stall.head? = some f then serveMcast f (onRecv s f (fun x => { x with stall := x.stall.drop 1 })) else s)
    else if !frameOurs s f || f.payload.length < 9 then discardFrame s f.port
    else if ckptHolding s then sendHold s f (some (f.aux2.toNat % 1024))
    else
      let s := takeEpoch s f
      let r := recvOf s f
      if !(r.known || f.psn = 0 || (r.resetSent && f.retry)) then
        sendReset (onRecv s f (fun x => { x with resetSent := true, ece := x.ece || f.ce })) f.src.toNat (some (f.aux2.toNat % 1024))
      else
        let r := { (if r.known then r else { r with known := true, resetSent := false, psn := f.psn.toNat }) with ece := r.ece || f.ce }
        let k : Nat := (f.psn.toNat + 2 ^ 32 - r.psn) % 2 ^ 32
        let put (r : ListRecv) : State := sendListAck (onRecv s f (fun _ => r)) f
        if k = 0 then takeMcast f (put { r with psn := (r.psn + 1) % 2 ^ 32 })
        else if k < 1024 then
          put (if r.buffer.any (fun g => g.psn == f.psn) then r else { r with buffer := r.buffer ++ [{ f with ce := false }] })
        else if 2 ^ 31 ≤ k then
          (match r.answers.find? (fun a => a.opid == f.opid.toNat) with
          | some a => sendResult (put r) f.src.toNat a.opid a.status a.value
          | none => listDue f (put r))
        else discardFrame (onRecv s f (fun x => { x with ece := r.ece })) f.port)

/-! ## Answers (R387, R392) -/

/-- Whether an answer is meant for the device's present epoch (R390). -/
def answerOurs (s : State) (f : Frame) : Bool := frameOurs s f && f.aux2.toNat % 65536 = s.epoch.toNat

/-- The operation that an answer ends. -/
def opFor (s : State) (f : Frame) : Option RemoteOp := s.ops.find? (fun o => o.dev == f.src.toNat && o.opid == f.opid.toNat)

/-- UFT_GETDATA: bytes of an RGET arrive, each piece once (R387). -/
def execUftGetdata (f : Frame) (s : State) : Out :=
  .next (if !answerOurs s f then discardFrame s f.port
  else let s := noteMark s f; match opFor s f with
    | none => s
    | some o => match o.user with
      | .cmd d c id => (match (coreOf s d c).cmdOf id with
        | none => dropOp s o.dev o.opid
        | some m =>
          let va := (wordOf m.params 1).toNat
          let ps := getPieces va (fabLen m.params) 4098 0
          let off := f.va.toNat - va
          if !ps.contains (off, f.payload.length) || m.seen.contains off then s
          else
            let left := m.seen.length + 1
            let s := onCmd s d c id (fun y =>
              { y with data := y.data ++ f.payload, aux := y.aux ++ [off, f.payload.length], seen := off :: y.seen })
            let s := if left = ps.length then dropOp s o.dev o.opid else s
            if m.aux.isEmpty then at' s s.cycle (.engineUnitLand d c id) else s)
      | _ => s)

/-- UFT_RESULT: an answer completes its operation, or traps its command (R392). -/
def execUftResult (f : Frame) (s : State) : Out :=
  .next (if !answerOurs s f then discardFrame s f.port
  else
    let s := noteMark s f
    let dev := f.src.toNat
    let status := f.aux.toNat
    let value := wordOf (bytesWords 1 f.payload) 0
    match opFor s f with
    | some o =>
      let s := dropOp s o.dev o.opid
      (match o.user with
      | .cmd d c id => (match (coreOf s d c).cmdOf id with
        | none => s
        | some m =>
          if status ≠ 0 then cmdTrap s d c m false { trapAt .fabricNack dev with error := 0x5000 + status }
          else if m.kind == .ramo then at' (onCmd s d c id (fun y => { y with data := wordBytes value })) s.cycle (.engineUnitLand d c id)
          else doneCmd s d c id s.cycle)
      | .rpost d set dst => ccDeliver s d set s.cycle [.cc set dst (remoteAnswer (status, value.toNat))]
      | .cancel d set dst => ccDeliver s d set s.cycle [.cc set dst (if status = 0 then value else BitVec.ofNat 64 status)]
      | .notify _ _ => s)
    | none => match s.mcasts.find? (fun o => o.opids.contains (dev, f.opid.toNat)) with
      | some o =>
        let s := { s with listSend := s.listSend.map (fun l => (l.1, { l.2 with unacked := l.2.unacked.map (fun u =>
          if u.1 = dev then (u.1, u.2.filter (fun x => !(x.acked && x.frame.opid == f.opid))) else u) })) }
        mcastAnswer s o.id dev status
      | none => s)

/-! ## Acknowledgements (R388, R389, R391, R395) -/

/-- Whether a frame's operation still awaits its answer. -/
def awaited (s : State) (dev : Nat) (f : Frame) : Bool :=
  (f.type ≠ 1 && s.ops.any (fun o => o.dev == dev && o.opid == f.opid.toNat)) ||
  (f.type = 9 && s.mcasts.any (fun m => m.opids.contains (dev, f.opid.toNat) && !m.answers.any (fun a => a.1 == dev)))

/-- Whether a frame lies below a cumulative PSN, or in the bitmap above it. -/
def ackCovers (c bitmap psn : Nat) : Bool :=
  let k := (psn + 2 ^ 32 - c) % 2 ^ 32
  2 ^ 31 ≤ k || (1 ≤ k && k ≤ 64 && bitmap / 2 ^ (k - 1) % 2 = 1)

/-- The frames kept after an ACK, those whose answers are still awaited among them. -/
def ackSents (s : State) (dev c bitmap : Nat) (xs : List Sent) : List Sent :=
  xs.filterMap (fun x =>
    if !ackCovers c bitmap x.frame.psn.toNat then some x
    else if awaited s dev x.frame then some { x with acked := true } else none)

/-- The frames that an ACK's bitmap reports missing. -/
def missing (c bitmap : Nat) (xs : List Sent) : List Sent :=
  let top := (List.range 64).foldl (fun m i => if bitmap / 2 ^ i % 2 = 1 then i + 1 else m) 0
  xs.filter (fun x => let k := (x.frame.psn.toNat + 2 ^ 32 - c) % 2 ^ 32; k < top && !ackCovers c bitmap x.frame.psn.toNat)

/-- Frames that wait for a place in the window of 1,024 sent while there is room. -/
def sendWaiting (s : State) (dev : Nat) : Nat → State
  | 0 => s
  | fuel + 1 =>
    let fl := flowOf s dev
    match fl.waitq with
    | [] => s
    | f :: rest =>
      if 1024 ≤ (fl.unacked.filter (fun x => !x.acked)).length then s
      else sendWaiting (sendSeq (onFlow s dev (fun x => { x with waitq := rest })) dev f) dev fuel

/-- A frame sent again (R389). -/
def resend (s : State) (dev : Nat) (f : Frame) : State :=
  sendFrame s dev { f with retry := true, dst := BitVec.ofNat 12 dev, port := 0 }

/-- What HOLD does to a frame: its schedule begins again 10,000 ticks after the last HOLD (R389). -/
def Sent.held (x : Sent) (now : Nat) : Sent := { x with first := now + 250000, attempt := 0, hold := true }

/-- R/2, but at least 1 Gb/s (R391). -/
def SendRate.halved (r : SendRate) : SendRate :=
  if 2 ^ (r.halvings + 1) ≤ r.num then { r with halvings := r.halvings + 1 } else { r with num := 1, halvings := 0 }

/-- A rate at an ACK with ECE: cut, at most once per 4,800 cycles; the rise is 4,800 cycles away again (R391). -/
def SendRate.marked (r : SendRate) (now : Nat) : SendRate :=
  let recent := match r.lastCut with | some t => decide (now < t + 4800) | none => false
  { (if recent then r else { r.halved with lastCut := some now }) with raiseAt := some (now + 4800) }

/-- A rate at a retransmission timeout (R391). -/
def SendRate.timedOut (r : SendRate) (now : Nat) : SendRate :=
  { r with num := 1, halvings := 0, raiseAt := some (r.raiseAt.getD (now + 4800)) }

/-- A rate 4,800 cycles after the last mark or rise: 8 Gb/s more, up to 800 (R391). -/
def SendRate.risen (r : SendRate) (now : Nat) : SendRate :=
  if 800 * 2 ^ r.halvings ≤ r.num + 8 * 2 ^ r.halvings then { r with num := 800, halvings := 0, raiseAt := none }
  else { r with num := r.num + 8 * 2 ^ r.halvings, raiseAt := some (now + 4800) }

/-- The rate of a flow, or of a list flow, by the number that names it to its timers. -/
def rateOf (s : State) (peer : Nat) : SendRate :=
  if peer < 4096 then (flowOf s peer).rate else (tget s.listSend (peer / 4096 - 1) .reset).rate

/-- A rate changed; the timer of its rise is set where it has a new one. -/
def onRate (s : State) (peer : Nat) (f : SendRate → SendRate) : State :=
  let r := f (rateOf s peer)
  let t := if peer < 4096 then onFlow s peer (fun x => { x with rate := r })
    else { s with listSend := tput s.listSend (peer / 4096 - 1) { tget s.listSend (peer / 4096 - 1) .reset with rate := r } }
  if r.raiseAt = (rateOf s peer).raiseAt then t
  else match r.raiseAt with
    | some due => at' t due (.rateIncreaseTimer peer)
    | none => t

/-- An ACK of the flow with a device. -/
def flowAck (f : Frame) (s : State) : State :=
  let dev := f.src.toNat
  let c := f.psn.toNat
  let bitmap := leNat f.payload
  let fl := flowOf s dev
  if !fl.up then
    if c ≠ 0 then noteMark s f
    else
      let s := takeEpoch s f
      let s := onFlow (clearFlow s dev) dev (fun x => { x with up := true, resetSent := false, resetAt := none })
      if fl.resetSent then sendFrame s dev (ackFrame s dev f.epoch.toNat none false 0 0 f.ce) else noteMark s f
  else
    let s := noteMark s f
    let s := if f.ece then onRate s dev (fun r => r.marked s.cycle) else s
    if bit (f.aux.setWidth 64) 1 then
      let s := onFlow s dev (fun x => { x with unacked := x.unacked.map (fun y => y.held s.cycle) })
      fl.unacked.foldl (fun s y => at' s (s.cycle + 250000) (.retransmitTimeout dev y.frame.psn.toNat)) s
    else
      let lost := missing c bitmap fl.unacked
      let fresh := fl.unacked.any (fun x => !x.acked && ackCovers c bitmap x.frame.psn.toNat)
      let s := onFlow s dev (fun x => { x with
        unacked := ackSents s dev c bitmap fl.unacked
        timeouts := if fresh then 0 else x.timeouts })
      sendWaiting (lost.foldl (fun s x => resend s dev x.frame) s) dev 1024

/-- The sending side of a list flow with a member changed. -/
def onList (s : State) (list dev : Nat) (f : List Sent → List Sent) : State :=
  let l := tget s.listSend list .reset
  { s with listSend := tput s.listSend list { l with unacked := tput l.unacked dev (f (tget l.unacked dev [])) } }

/-- The frames of a list flow that a member has not acknowledged. -/
def listUnacked (s : State) (list dev : Nat) : List Sent := tget (tget s.listSend list .reset).unacked dev []

/-- An ACK of a list flow by a member. -/
def listAck (f : Frame) (s : State) : State :=
  let dev := f.src.toNat
  let list := f.va.toNat % 1024
  let bitmap := leNat f.payload
  let xs := listUnacked s list dev
  let s := noteMark s f
  let s := if f.ece then onRate s (4096 * (list + 1)) (fun r => r.marked s.cycle) else s
  if bit (f.aux.setWidth 64) 1 then
    xs.foldl (fun s y => at' s (s.cycle + 250000) (.retransmitTimeout (listPeer list dev) y.frame.psn.toNat))
      (onList s list dev (fun ys => ys.map (fun y => y.held s.cycle)))
  else
    let s' := onList s list dev (ackSents s dev f.psn.toNat bitmap)
    (missing f.psn.toNat bitmap xs).foldl (fun s x => resend s dev x.frame) s'

/-- UFT_ACK (R388, R389, R395, R397). -/
def execUftAck (f : Frame) (s : State) : Out :=
  .next (if !frameOurs s f then discardFrame s f.port
  else if f.aux2.toNat % 65536 ≠ s.epoch.toNat then discardFrame s f.port
  else if bit (f.aux.setWidth 64) 0 then listAck f s
  else flowAck f s)

/-- UFT_RESET: the flows with the sender start anew, its route goes down and the ACK of PSN 0 answers; for a list flow the oldest
frame goes to the member again (R395, R397). -/
def execUftReset (f : Frame) (s : State) : Out :=
  .next (let dev := f.src.toNat
    if !frameOurs s f then discardFrame s f.port
    else if bit (f.aux.setWidth 64) 0 then
      (match (listUnacked s (f.va.toNat % 1024) dev).find? (fun x => !x.acked) with
      | some x => resend (noteMark s f) dev x.frame
      | none => noteMark s f)
    else
      let s := clearFlow (routeDown (takeEpoch s f) dev) dev
      sendFrame s dev (ackFrame s dev f.epoch.toNat none false 0 0 f.ce))

/-! ## Timers (R389, R391, R392, R394, R395) -/

/-- When a frame's next resend falls, or its bound. -/
def Sent.nextAt (x : Sent) : Nat := if x.hold then x.first else x.first + resendTimes.getD x.attempt 2500000

/-- A frame whose resend is due: sent again with its next timer, or past its bound. -/
def resendStep (x : Sent) : Option Sent :=
  if x.hold then some { x with hold := false } else if 6 ≤ x.attempt then none else some { x with attempt := x.attempt + 1 }

/-- A retransmission timeout of a unicast flow: the frame goes again at the lowest rate, over the next port after two in a row; past
its bound the route is down. A frame sent again after a HOLD has not timed out. -/
def flowTimeout (s : State) (dev psn : Nat) : State :=
  match (flowOf s dev).unacked.find? (fun x => x.frame.psn.toNat == psn) with
  | none => s
  | some x =>
    if x.nextAt ≠ s.cycle then s
    else match resendStep x with
      | none => routeDown s dev
      | some y =>
        let next := portAfter s dev
        let s := onFlow s dev (fun fl =>
          let two := !x.hold && 1 ≤ fl.timeouts
          { fl with
            unacked := fl.unacked.map (fun z => if z.frame.psn.toNat == psn then y else z)
            timeouts := if two then 0 else if x.hold then fl.timeouts else fl.timeouts + 1
            port := if two then next else fl.port })
        let s := if x.hold then s else onRate s dev (fun r => r.timedOut s.cycle)
        at' (resend s dev x.frame) (max (s.cycle + 1) y.nextAt) (.retransmitTimeout dev psn)

/-- A retransmission timeout of a list flow: the frame goes to that member alone; past its bound the route to the member is down, and its
entry is 0x52 (R394, R397). -/
def listTimeout (s : State) (peer psn : Nat) : State :=
  let list := peer / 4096 - 1
  let dev := peer % 4096
  match (listUnacked s list dev).find? (fun x => x.frame.psn.toNat == psn) with
  | none => s
  | some x =>
    if x.nextAt ≠ s.cycle then s
    else match resendStep x with
      | none => routeDown s dev
      | some y =>
        let s := onList s list dev (fun ys => ys.map (fun z => if z.frame.psn == x.frame.psn then y else z))
        let s := if x.hold then s else onRate s (4096 * (list + 1)) (fun r => r.timedOut s.cycle)
        at' (resend s dev x.frame) (max (s.cycle + 1) y.nextAt) (.retransmitTimeout peer psn)

/-- RETRANSMIT_TIMEOUT (R389); a number of 4,096 and above names a list flow. -/
def execRetransmitTimeout (peer psn : Nat) (s : State) : Out :=
  .next (if peer < 4096 then flowTimeout s peer psn else listTimeout s peer psn)

/-- RATE_INCREASE_TIMER: 4,800 cycles without a mark raise the rate (R391). -/
def execRateIncreaseTimer (peer : Nat) (s : State) : Out :=
  .next (if (rateOf s peer).raiseAt = some s.cycle then onRate s peer (fun r => r.risen s.cycle) else s)

/-- RESET_RESEND: a device whose route is down sends a RESET every 100,000 ticks, where a port is in service to take it (R395). -/
def execResetResend (peer : Nat) (s : State) : Out :=
  .next (if (flowOf s peer).up || (flowOf s peer).resetAt ≠ some s.cycle then s
  else at' (onFlow (sendReset s peer none) peer (fun x =>
      { x with resetSent := x.resetSent || (s.devid.isSome && (portOf s peer).isSome), resetAt := some (s.cycle + 2500000) }))
    (s.cycle + 2500000) (.resetResend peer))

/-- ANSWER_TABLE_EXPIRY: an answer older than 100 ms, and not among the last 256 of its requester, is forgotten (R392). -/
def execAnswerTableExpiry (peer _opid : Nat) (s : State) : Out :=
  .next { s with answers := tput s.answers peer (keptAnswers s.cycle (tget s.answers peer [])) }

/-! ## Links (R382, R385, R394) -/

/-- PORT_LINK_UP: a port has trained its link, and is in service; 16 and 17 are the host ports. -/
def execPortLinkUp (port : Nat) (s : State) : Out := .next { s with ports := tput s.ports port true }

/-- The port as an error record names it (R384, R414). -/
def portUnit (port : Nat) : ErrUnit :=
  if port < 16 then { kind := 7, place := port / 4, index := port % 4, sub := 0 }
  else { kind := 8, place := 2 * (port - 16), index := 0, sub := 0 }

/-- PORT_LINK_DOWN: PORT_DOWN is recorded. Flows move to the next port; with no fabric port left every route is down. A handoff looks at
its host ports again (R425), and the loss of both ends a stream to the cellar (R419). -/
def execPortLinkDown (port : Nat) (s : State) : Out :=
  let up := tget s.ports port false
  let s := { s with ports := tput s.ports port false }
  let s := if up then logError s (2 * (portUnit port).place) 0x6002 0 (portUnit port) 0 0 else s
  let s := if s.boot.step == .handoff then at' s s.cycle .handoffTimeout else s
  let s := if (match s.ckpt with | some k => k.step = 4 | none => false) && !streamPort s 0 && !streamPort s 1
    then at' s s.cycle (.ckptStreamEnd .portsLost) else s
  .next (downUnreachable s)

end Sys2Proof.Machine
end

