-- ==== Sys2Proof/Machine/EngineEvents.lean ====
section
/-! DEFINITION. The events of the engine queues: a command starts, a unit lands, a command completes, a bound is overrun (R150, R153,
R157, R206, R350, R377). -/

namespace Sys2Proof.Machine

/-- Whether a command stands at the head of its queue, was issued before this cycle, and finds its tokens satisfied (R150). -/
def cmdReady (x : Core) (m : Cmd) (now : Nat) : Bool :=
  (x.queued m.queue).head?.map (fun y => y.id) == some m.id && decide (m.issuedAt < now) && m.tokensMet x now
    && !x.cmds.any (fun y => y.queue == m.queue && y.started == some now)

/-- Whether the unit that a command needs takes it now. -/
def unitReady (s : State) (d c : Nat) (m : Cmd) : Bool :=
  let x := coreOf s d c
  match m.queue with
  | .routing => routeTurn s d c m
  | .courier => decide (tget x.grants 9 0 ≤ s.cycle) && !x.cmds.any (fun y => y.queue == .courier && y.started.isSome)
  | .spill => spillFree x s.cycle
  | .chan _ => (match m.kind with
    | .rput => fabReady s m
    | .ramo => fabReady s m
    | .mcast => fabReady s m
    | _ => true)
  | _ => true

/-- What a command does when it starts. -/
def startCmd (s : State) (d c : Nat) (m : Cmd) : State :=
  match m.kind with
  | .route => startRoute s d c m
  | .rcsnap => startRoute s d c m
  | .rcread => startRoute s d c m
  | .courier => startCourier s d c m
  | .spawn => startSpawn s d c m
  | .rput => startFab s d c m
  | .rget => startFab s d c m
  | .ramo => startFab s d c m
  | .mcast => startFab s d c m
  | .xpose => startTurn s d c m
  | .xposeP => startTurn s d c m
  | .spill => startSpill s d c m
  | .fillRs => startSpill s d c m
  | _ => startTransfer s d c m

/-- A command marked as started, with the timer of its bound. -/
def markStarted (s : State) (d c : Nat) (m : Cmd) : State :=
  let s := onCmd s d c m.id (fun y => { y with started := some s.cycle })
  match m.bound with
  | some b => at' s (s.cycle + b) (.boundOverrun d c m.id)
  | none => s

/-- ENGINE_COMMAND_START: the head of a queue starts when its tokens are satisfied and its unit takes it (R150). -/
def execEngineCommandStart (d c id : Nat) (s : State) : Out :=
  .next (match (coreOf s d c).cmdOf id with
  | none => s
  | some m =>
    if m.started.isSome || !cmdReady (coreOf s d c) m s.cycle || !unitReady s d c m then s
    else startCmd (markStarted s d c m) d c { m with started := some s.cycle })

/-- ENGINE_UNIT_LAND: the next unit of a started command lands (R153). -/
def execEngineUnitLand (d c id : Nat) (s : State) : Out :=
  .next (match (coreOf s d c).cmdOf id with
  | none => s
  | some m =>
    if m.started.isNone || m.doneAt.isSome then s
    else match m.queue with
      | .routing => routeLand s d c m
      | .spawn => spawnLand s d c m
      | .xpose => turnLand s d c m
      | .spill => spillLand s d c m
      | .chan _ => (match m.kind with
        | .rput => fabLand s d c m
        | .rget => fabLand s d c m
        | .ramo => fabLand s d c m
        | .mcast => fabLand s d c m
        | _ => transferLand s d c m)
      | _ => s)

/-- What the completion of a command frees or counts beside its token. -/
def doneHook (s : State) (d c : Nat) (m : Cmd) : State :=
  match m.queue with
  | .routing => routeDone s d c m
  | .courier => courierDone s d c
  | .spill => spillDone s d c
  | _ => s

/-- A command whose work is done completes, unless an earlier command of its queue has still to; those behind it that wait for
it complete with it. -/
def completeFrom (s : State) (d c : Nat) : Nat → State
  | 0 => s
  | fuel + 1 =>
    let x := coreOf s d c
    match x.cmds.find? (fun m => (match m.doneAt with | some t => decide (t ≤ s.cycle) | none => false) && !x.blockedBy m) with
    | some m => completeFrom (finishCmd (doneHook s d c m) d c m) d c fuel
    | none => s

/-- ENGINE_COMMAND_COMPLETE: a command completes, and its producer leaves its token (R150). -/
def execEngineCommandComplete (d c _id : Nat) (s : State) : Out := .next (completeFrom s d c 256)

/-- The condition that a courier's word waits on (R258): a CW.WAIT a write pointer, a CW.COPY the room of its channel's queue. -/
def courierCond (s : State) (d c : Nat) : Nat :=
  let x := coreOf s d c
  match (if x.courier.waiting then courierWordAt s d c x.courier.pc else none) with
  | some v =>
    let w := v.setWidth 64
    if bits w 31 28 = 1 then 2 else if bits w 31 28 = 0 && x.queueFull (.chan (bits w 27 24)) then 9 else 10
  | none => 10

/-- The condition that an overrun command waited on (R258, R350). -/
def overrunCond (s : State) (d c : Nat) (m : Cmd) : Nat :=
  let x := coreOf s d c
  match m.kind with
  | .courier => courierCond s d c
  | .wload => 8
  | .wloadp => 8
  | .mvstream => (match m.queue with
    | .claim n => if (tget x.claims n .reset).port.isEmpty then 8 else 10
    | _ => 10)
  | _ => 10

/-- BOUND_OVERRUN: a command that is incomplete at its start plus its bound traps (R150, R206, R350). -/
def execBoundOverrun (d c id : Nat) (s : State) : Out :=
  .next (match (coreOf s d c).cmdOf id with
  | none => s
  | some m =>
    if m.started.isNone then s
    else cmdTrap s d c m false { trapOf .boundOverrun with cond := overrunCond s d c m })

end Sys2Proof.Machine
end

