-- ==== Sys2Proof/Machine/Trellis.lean ====
section
/-! DEFINITION. The words of the trellis: CLAIM, RELEASE, TPRI, the queued commands, the status reads (R201 to R221, R348). -/

namespace Sys2Proof.Machine

/-! ## Claims (R201, R202) -/

/-- A claim number of a core. -/
def Core.claim (c : Core) (n : Nat) : Claim := tget c.claims n .reset

/-- The state with a claim number changed. -/
def onClaim (s : State) (d c n : Nat) (f : Claim → Claim) : State :=
  onCore s d c (fun x => { x with claims := tput x.claims n (f (x.claim n)) })

/-- The widths that a height allows. -/
def widthsOf : Nat → List Nat
  | 1 => [1, 2, 3, 4, 6, 12]
  | 2 => [1, 2, 3, 4, 6]
  | 3 => [1, 2, 3, 4]
  | 4 => [1, 2, 3]
  | 6 => [1, 2]
  | 12 => [1]
  | _ => []

/-- Whether a shape is one of the 21. -/
def shapeAllowed (a b : Nat) : Bool := (widthsOf a).contains b

/-- The plot at a ring offset from an origin. -/
def ringPos (origin i : Nat) : Nat := (origin + i) % 12

/-- The plots of a shape at an origin. -/
def plotsAt (origin a b : Nat) : List Nat := (List.range (a * b)).map (ringPos origin)

/-- The plots a claim holds. -/
def Claim.plots (k : Claim) : List Nat := if k.held then plotsAt k.origin k.a k.b else []

/-- Flags of both, the counts added and saturating. -/
def ClaimStatus.join (x y : ClaimStatus) : ClaimStatus :=
  { ovf := x.ovf || y.ovf, inv := x.inv || y.inv, sat := x.sat || y.sat, chk := x.chk || y.chk, mask := x.mask ||| y.mask,
    compared := min (2 ^ 32 - 1) (x.compared + y.compared) }

/-- A claim number as it stands at the start of a cycle: what earlier cycles set has joined its status. -/
def Claim.settle (k : Claim) (now : Nat) : Claim :=
  if k.freshAt < now then { k with status := k.status.join k.fresh, fresh := .zero, freshAt := now } else k

/-- Flags and counts that a row landing in a cycle sets. -/
def Claim.note (k : Claim) (now : Nat) (x : ClaimStatus) : Claim := let k := k.settle now; { k with fresh := k.fresh.join x }

/-- All that a claim number's status holds. -/
def Claim.total (k : Claim) : ClaimStatus := k.status.join k.fresh

/-- The claim number with its plots free and its weights and port discarded; status and checksum state stay (R202). -/
def Claim.freed (k : Claim) : Claim := { Claim.reset with status := k.status, fresh := k.fresh, freshAt := k.freshAt }

/-! ## CLAIM, RELEASE and TPRI (R203 to R205) -/

/-- A word of the trellis that reads n scalars and takes effect in its issue cycle. -/
def trellisWord (h : Hdr) (f : FE) (s : State) (n : Nat) (go : State → List Word → State) : Out :=
  .next (if xpHolds h s then
    let e := if n = 0 then (false, s) else coreReadError s s.focus.die s.focus.core 0
    if e.1 then xpTrap e.2 (trapOf .uncorrectable)
    else match xlParams e.2.core f n with
      | none => viewTrap e.2
      | some ps => go e.2 ps
  else s)

/-- What CLAIM finds wrong with its operand, in the order of R203. -/
def claimTrap (x : Core) (n : Nat) (w : Word) : Option Cause :=
  let a := bits w 3 0
  let b := bits w 7 4
  let origin := bits w 11 8
  if bits w 63 14 ≠ 0 || 12 ≤ origin then some .reservedField
  else if !shapeAllowed a b then some .claimShape
  else if (x.claim n).held || (List.range 4).any (fun i => (x.claim i).plots.any (fun p => (plotsAt origin a b).contains p)) then
    some .claimBusy
  else none

/-- CLAIM (R203). -/
def execClaim (h : Hdr) (f : FE) (s : State) : Out :=
  trellisWord h f s 1 (fun s ps =>
    let w := wordOf ps 0
    let n := f.ch.toNat
    match claimTrap s.core n w with
    | some c => xpTrap s (trapOf c)
    | none => onClaim s s.focus.die s.focus.core n (fun k =>
        { k.freed with held := true, a := bits w 3 0, b := bits w 7 4, origin := bits w 11 8, pri := bits w 13 12 }))

/-- The cycle in which a claim's drain ends, its commands being complete (R204). -/
def drainEnd (k : Claim) (now : Nat) : Nat := if k.streams then max now (max (k.elast + 32 * k.a + 12) (k.llast + 4)) else now

/-- The commands of a claim's queue that are not complete. -/
def Core.claimCmds (x : Core) (n : Nat) : List Cmd := x.cmds.filter (fun m => m.queue == .claim n)

/-- A RELEASE whose commands are complete ends at the end of the drain. -/
def scheduleRelease (s : State) (d c n : Nat) : State :=
  let x := coreOf s d c
  let k := x.claim n
  if k.draining && k.endsAt.isNone && (x.claimCmds n).isEmpty then
    let e := drainEnd k s.cycle
    at' (onClaim s d c n (fun k => { k with endsAt := some e })) e (.releaseDrainEnd d c n)
  else s

/-- RELEASE (R204): it holds the XP until the claim's commands are complete and its results are in CB. -/
def execRelease (h : Hdr) (f : FE) (s : State) : Out :=
  trellisWord h f s 0 (fun s _ =>
    let n := f.ch.toNat
    let k := s.core.claim n
    if !k.held then s
    else if k.batch.isSome then xpTrap s (trapOf .claimBusy)
    else
      let s := s.onCore (fun x => { x with xp := { x.xp with wait := .landing (2 ^ 64) } })
      scheduleRelease (onClaim s s.focus.die s.focus.core n (fun k => { k with draining := true })) s.focus.die s.focus.core n)

/-- TPRI (R205). -/
def execTpri (h : Hdr) (f : FE) (s : State) : Out :=
  trellisWord h f s 1 (fun s ps =>
    let w := wordOf ps 0
    if bits w 63 2 ≠ 0 then xpTrap s (trapOf .reservedField)
    else if !(s.core.claim f.ch.toNat).held then xpTrap s (trapOf .claimShape)
    else onClaim s s.focus.die s.focus.core f.ch.toNat (fun k => { k with pri := bits w 1 0 }))

/-! ## Queued commands (R206 to R215, R218) -/

/-- The bytes of an element of a stream or of weights, for the checks at issue: two for codes 7 and 8 (R207). -/
def trellisSize (code : Nat) : Nat := if code = 7 ∨ code = 8 then 2 else 1

/-- Whether no row of a run of rows that starts at a phase-mapped offset passes its range (R432). -/
def rowsInRange (x : Core) (buf base stride rows len : Nat) : Bool :=
  (List.range rows).all (fun m => !passesRange x buf (base + m * stride) len)

/-- The checks of WLOAD and WLOADP at issue (R207, R208). -/
def wloadCheck (n : Nat) (x : Core) (ps : List Word) : Option (Cause × Nat) :=
  let p := wordOf ps
  let k := bits (p 1) 8 0
  let m := bits (p 1) 24 16
  let ew := trellisSize (bits (p 1) 35 32)
  let stride := bits (p 2) 31 0
  let off := resolve x true 1 (adrBase (p 0))
  let cl := x.claim n
  if !adrOk (p 0) || adrSpace (p 0) ≠ 1 || k = 0 || m = 0 || bits (p 1) 15 9 ≠ 0 || bits (p 1) 31 25 ≠ 0 || bits (p 1) 63 36 ≠ 0
      || bits (p 2) 63 32 ≠ 0 then some (.reservedField, 0)
  else if !cl.held then some (.claimShape, 0)
  else if 32 * cl.a < k || 32 * cl.b < m || stride < m * ew then some (.reservedField, 0)
  else if off % ew ≠ 0 || stride % ew ≠ 0 then some (.align, off)
  else if !rowsInRange x 1 (adrBase (p 0)) stride k (m * ew) then some (.prot, off)
  else none

/-- What the commands of a claim that are queued will have set when a command behind them starts: K and N of both banks, and the output,
stride and rows of the open batch. -/
structure Ahead where
  active : Option (Nat × Nat)
  shadow : Option (Nat × Nat)
  batch  : Option (Nat × Nat × Nat)
  deriving DecidableEq, Repr

/-- K and N that a weight load names. -/
def loadDims (m : Cmd) : Nat × Nat := (bits (wordOf m.params 1) 8 0, bits (wordOf m.params 1) 24 16)

/-- The banks and the batch after a queued command (R209, R214, R215). -/
def Ahead.after (h : Ahead) (m : Cmd) : Ahead :=
  let ctl := wordOf m.params 3
  let stream : Ahead :=
    { active := h.shadow.or h.active, shadow := none,
      batch := match h.batch with
        | some b => some (b.1, b.2.1, b.2.2 + bits ctl 15 0)
        | none => if bit ctl 21 then some (adrBase (wordOf m.params 2), bits (wordOf m.params 1) 63 32, bits ctl 15 0) else none }
  match m.kind with
  | .wload => { h with active := some (loadDims m) }
  | .wloadp => { h with shadow := some (loadDims m) }
  | .mstream => stream
  | .mstreamp => stream
  | .mvstream => { h with active := none, shadow := none }
  | .teob => { h with batch := none }
  | _ => h

/-- The banks and the batch that the next command of a claim's queue will find. -/
def Core.ahead (x : Core) (n : Nat) : Ahead :=
  let k := x.claim n
  let dims (b : Option Bank) : Option (Nat × Nat) := b.bind (fun b => if b.vec then none else some (b.k, b.n))
  (x.queued (.claim n)).foldl Ahead.after
    { active := dims k.active, shadow := dims k.shadow, batch := k.batch.map (fun b => (b.out, b.cstride, b.rows)) }

/-- Whether a row of an MSTREAM or MSTREAMP starts in a phase range and passes it, by the bank and the batch that it will find (R432). -/
def streamPasses (planes : Bool) (n : Nat) (x : Core) (ps : List Word) : Bool :=
  let p := wordOf ps
  let h := x.ahead n
  let rows := bits (p 3) 15 0
  match h.shadow.or h.active with
  | none => false
  | some (k, m) =>
    let len := if planes then 256 * ceilDiv k 256 else k * trellisSize (bits (p 3) 19 16)
    let out := if bit (p 3) 22 then h.batch else some (adrBase (p 2), bits (p 1) 63 32, 0)
    !rowsInRange x 2 (adrBase (p 0)) (bits (p 1) 31 0) rows len
      || (match out with
        | some (o, stride, first) => !rowsInRange x 3 (o + first * stride) stride rows (4 * m)
        | none => false)

/-- The checks of MSTREAM and MSTREAMP at issue (R207, R210, R213, R432). -/
def mstreamCheck (planes : Bool) (n : Nat) (x : Core) (ps : List Word) : Option (Cause × Nat) :=
  let p := wordOf ps
  let ctl := p 3
  let join := bit ctl 22
  let pl := bits ctl 27 24
  let ao := resolve x true 2 (adrBase (p 0))
  let co := resolve x true 3 (adrBase (p 2))
  let size := trellisSize (bits ctl 19 16)
  let ua := if planes then 32 else size
  let us := if planes then 256 else size
  if !adrOk (p 0) || adrSpace (p 0) ≠ 2 || bits ctl 15 0 = 0 || bit ctl 23 || bits ctl 31 28 ≠ 0 || bits ctl 63 40 ≠ 0
      || (bit ctl 21 && join) || (if planes then pl = 0 || 8 < pl else pl ≠ 0)
      || (if join then p 2 ≠ 0 || bits (p 1) 63 32 ≠ 0 else !adrOk (p 2) || adrSpace (p 2) ≠ 3) then some (.reservedField, 0)
  else if !(x.claim n).held then some (.claimShape, 0)
  else if ao % ua ≠ 0 || bits (p 1) 31 0 % us ≠ 0 then some (.align, ao)
  else if !join && (co % 4 ≠ 0 || bits (p 1) 63 32 % 4 ≠ 0) then some (.align, co)
  else if streamPasses planes n x ps then some (.prot, ao)
  else none

/-- The checks of MVSTREAM at issue (R207, R215). -/
def mvstreamCheck (n : Nat) (x : Core) (ps : List Word) : Option (Cause × Nat) :=
  let p := wordOf ps
  let ctl := p 3
  let k := bits ctl 32 24
  let size := trellisSize (bits ctl 19 16)
  let ao := resolve x true 2 (adrBase (p 0))
  let co := resolve x true 3 (adrBase (p 2))
  let cl := x.claim n
  if !adrOk (p 0) || adrSpace (p 0) ≠ 2 || !adrOk (p 2) || adrSpace (p 2) ≠ 3 || bits ctl 15 0 = 0 || k = 0 || bits ctl 35 33 ≠ 0
      || bits ctl 63 48 ≠ 0 then some (.reservedField, 0)
  else if !cl.held then some (.claimShape, 0)
  else if 32 * cl.a < k then some (.reservedField, 0)
  else if ao % size ≠ 0 || bits (p 1) 31 0 % size ≠ 0 then some (.align, ao)
  else if co % 4 ≠ 0 || bits (p 1) 63 32 % 4 ≠ 0 then some (.align, co)
  else if !rowsInRange x 2 (adrBase (p 0)) (bits (p 1) 31 0) (bits ctl 23 21 + 1) (k * size)
      || !rowsInRange x 3 (adrBase (p 2)) (bits (p 1) 63 32) (bits ctl 23 21 + 1) (4 * bits ctl 15 0) then some (.prot, ao)
  else none

/-- WLOAD (R208). -/
def execWload (h : Hdr) (f : FE) (s : State) : Out := xlIssue h f s (.claim f.ch.toNat) .wload 3 (wloadCheck f.ch.toNat)

/-- WLOADP (R208). -/
def execWloadp (h : Hdr) (f : FE) (s : State) : Out := xlIssue h f s (.claim f.ch.toNat) .wloadp 3 (wloadCheck f.ch.toNat)

/-- MSTREAM (R210). -/
def execMstream (h : Hdr) (f : FE) (s : State) : Out := xlIssue h f s (.claim f.ch.toNat) .mstream 4 (mstreamCheck false f.ch.toNat)

/-- MSTREAMP (R213). -/
def execMstreamp (h : Hdr) (f : FE) (s : State) : Out := xlIssue h f s (.claim f.ch.toNat) .mstreamp 4 (mstreamCheck true f.ch.toNat)

/-- MVSTREAM (R215). -/
def execMvstream (h : Hdr) (f : FE) (s : State) : Out := xlIssue h f s (.claim f.ch.toNat) .mvstream 4 (mvstreamCheck f.ch.toNat)

/-- A command without parameters placed in a claim's queue, held or not. -/
def bareCommand (h : Hdr) (f : FE) (s : State) (k : CmdKind) : Out :=
  trellisWord h f s 0 (fun s _ =>
    if s.core.queueFull (.claim f.ch.toNat) then xpStall s (.stalled .queueFull)
    else issueCmd s s.focus.die s.focus.core (.claim f.ch.toNat) k [] f)

/-- TEOB (R214). -/
def execTeob (h : Hdr) (f : FE) (s : State) : Out := bareCommand h f s .teob

/-- TDRAIN (R218). -/
def execTdrain (h : Hdr) (f : FE) (s : State) : Out := bareCommand h f s .tdrain

/-! ## Status reads (R220, R221) -/

/-- A bit at a place. -/
def flagAt (b : Bool) (i : Nat) : Word := if b then fieldAt 1 i else 0

/-- What TACS reads. -/
def ClaimStatus.flags (x : ClaimStatus) : Word := flagAt x.sat 2 ||| flagAt x.inv 1 ||| flagAt x.ovf 0

/-- What TCHK reads. -/
def ClaimStatus.checks (x : ClaimStatus) : Word := fieldAt x.compared 32 ||| fieldAt x.mask.toNat 4 ||| flagAt x.chk 0

/-- A status read: the value at the start of the cycle lands in the next; with CLR what was read is cleared. -/
def statusRead (h : Hdr) (f : FS) (s : State) (v : ClaimStatus → Word) (clear : ClaimStatus → ClaimStatus) : Out :=
  .next (if xpHolds h s then
    let k := (s.core.claim (f.num.toNat % 4)).settle s.cycle
    match sResult s.core f.d (v k.status) with
    | none => viewTrap s
    | some ws =>
      coreLand (onClaim s s.focus.die s.focus.core (f.num.toNat % 4) (fun _ => { k with status := clear k.status })) 1 ws
  else s)

/-- TACS (R220). -/
def execTacs (h : Hdr) (f : FS) (s : State) : Out := statusRead h f s ClaimStatus.flags id

/-- TACS with CLR (R220). -/
def execTacsClr (h : Hdr) (f : FS) (s : State) : Out :=
  statusRead h f s ClaimStatus.flags (fun x => { x with ovf := false, inv := false, sat := false })

/-- TCHK (R221). -/
def execTchk (h : Hdr) (f : FS) (s : State) : Out := statusRead h f s ClaimStatus.checks id

/-- TCHK with CLR (R221). -/
def execTchkClr (h : Hdr) (f : FS) (s : State) : Out :=
  statusRead h f s ClaimStatus.checks (fun x => { x with chk := false, mask := 0, compared := 0 })

end Sys2Proof.Machine
end

