-- ==== Sys2Proof/Machine/TrellisRun.lean ====
section
/-! DEFINITION. The trellis in operation: commands that start, weights that load, rows and columns that enter and land, the checksum
lane, the end of a RELEASE (R88 to R90, R206 to R219, R339, R341, R347). -/

namespace Sys2Proof.Machine

/-! ## The 32-block rule (R88 to R90, R341) -/

/-- The exact sum of the products of one block. -/
def blockSum (xs ws : List FVal) : FVal :=
  match List.zipWith mulV xs ws with
  | [] => .fin false 0 0
  | p :: ps => ps.foldl addV p

/-- The exact sums of the blocks of 32 of a row and a column, in ascending K. -/
def blockSums (xs ws : List FVal) : List FVal :=
  (List.range (ceilDiv xs.length 32)).map (fun i => blockSum ((xs.drop (32 * i)).take 32) ((ws.drop (32 * i)).take 32))

/-- One block sum added to an f32 accumulator with one rounding, and the flags it sets (R89). A NaN accumulator is kept bit for bit
(entry 135). -/
def floatStep (acc : Nat) (sum : FVal) : Nat × ClaimStatus :=
  let invalid : Nat × ClaimStatus := (Fmt.f32.nan, { ClaimStatus.zero with inv := true })
  match sum, decodeF .f32 acc with
  | .nan, _ => invalid
  | _, .nan => (acc, .zero)
  | .inf a, .inf b => if a = b then (acc, .zero) else invalid
  | .inf a, _ => (infF .f32 a, .zero)
  | _, .inf _ => (acc, .zero)
  | x, y =>
    let v := addV y x
    (roundF .f32 .rne 0 v, { ClaimStatus.zero with ovf := overflows .f32 v })

/-- An exact integer of a block sum. -/
def intOf : FVal → Int
  | .fin neg m e => let x : Int := (m * 2 ^ e.toNat : Nat); if neg then -x else x
  | _ => 0

/-- One block sum added to an i32 accumulator and clamped (R90). -/
def intStep (acc : Nat) (sum : FVal) : Nat × ClaimStatus :=
  let v := signedOf 32 acc + intOf sum
  let w := max (-(2 ^ 31 : Int)) (min (2 ^ 31 - 1) v)
  (wrapInt 32 w, { ClaimStatus.zero with sat := decide (w ≠ v) })

/-- The block sums of an output element added in ascending order. -/
def accumulate32 (int : Bool) (acc : Nat) (sums : List FVal) : Nat × ClaimStatus :=
  sums.foldl (fun p x => let r := if int then intStep p.1 x else floatStep p.1 x; (r.1, p.2.join r.2)) (acc, .zero)

/-! ## Formats and operands (R208 to R215) -/

/-- The element format codes of plain streams and of weights. -/
def plainCode (code : Nat) : Bool := [1, 5, 6, 7, 8].contains code

/-- The format pairs of R211, of MSTREAMP when planes. -/
def pairAllowed (planes : Bool) (a w : Nat) : Bool :=
  if planes then a = 10 && w = 1
  else ((a = 5 || a = 6) && (w = 5 || w = 6)) || (a = 7 && w = 7) || (a = 8 && w = 8) || (a = 1 && w = 1)

/-- The entry interval of an MSTREAM (R211). -/
def entryInterval (a : Nat) : Nat := if a = 7 ∨ a = 8 then 2 else 1

/-- Elements of a plain format from bytes. -/
def valuesOf (code : Nat) (bs : List Byte) : List FVal :=
  let t := elemOfCode code
  (List.range (bs.length / t.bytes)).map (fun i => t.value false (leNat ((bs.drop (i * t.bytes)).take t.bytes)))

/-- K values of a bit-plane row of 256-byte blocks, over its first planes (R87, R213). -/
def planeValues (planes k : Nat) (bs : List Byte) : List FVal :=
  (List.range k).map (fun j => intV (signedOf 8 (planeValue 8 planes ((bs.drop (256 * (j / 256))).take 256) (j % 256))))

/-- The parameters of a stream: AFMT, rows or columns, PLANES, ACC, RAG, JOIN, TAG. -/
structure StreamForm where
  afmt   : Nat
  rows   : Nat
  planes : Nat
  acc    : Bool
  rag    : Bool
  join   : Bool
  tag    : Nat
  deriving DecidableEq, Repr

/-- The form of an MSTREAM or MSTREAMP. -/
def streamForm (m : Cmd) : StreamForm :=
  let w := wordOf m.params 3
  { afmt := bits w 19 16, rows := bits w 15 0, planes := bits w 27 24, acc := bit w 20, rag := bit w 21, join := bit w 22,
    tag := bits w 39 32 }

/-- The bytes of an A row. -/
def rowBytes (m : Cmd) (k : Nat) : Nat :=
  if m.kind = .mstreamp then 256 * ceilDiv k 256 else k * trellisSize (streamForm m).afmt

/-- The offset of an A row. -/
def aRow (x : Core) (m : Cmd) (i : Nat) : Nat :=
  resolveIn x m.half true 2 (adrBase (wordOf m.params 0) + i * bits (wordOf m.params 1) 31 0)

/-- The offset of output row i of a stream, from the output that its command or its batch names. -/
def outRow (x : Core) (m : Cmd) (i : Nat) : Nat :=
  resolveIn x m.half true 3 (m.aux.getD 0 0 + (m.aux.getD 2 0 + i) * m.aux.getD 1 0)

/-- The exact sum of some values; +0 of none. -/
def sumV : List FVal → FVal
  | [] => .fin false 0 0
  | x :: xs => xs.foldl addV x

/-- The exact sums of each of k weight rows of n elements over each 32 columns, those of the first columns first (R208). -/
def rowSums (k n : Nat) (ws : List FVal) : List FVal :=
  (List.range (ceilDiv n 32)).flatMap (fun j => (List.range k).map (fun r => sumV (((ws.drop (r * n)).take n |>.drop (32 * j)).take 32)))

/-- The exact sums over vectors of k elements of the elements of each place (R219). -/
def vectorSums (k : Nat) (vs : List FVal) : List FVal :=
  (List.range k).map (fun r => sumV ((List.range (vs.length / max 1 k)).map (fun v => vs.getD (v * k + r) (.fin false 0 0))))

/-- Whether every row of a run lies in its buffer and within its phase range. -/
def rowsFit (x : Core) (half : BitVec 3) (buf base stride first rows len : Nat) : Bool :=
  (List.range rows).all (fun i =>
    let o := base + (first + i) * stride
    decide (resolveIn x half true buf o + len ≤ bufBytes buf) && !passesRange x buf o len)

/-! ## The start of a command (R206, R207, R209, R212, R214) -/

/-- Whether a bank is absent or was loaded before a cycle. -/
def loadedBefore (b : Option Bank) (now : Nat) : Bool := match b with | none => true | some b => decide (b.doneAt < now)

/-- A command's own start condition. -/
def startCondition (s : State) (d c : Nat) (m : Cmd) : Bool :=
  match m.queue with
  | .claim n =>
    let k := (coreOf s d c).claim n
    match m.kind with
    | .wload => !k.feeding && (!k.streams || decide (k.elast < s.cycle))
    | .wloadp => loadedBefore k.shadow s.cycle
    | .teob => true
    | .tdrain => true
    | _ => !k.feeding && (!k.streams || decide (k.elast + k.rprev ≤ s.cycle)) && loadedBefore k.active s.cycle && decide (k.wdone < s.cycle)
        && loadedBefore k.shadow s.cycle
  | _ => false

/-- Whether a command of a claim starts now. -/
def trellisReady (s : State) (d c : Nat) (m : Cmd) : Bool := cmdReady (coreOf s d c) m s.cycle && startCondition s d c m

/-- TEOB and TDRAIN complete once no older command of the claim is left; a RELEASE's drain then ends. Fuel bounds the commands. -/
def claimQuiet (s : State) (d c n : Nat) : Nat → State
  | 0 => scheduleRelease s d c n
  | fuel + 1 =>
    let cs := (coreOf s d c).claimCmds n
    match cs.find? (fun m => m.started.isSome && (m.kind == .teob || m.kind == .tdrain) && !cs.any (fun y => y.id < m.id)) with
    | some m => claimQuiet (finishCmd s d c m) d c n fuel
    | none => scheduleRelease s d c n

/-- The commands of a claim that may complete now: each that completes leaves the claim. -/
def quietClaim (s : State) (d c n : Nat) : State := claimQuiet s d c n ((coreOf s d c).claimCmds n).length

/-- A weight load starts (R209): it completes S + 4 + 32·ew. -/
def startLoad (s : State) (d c n : Nat) (m : Cmd) : State :=
  let p := wordOf m.params
  let x := coreOf s d c
  let k := bits (p 1) 8 0
  let w := bits (p 1) 24 16
  let fmt := bits (p 1) 35 32
  let ew := trellisSize fmt
  let off := adrBase (p 0)
  if !plainCode fmt then cmdFault s d c m .format 0 0
  else if (x.claim n).batch.isSome then cmdFault s d c m .claimBusy 0 0
  else if !rowsFit x m.half 1 off (bits (p 2) 31 0) 0 k (w * ew) then cmdFault s d c m .prot 0 (resolveIn x m.half true 1 off)
  else
    let b : Bank := { k := k, n := w, wfmt := fmt, doneAt := s.cycle + 4 + 32 * ew, wts := [], params := m.params, half := m.half,
                      vec := false, sums := [] }
    at' (onClaim s d c n (fun y => if m.kind = .wload then { y with active := some b, wdone := max y.wdone b.doneAt } else { y with shadow := some b }))
      (s.cycle + 4 + 32 * ew) (.wloadComplete d c m.id)

/-- The banks after the activation of a shadow (R209). -/
def Claim.activate (k : Claim) : Claim :=
  match k.shadow with
  | some b => { k with active := some b, shadow := none }
  | none => k

/-- The last entry cycle of a stream that starts now (R212, R213). -/
def lastEntry (m : Cmd) (now : Nat) : Nat :=
  let f := streamForm m
  if m.kind = .mstreamp then now + f.planes * (8 * (f.rows / 32) + ceilDiv (f.rows % 32) 4) - 1
  else now + entryInterval f.afmt * (f.rows - 1)

/-- The first entry cycle of a stream that starts now (R212, R213). -/
def firstEntry (m : Cmd) (now : Nat) : Nat :=
  let f := streamForm m
  if m.kind = .mstreamp then now + (f.planes - 1) * ceilDiv (min 32 f.rows) 4 else now

/-- A batch after a stream that starts (R214). -/
def nextBatch (f : StreamForm) (m : Cmd) (b : Option Batch) : Option Batch :=
  match b with
  | some b => if f.join then some { b with rows := b.rows + f.rows } else some b
  | none => if f.rag then
      some { afmt := f.afmt, planes := f.planes, out := adrBase (wordOf m.params 2), cstride := bits (wordOf m.params 1) 63 32,
             half := m.half, acc := f.acc, rows := f.rows }
    else none

/-- An MSTREAM or MSTREAMP starts (R207, R210 to R214, R348); the bank of an MVSTREAM whose last column has entered counts as EMPTY
(entry 176). -/
def startStream (s : State) (d c n : Nat) (m : Cmd) : State :=
  let x := coreOf s d c
  let k := x.claim n
  let f := streamForm m
  let planes := m.kind == .mstreamp
  let bank := match k.activate.active with
    | some b => if b.vec then none else some b
    | none => none
  let joined := match k.batch with | some b => f.join && (b.afmt != f.afmt || b.planes != f.planes) | none => false
  if (if planes then f.afmt ≠ 10 else !plainCode f.afmt) || joined then cmdFault s d c m .format 0 0
  else match bank with
    | none => cmdFault s d c m .claimBusy 0 0
    | some b =>
      if !pairAllowed planes f.afmt b.wfmt then cmdFault s d c m .format 0 0
      else if f.join != k.batch.isSome then cmdFault s d c m .claimBusy 0 0
      else
        let aux : List Nat := match k.batch with
          | some t => [t.out, t.cstride, t.rows, if t.acc then 1 else 0]
          | none => [adrBase (wordOf m.params 2), bits (wordOf m.params 1) 63 32, 0, if f.acc then 1 else 0]
        let first := aux.getD 2 0
        if 2 ^ 32 < first + f.rows then cmdFault s d c m .reservedField 0 0
        else if !rowsFit x m.half 2 (adrBase (wordOf m.params 0)) (bits (wordOf m.params 1) 31 0) 0 f.rows (rowBytes m b.k) then
          cmdFault s d c m .prot 0 (aRow x m 0)
        else if !rowsFit x m.half 3 (aux.getD 0 0) (aux.getD 1 0) first f.rows (4 * b.n) then
          cmdFault s d c m .prot 0 (outRow x { m with aux := aux } 0)
        else
          let s := onClaim (onCmd s d c m.id (fun y => { y with aux := aux })) d c n (fun y =>
            { y.activate with
              streams := true, elast := lastEntry m s.cycle, rprev := if planes then 1 else entryInterval f.afmt,
              batch := nextBatch f m y.batch })
          at' s (firstEntry m s.cycle) (.streamRowEnter d c m.id)

/-- An MVSTREAM starts (R215): its vectors stand in the ACTIVE bank, the weights enter from S + 8 on. -/
def startVectors (s : State) (d c n : Nat) (m : Cmd) : State :=
  let x := coreOf s d c
  let k := x.claim n
  let ctl := wordOf m.params 3
  let f := streamForm m
  let len := bits ctl 32 24 * trellisSize f.afmt
  let v := bits ctl 23 21 + 1
  let stride := bits (wordOf m.params 1) 31 0
  if !plainCode f.afmt || !pairAllowed false f.afmt (bits ctl 39 36) then cmdFault s d c m .format 0 0
  else if k.batch.isSome then cmdFault s d c m .claimBusy 0 0
  else if !rowsFit x m.half 2 (adrBase (wordOf m.params 0)) stride 0 v len then cmdFault s d c m .prot 0 (aRow x m 0)
  else if !rowsFit x m.half 3 (adrBase (wordOf m.params 2)) (bits (wordOf m.params 1) 63 32) 0 v (4 * f.rows) then
    cmdFault s d c m .prot 0 (resolveIn x m.half true 3 (adrBase (wordOf m.params 2)))
  else
    let e := coreReadError s d c 2
    if e.1 then cmdFault e.2 d c m .uncorrectable 0 0
    else
      let bs := (List.range v).flatMap (fun i => bytesAt x.ab (aRow x m i) len)
      let b : Bank := { k := bits ctl 32 24, n := v, wfmt := f.afmt, doneAt := s.cycle, wts := bs, params := m.params, half := m.half,
                        vec := true, sums := vectorSums (bits ctl 32 24) (valuesOf f.afmt bs) }
      let s := onClaim e.2 d c n (fun y => { y with active := some b, shadow := none, streams := true, rprev := 1, feeding := true })
      at' (addHot s d c (bits ctl 47 40) (v * len)) (s.cycle + 8) (.streamRowEnter d c m.id)

/-- TRELLIS_COMMAND_START (R206). -/
def execTrellisCommandStart (d c id : Nat) (s : State) : Out :=
  .next (match (coreOf s d c).cmdOf id with
  | none => s
  | some m =>
    match m.queue with
    | .claim n =>
      if m.started.isSome || !trellisReady s d c m then s
      else if s.strikes.contains (.queues d c) then cmdFault (unstrike s (.queues d c)) d c m .uncorrectable 0 0
      else
        let s := markStarted s d c m
        let m := { m with started := some s.cycle }
        let busy := ((coreOf s d c).claim n).batch.isSome
        (match m.kind with
        | .wload => startLoad s d c n m
        | .wloadp => startLoad s d c n m
        | .mvstream => startVectors s d c n m
        | .teob => if busy then quietClaim (onClaim s d c n (fun y => { y with batch := none })) d c n
          else quietClaim (finishCmd s d c m) d c n
        | .tdrain => if busy then cmdFault s d c m .claimBusy 0 0 else quietClaim s d c n
        | _ => startStream s d c n m)
    | _ => s)

/-! ## Weights (R208, R209) -/

/-- The bytes of the rows of a weight load as WB holds them. -/
def weightBytes (x : Core) (b : Bank) : List Byte :=
  (List.range b.k).flatMap (fun i =>
    bytesAt x.wb (resolveIn x b.half true 1 (adrBase (wordOf b.params 0) + i * bits (wordOf b.params 2) 31 0))
      (b.n * trellisSize b.wfmt))

/-- A bank filled from WB, with the row sums that its plots' checksum lanes form (R208, R346). -/
def Bank.filled (b : Bank) (x : Core) : Bank :=
  { b with wts := weightBytes x b, sums := rowSums b.k b.n (valuesOf b.wfmt (weightBytes x b)) }

/-- WLOAD_COMPLETE (R209): the bank holds its weights, and the load completes. Of two that overlap the one that started
later stands (entry 177). -/
def execWloadComplete (d c id : Nat) (s : State) : Out :=
  .next (match (coreOf s d c).cmdOf id with
  | none => s
  | some m =>
    match m.queue with
    | .claim n =>
      let e := coreReadError s d c 1
      if e.1 then cmdFault e.2 d c m .uncorrectable 0 0
      else
        let x := coreOf e.2 d c
        let fill (b : Option Bank) : Option Bank := b.map (fun b =>
          if b.doneAt = s.cycle && b.params == m.params && !b.vec then b.filled x else b)
        let s := onClaim e.2 d c n (fun y =>
          if m.kind = .wload then { y with active := fill y.active } else { y with shadow := fill y.shadow })
        quietClaim (finishCmd s d c m) d c n
    | _ => s)

/-! ## Rows and columns that enter (R211 to R215, R339) -/

/-- Values that are all finite. -/
def allFinite (xs : List FVal) : Bool := xs.all FVal.isFin

/-- The plots of a claim: block and column group. -/
def Claim.places (k : Claim) : List (Nat × Nat) := (List.range k.a).flatMap (fun i => (List.range k.b).map (fun j => (i, j)))

/-- The exact sum of the products of a block of 32 of some values with their sums at the load. -/
def laneSum (block : Nat) (xs sums : List FVal) : FVal :=
  sumV (List.zipWith mulV ((xs.drop (32 * block)).take 32) ((sums.drop (32 * block)).take 32))

/-- The lanes of the plots of a claim that compare a row (R219): those whose row and weight inputs are all finite. xs is the A row, cols the
columns of weights. -/
def comparing (k : Claim) (b : Bank) (xs : List FVal) (cols : List (List FVal)) : List Lane :=
  k.places.filterMap (fun p =>
    let w := ((cols.drop (32 * p.2)).take 32).all (fun col => allFinite ((col.drop (32 * p.1)).take 32))
    if allFinite ((xs.drop (32 * p.1)).take 32) && w then
      some { plot := ringPos k.origin (p.1 * k.b + p.2), block := p.1, first := 32 * p.2, count := 32,
             sum := laneSum p.1 xs ((b.sums.drop (p.2 * b.k)).take b.k) }
    else none)

/-- The landing cycle of a claim's next row, whose own latency ends in cycle f: rows land in order, at most cap of them in a cycle, and one
that accumulates lands after the rows of other commands, which it reads (R212, R216, R339; entry 70). -/
def landSlot (k : Claim) (id f cap : Nat) (acc : Bool) : Nat :=
  let last := k.rows.filter (fun r => r.due = k.llast)
  if k.llast < f then f
  else if cap ≤ last.length || (acc && last.any (fun r => r.cmd != id)) then k.llast + 1
  else k.llast

/-- Row i of a stream enters: its block sums, its landing. -/
def enterRow (s : State) (d c n id i : Nat) : State :=
  match (coreOf s d c).cmdOf id with
  | none => s
  | some m =>
    let x := coreOf s d c
    let k := x.claim n
    match k.active with
    | none => s
    | some b =>
      let f := streamForm m
      let bs := bytesAt x.ab (aRow x m i) (rowBytes m b.k)
      let xs := if m.kind = .mstreamp then planeValues f.planes b.k bs else valuesOf f.afmt bs
      let ws := valuesOf b.wfmt b.wts
      let cols := (List.range b.n).map (fun j => (List.range b.k).map (fun r => ws.getD (r * b.n + j) (.fin false 0 0)))
      let acc := m.aux.getD 3 0 = 1
      let l := landSlot k id (s.cycle + 32 * k.a + 8) (max 1 (512 / b.n)) acc
      let o := outRow x m i
      let row : TrellisRow :=
        { cmd := id, due := l, cells := ((List.range b.n).zip cols).map (fun p => (o + 4 * p.1, blockSums xs p.2)),
          acc := acc, int := f.afmt = 1 || f.afmt = 10, lanes := comparing k b xs cols }
      let s := onCmd (onClaim s d c n (fun y => { y with rows := y.rows ++ [row], llast := l })) d c id (fun y =>
        { y with rows := i + 1 })
      at' (addHot s d c f.tag bs.length) l (.streamRowLand d c id)

/-- The rows of a stream that enter in one cycle: one, or a quad of an MSTREAMP (R213); and the cycle in which the next enter. -/
def enterRows (s : State) (d c n : Nat) (m : Cmd) : State :=
  let f := streamForm m
  let i := m.rows
  let count := if m.kind = .mstreamp then min 4 (min f.rows (i / 32 * 32 + 32) - i) else 1
  let s := (List.range count).foldl (fun s j => enterRow s d c n m.id (i + j)) s
  let j := i + count
  if f.rows ≤ j then s
  else
    let next := if m.kind = .mstreamp then
        (if j % 32 = 0 then s.cycle + 1 + (f.planes - 1) * ceilDiv (min 32 (f.rows - j)) 4 else s.cycle + 1)
      else s.cycle + entryInterval f.afmt
    at' s next (.streamRowEnter d c m.id)

/-- One column of an MVSTREAM has been consumed: its V results land 32·a + 8 cycles on, in order with the rows of the claim (R215, R216). -/
def enterColumn (s : State) (d c n id : Nat) (bs : List Byte) : State :=
  match (coreOf s d c).cmdOf id with
  | none => s
  | some m =>
    let x := coreOf s d c
    let k := x.claim n
    match k.active with
    | none => s
    | some b =>
      let ctl := wordOf m.params 3
      let ws := valuesOf (bits ctl 39 36) bs
      let vs := valuesOf b.wfmt b.wts
      let xs := (List.range b.n).map (fun v => (vs.drop (v * b.k)).take b.k)
      let out := adrBase (wordOf m.params 2)
      let cstride := bits (wordOf m.params 1) 63 32
      let due := landSlot k id (s.cycle + 32 * k.a + 8) (k.rows.length + 1) (bit ctl 20)
      let finite (i : Nat) : Bool := xs.all (fun v => allFinite ((v.drop (32 * i)).take 32)) && allFinite ((ws.drop (32 * i)).take 32)
      let lanes : List Lane := k.places.filterMap (fun p =>
        if finite p.1 then some { plot := ringPos k.origin (p.1 * k.b + p.2), block := p.1, first := 0, count := b.n, sum := laneSum p.1 ws b.sums }
        else none)
      let row : TrellisRow :=
        { cmd := id, due := due,
          cells := ((List.range b.n).zip xs).map (fun p =>
            (resolveIn x m.half true 3 (out + p.1 * cstride) + 4 * m.rows, blockSums p.2 ws)),
          acc := bit ctl 20, int := b.wfmt = 1, lanes := lanes }
      let s := onCmd (onClaim s d c n (fun y => { y with rows := y.rows ++ [row], llast := due })) d c id (fun y => { y with rows := y.rows + 1 })
      at' s due (.mvstreamColumnLand d c id)

/-- The columns whose bytes are complete. -/
def enterColumns (d c n id size : Nat) : Nat → List Byte → State → State
  | 0, rest, s => onCmd s d c id (fun y => { y with data := rest })
  | fuel + 1, bs, s =>
    if bs.length < size then onCmd s d c id (fun y => { y with data := bs })
    else enterColumns d c n id size fuel (bs.drop size) (enterColumn s d c n id (bs.take size))

/-- The weight elements that an MVSTREAM may consume in this cycle, as a count and what is left of a fraction (R215). -/
def consumeRate (k : Claim) (v ew carry : Nat) : Nat × Nat :=
  if 256 * v ≤ 1024 * k.a * k.b then (256 / ew, 0)
  else ((carry + 1024 * k.a * k.b) / (v * ew), (carry + 1024 * k.a * k.b) % (v * ew))

/-- A cycle in which an MVSTREAM consumes weights from its port. -/
def feedColumns (s : State) (d c n : Nat) (m : Cmd) : State :=
  let k := (coreOf s d c).claim n
  let ctl := wordOf m.params 3
  let ew := trellisSize (bits ctl 39 36)
  let len := bits ctl 32 24
  let total := bits ctl 15 0 * len
  let r := consumeRate k (bits ctl 23 21 + 1) ew (m.aux.getD 0 0)
  let take := min r.1 (min (k.port.length / ew) (total - m.unit))
  let bs := k.port.take (take * ew)
  let s := onClaim s d c n (fun y => { y with port := y.port.drop (take * ew) })
  let s := onCmd s d c m.id (fun y => { y with unit := y.unit + take, aux := [if take = r.1 then r.2 else 0] })
  let s := enterColumns d c n m.id (len * ew) 320 (m.data ++ bs) s
  let s := addHot s d c (bits ctl 47 40) (take * ew)
  if total ≤ m.unit + take then onClaim s d c n (fun y => { y with feeding := false, elast := s.cycle })
  else at' s (s.cycle + 1) (.streamRowEnter d c m.id)

/-- STREAM_ROW_ENTER: the rows of a stream whose entry cycle it is, or the weights an MVSTREAM consumes in it (R212, R213, R215). -/
def execStreamRowEnter (d c id : Nat) (s : State) : Out :=
  .next (match (coreOf s d c).cmdOf id with
  | none => s
  | some m =>
    match m.queue with
    | .claim n =>
      let e := if m.kind = .mvstream then (false, s) else coreReadError s d c 2
      if m.started.isNone then s
      else if e.1 then cmdFault e.2 d c m .uncorrectable 0 0
      else if m.kind = .mvstream then feedColumns e.2 d c n m
      else enterRows e.2 d c n m
    | _ => s)

/-! ## Rows that land (R211, R216, R219, R347) -/

/-- Whether the block sums that a plot formed for a row are in sum those that the row sums of the load give (R219, R346). -/
def laneAgrees (r : TrellisRow) (l : Lane) : Bool :=
  match addV (sumV (((r.cells.drop l.first).take l.count).map (fun p => p.2.getD l.block (.fin false 0 0)))) (negV l.sum) with
  | .fin _ m _ => m = 0
  | _ => false

/-- Whether an armed injection makes the checksum lane of a plot disagree; one of MODE 00 is consumed, and no further row is affected
(R403). -/
def laneDisagrees (s : State) (d c plot : Nat) : Bool × State :=
  let p := (physOf s d c).1
  let w := (dieOf s p).inj
  if bit w 31 && !(dieOf s p).injUsed && bits w 23 19 = (physOf s d c).2 && bits w 18 15 = plot then
    (true, if bits w 30 29 = 0 then onDie s p (fun x => { x with injUsed := true }) else s)
  else (false, s)

/-- The comparisons of a row: each counts, a mismatch sets CHK and its bit and raises the plot's score; whether one mismatched. -/
def compareRow (d c n : Nat) (row : TrellisRow) (s : State) : Bool × State :=
  row.lanes.foldl (fun r l =>
    let s := r.2
    let p := l.plot
    let h := laneDisagrees s d c p
    let g := (h.1 || !laneAgrees row l, h.2)
    let note : ClaimStatus := { ClaimStatus.zero with
      compared := 1, chk := g.1, mask := if g.1 then 1#12 <<< p else 0 }
    let s := onClaim g.2 d c n (fun y => y.note s.cycle note)
    (r.1 || g.1, if g.1 then addScore s (.plot (physOf s d c).1 (physOf s d c).2 p) 16 else s)) (false, s)

/-- The bytes that a row lands, by offset, from CB as it stood at the start of the cycle, and the flags it sets. -/
def rowWrites (cb : Memory) (r : TrellisRow) : List (Nat × List Byte) × ClaimStatus :=
  r.cells.foldl (fun p cell =>
    let x := accumulate32 r.int (if r.acc then natAt cb cell.1 4 else 0) cell.2
    (p.1 ++ [(cell.1, leBytes 4 x.1)], p.2.join x.2)) ([], .zero)

/-- The rows of a core that land now, with their claims in ascending order. -/
def rowsDue (x : Core) (now : Nat) : List (Nat × TrellisRow) :=
  (List.range 4).flatMap (fun n => ((x.claim n).rows.filter (fun r => r.due ≤ now)).map (fun r => (n, r)))

/-- A stream whose rows have all entered and landed completes; an MVSTREAM leaves the ACTIVE bank EMPTY, unless the
vectors of the next one stand there. -/
def finishStream (s : State) (d c n id : Nat) : State :=
  match (coreOf s d c).cmdOf id with
  | none => s
  | some m =>
    let k := (coreOf s d c).claim n
    if bits (wordOf m.params 3) 15 0 ≤ m.rows && !k.rows.any (fun r => r.cmd == id) then
      let s := if m.kind = .mvstream then onClaim s d c n (fun y =>
          { y with active := y.active.filter (fun b => !(b.vec && some b.doneAt == m.started)) }) else s
      quietClaim (finishCmd s d c m) d c n
    else s

/-- Every row of a core that lands in this cycle, over all its claims: each reads CB as it stood before the cycle; the writes of the
higher claim and of the later row are kept; the comparisons; one mismatch event at most (R216, R219, R347). -/
def landRows (s : State) (d c : Nat) : State :=
  let x := coreOf s d c
  let due := rowsDue x s.cycle
  match due with
  | [] => s
  | first :: _ =>
    let e := if due.any (fun p => p.2.acc) then coreReadError s d c 3 else (false, s)
    if e.1 then
      match x.cmdOf first.2.cmd with
      | some m => cmdFault e.2 d c m .uncorrectable 0 0
      | none => e.2
    else
      let s := onCore e.2 d c (fun y => { y with claims := y.claims.map (fun p =>
        (p.1, { p.2 with rows := p.2.rows.filter (fun r => s.cycle < r.due) })) })
      let s := due.foldl (fun s p =>
        let w := rowWrites x.cb p.2
        let s := onCore s d c (fun y => { y with cb := w.1.foldl (fun m q => writeBytes m q.1 q.2) y.cb })
        let tag := match x.cmdOf p.2.cmd with
          | some m => if m.kind = .mvstream then bits (wordOf m.params 3) 47 40 else (streamForm m).tag
          | none => 0
        addHot (onClaim s d c p.1 (fun k => k.note s.cycle w.2)) d c tag (4 * p.2.cells.length * (if p.2.acc then 2 else 1))) s
      let r := due.foldl (fun (r : Option Cmd × State) p =>
        let g := compareRow d c p.1 p.2 r.2
        (if g.1 && r.1.isNone then x.cmdOf p.2.cmd else r.1, g.2)) (none, s)
      let s := due.foldl (fun s p => finishStream s d c p.1 p.2.cmd) r.2
      match r.1 with
      | some m => cmdTrap s d c m true (trapOf .checksum)
      | none => s

/-- STREAM_ROW_LAND (R216). -/
def execStreamRowLand (d c _id : Nat) (s : State) : Out := .next (landRows s d c)

/-- MVSTREAM_COLUMN_LAND (R215, R216). -/
def execMvstreamColumnLand (d c _id : Nat) (s : State) : Out := .next (landRows s d c)

/-- RELEASE_DRAIN_END (R204): the plots are free, and the XP goes on in the next cycle. -/
def execReleaseDrainEnd (d c n : Nat) (s : State) : Out :=
  .next (if ((coreOf s d c).claim n).endsAt = some s.cycle then
    onCore (onClaim s d c n (fun k => k.freed)) d c (fun x =>
      { x with xp := { x.xp with wait := .none, ready := max x.xp.ready (s.cycle + 1) } })
  else s)

end Sys2Proof.Machine
end

