-- ==== Sys2Proof/Machine/Phase.lean ====
section
/-! DEFINITION. Phases of a task: the capture at its start and at every SWAP, the rollback, the reissue of the phase's input copies, the
reload of the banks and the restart (R196, R224, R225, R272). -/

namespace Sys2Proof.Machine

/-! ## The capture (R224) -/

/-- The byte runs of the register space that a capture keeps: the vw0 range and the keep range (R42, R49). -/
def keptRuns (x : Core) : List (Nat × Nat) :=
  let w := x.view 0
  let k := match x.task with | some t => wordOf t.desc 5 | none => 0
  [(bits w 16 0, (bits w 43 34 - 1) * 2 ^ bits w 47 44 + 8), (bits k 16 0, bits k 29 17)]

/-- The state of a phase at its start; the AP's and the XP's next group and position are equal there. -/
def Core.phaseState (x : Core) : Capture :=
  { a := x.a, ap := x.apPreds, am := x.apMasks, w := x.w, xp := x.xpPreds, xm := x.xpMasks, o := x.offsets,
    runs := (keptRuns x).map (fun r => (r.1, bytesAt x.space r.1 r.2)), pigeon := x.pigeon, ovf := x.pigeonOvf || x.landings.any (fun l => l.writes.contains .deferOvf), claims := x.claims,
    pc := x.ap.pc, pos := x.ap.pos, apLoop := x.ap.loop, xpLoop := x.xp.loop }

/-- The core with its phase captured, the phase's counts of errors at zero. -/
def Core.beginPhase (x : Core) : Core := { x with capture := some x.phaseState, phaseErrs := 0, phaseChk := 0 }

/-- The XP's writes into buffers that have not landed, landed: the engines see them (R187, R223). -/
def Core.publish (x : Core) : Core :=
  let x := x.landings.foldl (fun x l => l.writes.foldl (fun x w => match w with | .buf b o bs => putBuf x b o bs | _ => x) x) x
  { x with landings := x.landings.map (fun l => { l with writes := l.writes.filter (fun w => match w with | .buf _ _ _ => false | _ => true) }) }

/-! ## The rollback (R225, R272) -/

/-- A claim number after a rollback: its captured shape, banks and flags with BATCH CLOSED, its checksum state as found. -/
def restoredClaim (now : Claim) (was : Claim) : Claim :=
  let f := was.total
  let g := now.total
  { was with
    batch := none, rows := [], streams := false, feeding := false, draining := false, endsAt := none, port := [],
    status := { ovf := f.ovf, inv := f.inv, sat := f.sat, chk := g.chk, mask := g.mask, compared := g.compared },
    fresh := .zero, freshAt := 0 }

/-- A logged command as it is issued again: no token, no bound, from cycle t on. -/
def reissued (m : Cmd) (id t : Nat) : Cmd :=
  { m with id := id, kp := 0, waits := [], bound := none, issuedAt := t - 1, started := none, rows := 0, unit := 0, landed := 0, room := 0, fresh := 0, freshSeen := 0, freshDue := 0,
           data := [], doneAt := none, fromCourier := false, reissue := true, opid := 0, aux := [], seen := [] }

/-- A processor at the start of a phase, held until the restart. -/
def heldProc (pc pos : Nat) (loop : Option LoopRun) : ProcState :=
  { ProcState.idle with pc := pc, pos := pos, loop := loop, wait := .landing (2 ^ 64), stopped := false, group := pc }

/-- The core after the rollback's first cycle: everything queued and in flight is dropped, the latches are clear, the capture stands. -/
def Core.rolledBack (x : Core) (k : Capture) : Core :=
  { x with
    a := k.a, apPreds := k.ap, apMasks := k.am, w := k.w, xpPreds := k.xp, xpMasks := k.xm, offsets := k.o,
    space := k.runs.foldl (fun m r => writeBytes m r.1 r.2) x.space, latches := [], pigeon := k.pigeon, pigeonOvf := k.ovf,
    aq := [], xq := [], bq := [], bqKept := [], wCopies := [], tokens := [], landings := [], cmds := [], courier := .idle,
    claims := (List.range 4).map (fun n => (n, restoredClaim (x.claim n) (tget k.claims n .reset))),
    ap := heldProc k.pc k.pos k.apLoop, xp := heldProc k.pc k.pos k.xpLoop, traps := [], soon := false,
    phaseLog := [], restart := some 0 }

/-- The banks that a claim has to load again. -/
def Claim.banks (k : Claim) : List Bank := if k.held then k.active.toList ++ k.shadow.toList else []

/-- The start of a bank's reload. -/
def Bank.reload (b : Bank) (start : Nat) : Bank := { b with doneAt := start + 4 + 32 * trellisSize b.wfmt, wts := [], sums := [] }

/-- Both processors of a core go on at the start of their phase. -/
def resumePhase (s : State) (d c : Nat) : State :=
  onCore s d c (fun x => { x with
    restart := none
    ap := { x.ap with wait := .none, ready := s.cycle }
    xp := { x.xp with wait := .none, ready := s.cycle } })

/-- The reload of every captured bank starts, and the restart is set for the cycle after the last of them is complete. -/
def startReload (s : State) (d c start : Nat) : State :=
  let x := coreOf s d c
  let banks := (List.range 4).flatMap (fun n => (x.claim n).banks)
  let last := banks.foldl (fun m b => max m ((b.reload start).doneAt + 1)) start
  let s := onCore s d c (fun x => { x with
    restart := some (last + 1)
    claims := x.claims.map (fun p => (p.1, { p.2 with
      active := p.2.active.map (fun b => b.reload start), shadow := p.2.shadow.map (fun b => b.reload start) })) })
  at' s last (.phaseRestart d c)

/-- PHASE_RESTART: the reissued commands being complete, the banks load; the banks being loaded, both processors restart (R225). -/
def execPhaseRestart (d c : Nat) (s : State) : Out :=
  .next (let x := coreOf s d c
    match x.restart with
    | none => s
    | some 0 => if x.cmds.isEmpty then startReload s d c (s.cycle + 1) else s
    | some (n + 1) =>
      if s.cycle < n then s
      else
        let e := if (List.range 4).any (fun i => !(x.claim i).banks.isEmpty) then coreReadError s d c 1 else (false, s)
        if e.1 then coreTrap e.2 d c 3 (trapOf .uncorrectable) x.ap.pc x.xp.pc
        else
          resumePhase (onCore e.2 d c (fun x => { x with
            claims := x.claims.map (fun p => (p.1, { p.2 with
              active := p.2.active.map (fun b => b.filled x)
              shadow := p.2.shadow.map (fun b => b.filled x) })) })) d c)

/-- A rollback of a core's phase, from this cycle: the logged commands are issued again, one a cycle; with none the banks reload at
once. -/
def rollback (s : State) (d c : Nat) : State :=
  let x := coreOf s d c
  match x.capture with
  | none => s
  | some k =>
    let s := onCore s d c (fun x => x.rolledBack k)
    if x.cmdLog.isEmpty then startReload s d c s.cycle
    else
      let n := s.seq
      let again := x.cmdLog.mapIdx (fun i m => reissued m (n + i) (s.cycle + i))
      let s := onCore { s with seq := n + again.length } d c (fun x => { x with cmds := again })
      again.foldl (fun s m => at' s (m.issuedAt + 1) (.engineCommandStart d c m.id)) s

end Sys2Proof.Machine
end

