-- ==== Sys2Proof/Machine/Sched.lean ====
section
/-! DEFINITION. The die scheduler: the ready order, placement, pre-emption, stealing, preload, shadow fills, the start of a task, replay
and the end of a discard (R40, R49, R242, R243, R254, R255, R260 to R274). -/

namespace Sys2Proof.Machine

/-! ## The program a task names (R48 to R50) -/

/-- A record's task as its core will run it: what is read through its handle, its image's header and its descriptor. -/
def programOf (s : State) (w : Nat) (e : Entry) (shard : Nat) : Except Peek Running :=
  let asid := recAsid e.recd
  if let some va := codedIn s asid (slotRun (bits (wordOf e.recd 1) 31 0)) then .error (.trap .format 0 va)
  else match resolveHandle s asid (bits (wordOf e.recd 1) 31 0) with
  | .error c => (match absentIn s asid (slotRun (bits (wordOf e.recd 1) 31 0)) with
    | some l => .error (.absent l)
    | none => .error (.trap c 0 (bits (wordOf e.recd 1) 31 0)))
  | .ok h =>
    let image := bits (wordOf h 0) 55 0
    match peek s asid image 8, peek s asid (image + bits (wordOf e.recd 1) 63 32) 16 with
    | .words hd, .words desc =>
      let l := launchOf s e.launch
      .ok { wdie := w, serial := e.serial, shard := shard, shards := recShards e.recd, asid := asid,
            vt := BitVec.ofNat 12 (recVint e.recd), image := image, textOff := bits (wordOf hd 1) 31 0,
            textSize := bits (wordOf hd 1) 63 32, loopOff := bits (wordOf hd 3) 31 0, loopCnt := bits (wordOf hd 3) 63 32,
            seed := match l with | some l => l.seed | none => 0,
            strict := bit (wordOf e.recd 0) 8 || (match l with | some l => l.strict | none => false),
            committed := false, desc := desc, launch := e.launch, phys := 0 }
    | .words _, x => .error x
    | x, _ => .error x

/-- What a descriptor breaks: a view word (R42, R49), or a phase range that passes its buffer (R432). SLIP, KEEP and the fields that are to
be zero are taken as they stand (entry 130). -/
def descriptorFault (desc : List Word) : Option Cause :=
  if (List.range 4).any (fun v => wordOf desc (1 + v) != 0 && !viewOk v (wordOf desc (1 + v))) then some .viewRange
  else if (List.range 3).any (fun i =>
      let w := wordOf desc (6 + i)
      bits w 47 24 ≠ 0 && bufBytes (i + 1) < bits w 23 0 + 2 * bits w 47 24) then some .reservedField
  else none

/-- The levels of a spread task's loop-table entry. -/
def spreadLevels (s : State) (w : Nat) (e : Entry) : Option (List LoopLevel) :=
  match programOf s w e 0 with
  | .ok t => (loopEntry s t 0).map (fun p => p.1)
  | .error _ => none

/-- The offset from its window's die of the die that runs a shard: the digits of the levels spatial over dies (R267). -/
def dieDigits : Nat → List LoopLevel → Nat
  | _, [] => 0
  | sh, l :: r =>
    if l.kind = 0 then dieDigits sh r
    else if l.kind = 2 then sh % l.trip + l.trip * dieDigits (sh / l.trip) r
    else dieDigits (sh / l.trip) r

/-- Whether the shards of a spread task can be placed at all (R233, R267). -/
def spreadOk (e : Entry) (ls : List LoopLevel) : Bool :=
  spatialShards ls = recShards e.recd && (ls.foldl (fun a l => if l.kind = 2 then a * l.trip else a) 1) ≤ 8

/-- The die that runs a shard of an entry. -/
def shardDie (s : State) (w : Nat) (e : Entry) (i : Nat) : Nat :=
  if !recSpread e.recd then w
  else match spreadLevels s w e with
    | some ls => if spreadOk e ls then (w + dieDigits i ls) % 8 else w
    | none => w

/-! ## The ready order (R254, R255, R268) -/

/-- A task's effective priority. -/
def effective (now : Nat) (e : Entry) : Nat := min 7 (recPri e.recd + (now - e.readyAt) / 2 ^ 20)

/-- What may be placed on a die: the window's die, the task, or the first READY member of a gang, the shard, the effective priority. -/
structure Candidate where
  wdie  : Nat
  entry : Entry
  shard : Nat
  rank  : Nat
  deriving DecidableEq, Repr

/-- The members of an entry's gang that wait to be placed. -/
def readyMembers (s : State) (d : Nat) (e : Entry) : List Entry := (gangOf s d e).filter (fun m => m.state == .ready && m.pending.isNone)

/-- Whether a gang is READY: every member that is still to be placed is (R268, entry 131). -/
def gangReady (s : State) (d : Nat) (e : Entry) : Bool :=
  e.gang.isNone || ((gangOf s d e).all (fun m => m.gone || m.state == .ready) && !(readyMembers s d e).isEmpty)

/-- The effective priority of a task: the highest among its gang's members that have not ended (R268). -/
def rankOf (s : State) (d : Nat) (e : Entry) : Nat :=
  ((gangOf s d e).filter (fun m => !m.gone)).foldl (fun m x => max m (effective s.cycle x)) 0

/-- The first shard of an entry that is to be placed on a die. -/
def openShard (s : State) (w d : Nat) (e : Entry) : Option Nat :=
  let open_ : Bool := e.pending.isNone && !recFold e.recd
    && (e.state == .ready || (recSpread e.recd && (e.state == .dispatched || e.state == .running || e.state == .committed)))
  if !open_ then none
  else (List.range e.shards.length).find? (fun i => match e.shards[i]? with
    | some sh => sh.state == .waiting && decide (sh.notBefore ≤ s.cycle) && shardDie s w e i = d
    | none => false)

/-- The candidates of a window for a die. -/
def candidatesOf (s : State) (d w : Nat) : List Candidate :=
  (dieOf s w).entries.filterMap (fun e =>
    if e.gang.isSome && (((readyMembers s w e).head?.map (fun m => m.serial)) ≠ some e.serial || !gangReady s w e) then none
    else (openShard s w d e).map (fun i => { wdie := w, entry := e, shard := i, rank := rankOf s w e }))

/-- Whether one candidate stands before another: the higher effective priority, then the lower serial, shard and window. -/
def Candidate.before (a b : Candidate) : Bool :=
  a.rank > b.rank || (a.rank = b.rank && (a.entry.lead < b.entry.lead || (a.entry.lead = b.entry.lead &&
    (a.shard < b.shard || (a.shard = b.shard && a.wdie ≤ b.wdie)))))

/-- A candidate put into its place. -/
def insertCandidate (x : Candidate) : List Candidate → List Candidate
  | [] => [x]
  | y :: r => if x.before y then x :: y :: r else y :: insertCandidate x r

/-- The ready order of a die: all candidates, without the single tasks that a gang's fairness holds back (R268). -/
def readyOrder (s : State) (d : Nat) : List Candidate :=
  let all := ((List.range 8).flatMap (candidatesOf s d)).foldl (fun acc x => insertCandidate x acc) []
  let bar := all.foldl (fun m x => if x.entry.gang.isSome && (dieOf s x.wdie).gangHold.contains x.entry.lead then max m x.rank else m) 0
  all.filter (fun x => x.entry.gang.isSome || bar ≤ x.rank)

/-! ## Cores (R264, R265, R404) -/

/-- Every shard DISPATCHED to cores of a die: window, serial, shard index, shard. -/
def dispatchedOn (s : State) (d : Nat) : List (Nat × Nat × Nat × Shard) :=
  (List.range 8).flatMap (fun w => (dieOf s w).entries.flatMap (fun e =>
    ((List.range e.shards.length).zip e.shards).filterMap (fun p =>
      if e.pending.isNone && p.2.state == .dispatched && p.2.die = d then some (w, e.serial, p.1, p.2) else none)))

/-- Whether no task runs on a core, or, where such cores count, it is soon free. -/
def coreLoose (s : State) (d c : Nat) (soon : Bool) : Bool :=
  let x := coreOf s d c
  x.task.isNone || x.discardAt.isSome || (soon && x.soon)

/-- Whether a core is idle, or soon free, and nothing is DISPATCHED to it; soon says whether a soon-free core counts. -/
def coreOpen (s : State) (d c : Nat) (soon : Bool) : Bool :=
  coreLoose s d c soon && !(dispatchedOn s d).any (fun p => p.2.2.2.core = c)

/-- The key under which a task or a gang keeps cores. -/
def gangKey (x : Candidate) : Nat := 8 * x.entry.lead + x.wdie

/-- The key of the gang that a core is kept for, while that gang still waits to be placed (R271). -/
def keptFor (s : State) (d c : Nat) : Option Nat :=
  (tfind (dieOf s d).reserved c).filter (fun k => (dieOf s (k % 8)).entries.any (fun e =>
    e.gang.isSome && e.lead = k / 8 && e.state == .ready && e.pending.isNone))

/-- Whether a core is kept for a gang that stands before a candidate in the ready order; a keep does not bind a task that stands before the gang
(R254, R277). -/
def keptFrom (s : State) (d c : Nat) (x : Candidate) : Bool :=
  match keptFor s d c with
  | none => false
  | some k => k ≠ gangKey x && (match entryOf s (k % 8) (k / 8) with
    | some g => let r := rankOf s (k % 8) g; x.rank < r || (r = x.rank && k ≤ gangKey x)
    | none => false)

/-- The lowest open cores for n members of a candidate, on distinct physical cores, that are not kept for a gang before it; one that is kept for
this one goes to it though another task is DISPATCHED there (R271). -/
def openCores (s : State) (d n : Nat) (x : Candidate) : List Nat → List Nat → List Nat
  | [], got => got
  | c :: rest, got =>
    if n ≤ got.length then got
    else
      let free := if keptFor s d c = some (gangKey x) then coreLoose s d c true else !keptFrom s d c x && coreOpen s d c true
      let twin := got.any (fun g => physPlace s d g = physPlace s d c)
      openCores s d n x rest (if free && !twin then got ++ [c] else got)

/-! ## Replay, pre-emption (R260, R267, R268, R271, R273) -/

/-- A task back in REPLAY: its shards stopped, its shadows to be filled again; READY when the discard is complete. -/
def returnTask (s : State) (w serial : Nat) : State :=
  match entryOf s w serial with
  | none => s
  | some e =>
    let s := unfillShadows (stopShards s w serial) w serial
    let s := onEntry s w serial (fun e => { e with state := .replay })
    if e.shards.any (fun sh => sh.state == .running) then s
    else at' s (s.cycle + 16) (.discardComplete w serial 0)

/-- A member of a gang replayed with it: one that is placed returns, and REPLAYS counts for each that is not COMMITTED (R268, entry
131), of one that is placed when its discard is complete (R260). -/
def replayMember (s : State) (w : Nat) (m : Entry) : State :=
  if m.gone then s
  else
    if m.state == .dispatched || m.state == .running then returnTask (onEntry s w m.serial (fun e => { e with recount := true })) w m.serial
    else onEntry s w m.serial (fun e => { e with replays := e.replays + 1 })

/-- A task that is replayed, with its gang, or those of its shards that are named when it is spread; FAULTED at the launch's limit (R267,
R268, R273). -/
def replayShards (s : State) (w serial : Nat) (which : Nat → Bool) (t : TrapInfo) (apc xpc mark : Nat) : State :=
  match entryOf s w serial with
  | none => s
  | some e =>
    let limit := match launchOf s e.launch with | some l => l.replay | none => 0
    if limit ≤ e.replays then faultTask s w serial t apc xpc mark
    else if recSpread e.recd then
      (((List.range e.shards.length).zip e.shards).filter (fun p => which p.1)).foldl (fun s p => stopShard s w e p.1 p.2)
        (onEntry s w serial (fun e => { e with replays := e.replays + 1 }))
    else (gangOf s w e).foldl (fun s m => replayMember s w m) s

/-- A task replayed for a fault of one shard. -/
def replayTask (s : State) (w serial shard : Nat) (t : TrapInfo) (apc xpc mark : Nat) : State :=
  replayShards s w serial (fun i => i = shard) t apc xpc mark

/-- A member of a gang pre-empted with it: a DISPATCHED one returns to READY at once. -/
def preemptMember (s : State) (w : Nat) (m : Entry) : State :=
  if m.pending.isSome then s
  else if m.state == .dispatched then makeReady (unfillShadows (stopShards s w m.serial) w m.serial) w m.serial
  else if m.state == .running then returnTask s w m.serial
  else s

/-- A pre-empted shard of a spread task alone, or a task with its gang. -/
def preemptTask (s : State) (w serial shard : Nat) : State :=
  match entryOf s w serial with
  | none => s
  | some e =>
    if recSpread e.recd then
      match e.shards[shard]? with
      | some sh => stopShard s w e shard sh
      | none => s
    else (gangOf s w e).foldl (fun s m => preemptMember s w m) s

/-- Whether a task, or a member of its gang, has committed. -/
def hasCommitted (s : State) (w : Nat) (e : Entry) : Bool :=
  (gangOf s w e).any (fun m => m.state == .committed || m.state == .halted || m.shards.any (fun sh => sh.committed))

/-- The tasks of a die that a candidate may pre-empt: not committed, nor a member of their gang, of lower effective priority, and on no core that is
kept for the candidate already or for a gang before it (R268, R271). -/
def victims (s : State) (d : Nat) (x : Candidate) : List (Nat × Entry × Nat × Shard) :=
  (List.range 8).flatMap (fun w => (dieOf s w).entries.flatMap (fun e =>
    ((List.range e.shards.length).zip e.shards).filterMap (fun p =>
      let held := keptFor s d p.2.core = some (gangKey x) || keptFrom s d p.2.core x
      if e.pending.isNone && (e.state == .dispatched || e.state == .running) && !hasCommitted s w e
          && (p.2.state == .dispatched || p.2.state == .running) && p.2.die = d && rankOf s w e < x.rank && !held
      then some (w, e, p.1, p.2) else none)))

/-- The victim: the lowest effective priority, then the highest serial. -/
def chooseVictim (s : State) : List (Nat × Entry × Nat × Shard) → Option (Nat × Entry × Nat × Shard)
  | [] => none
  | v :: r => match chooseVictim s r with
    | none => some v
    | some u =>
      let a := rankOf s v.1 v.2.1
      let b := rankOf s u.1 u.2.1
      if a < b || (a = b && u.2.1.serial ≤ v.2.1.serial) then some v else some u

/-! ## Shadows (R242, R243) -/

/-- Shadows granted for the RW regions of a task that have none, but those that cover a sealed page (R147, R244); none when the area cannot hold
them. -/
def grantAll (s : State) (w : Nat) (e : Entry) : List Nat → Option State
  | [] => some s
  | i :: rest =>
    let b := recBox e.recd i
    if b.kind ≠ 3 || boxSealed s (recAsid e.recd) b || ((entryOf s w e.serial).getD e).shadows.any (fun sh => sh.region = i) then grantAll s w e rest
    else match grantShadow s w b i false with
      | none => none
      | some (sh, s) => grantAll (onEntry s w e.serial (fun x => { x with shadows := x.shadows ++ [sh] })) w e rest

/-- The byte offsets of a box's elements from its address. -/
def elementOffsets (b : Box) : List Nat :=
  b.dims.foldl (fun acc d => acc.flatMap (fun o => (List.range d.1).map (fun i => o + i * d.2))) [0]

/-- The first element byte of a region that a copier cannot reach: unmapped, homed on another device, or not writable (R242). -/
def fillFault (s : State) (e : Entry) (sh : TaskShadow) : Option Nat :=
  let b := recBox e.recd sh.region
  let bad (va : Nat) : Bool := match walk s (recAsid e.recd) va with
    | .ok l => l.home = 2 || !l.wr
    | .error _ => true
  (elementOffsets b).findSome? (fun o => (List.range b.elem).findSome? (fun i =>
    if (i = 0 || (b.va + o + i) % 4096 = 0) && bad (b.va + o + i) then some (b.va + o + i) else none))

/-- The path latency from a die to the home of an address. -/
def homeLat (s : State) (d asid va : Nat) : Nat :=
  match walk s asid va with
  | .ok l => if l.res then pathLat s d (l.frame + (va - l.va)) else 420
  | .error _ => 420

/-- The cycles of a fill or copy-back of some bytes of a shadow (R242). -/
def shadowTime (s : State) (w : Nat) (e : Entry) (bytes : TaskShadow → Nat) (sh : TaskShadow) : Nat :=
  let lat := sh.blocks.foldl (fun m b => max m (homeLat s w (recAsid e.recd) b.1)) 0
  lat + ceilDiv (bytes sh) 256 + 8 + 24

/-- The cycles of the fills of a task's shadows: whole blocks. -/
def fillTime (s : State) (w : Nat) (e : Entry) : Nat :=
  e.shadows.foldl (fun m sh => max m (shadowTime s w e (fun sh => 4096 * sh.blocks.length) sh)) 0

/-- The cycles of the copy-back of a task's shadows: the bytes of the regions' elements (R243). -/
def copyBackTime (s : State) (w : Nat) (e : Entry) : Nat :=
  e.shadows.foldl (fun m sh => max m (shadowTime s w e (fun sh => let b := recBox e.recd sh.region; (elementOffsets b).length * b.elem) sh)) 0

/-! ## Start (R40, R265) -/

/-- The core as a task finds it at its start (R40). -/
def taskCore (x : Core) (t : Running) (e : Entry) (now : Nat) : Core :=
  let r := e.recd
  let regs : List (Nat × Word) :=
    [(1, wordOf r 5), (2, wordOf r 6), (3, wordOf r 7), (4, BitVec.ofNat 64 t.shard), (5, BitVec.ofNat 64 t.shards),
     (6, BitVec.ofNat 64 t.serial)]
  let pc := t.image + t.textOff + bits (wordOf t.desc 0) 31 0
  let proc : ProcState := { ProcState.idle with pc := pc, ready := now, stopped := false, group := pc }
  let x : Core := { x.cleared with
    task := some t, a := regs.foldl (fun a p => tset a p.1 p.2 0) [],
    views := (List.range 4).filterMap (fun v => if wordOf t.desc (1 + v) = 0 then none else some (v, wordOf t.desc (1 + v))),
    slip := bits (wordOf t.desc 0) 44 32, ap := proc, xp := proc }
  x.beginPhase

/-- The physical core that serves a logical one is free: no task runs there and none is being discarded. -/
def physicalFree (s : State) (d c : Nat) : Bool :=
  let p := physPlace s d c
  s.cores.all (fun k => match k.2.task with | some t => t.phys ≠ coreKey p.1 p.2 | none => true) && (coreOf s d c).task.isNone

/-- Whether the logical core of a DISPATCHED shard is kept for another gang: the shard starts there after it (R271). -/
def keptElsewhere (s : State) (w serial : Nat) (sh : Shard) : Bool :=
  match keptFor s sh.die sh.core, entryOf s w serial with
  | some k, some e => k != 8 * e.lead + w
  | _, _ => false

/-- The shard that a physical core runs next, of those whose logical core runs nothing: one that it was pre-empted for, else the one placed first on its
logical cores (R271, R404). -/
def nextOn (s : State) (d c : Nat) : Option (Nat × Nat × Nat × Shard) :=
  let here := physPlace s d c
  (((List.range 8).flatMap (dispatchedOn s)).filter (fun p => physPlace s p.2.2.2.die p.2.2.2.core = here
      && (coreOf s p.2.2.2.die p.2.2.2.core).task.isNone && !keptElsewhere s p.1 p.2.1 p.2.2.2)).foldl (fun best p =>
    match best with
    | none => some p
    | some b => if (p.2.2.2.first && !b.2.2.2.first) || (p.2.2.2.first == b.2.2.2.first && p.2.2.2.placedAt < b.2.2.2.placedAt) then some p
      else some b) none

/-- The start of a core's next task set, when the core is free and the task's preload and fills are complete (R265). -/
def tryStart (s : State) (d c : Nat) : State :=
  if !physicalFree s d c then s
  else match nextOn s d c with
    | none => s
    | some (w, serial, i, sh) => match entryOf s w serial with
      | none => s
      | some e =>
        if sh.preloaded && sh.startAt.isNone && e.shadows.all (fun x => x.filled) then
          at' (onEntry s w serial (fun e => { e with shards := e.shards.mapIdx (fun j y =>
            if j = i then { y with startAt := some (s.cycle + 4) } else y) })) (s.cycle + 4) (.taskStart w serial i)
        else s

/-- Every core that a task's shards wait for looks again. -/
def tryStarts (s : State) (w serial : Nat) : State :=
  match entryOf s w serial with
  | none => s
  | some e => e.shards.foldl (fun s sh => if sh.state == .dispatched then tryStart s sh.die sh.core else s) s

/-! ## Placement (R264, R265, R268) -/

/-- The cycle in which a preload that starts in a cycle is complete (R265). -/
def preloadDue (s : State) (d : Nat) (e : Entry) (start : Nat) : Nat :=
  let entry := match resolveHandle s (recAsid e.recd) (bits (wordOf e.recd 1) 31 0) with
    | .ok h => bits (wordOf h 0) 55 0 + bits (wordOf e.recd 1) 63 32
    | .error _ => 0
  start + homeLat s d (recAsid e.recd) entry + 24

/-- A shard placed on a core: the task is DISPATCHED, its preload and its fills start. -/
def putShard (s : State) (w serial i d c : Nat) : State :=
  match entryOf s w serial with
  | none => s
  | some e =>
    let kept := (tfind (dieOf s d).reserved c).isSome
    let s := onEntry s w serial (fun e =>
      { e with state := if e.state == .ready then .dispatched else e.state,
               shards := e.shards.mapIdx (fun j y => if j = i then
                 { y with state := .dispatched, die := d, core := c, placedAt := s.cycle, startAt := none, preloaded := false, first := kept }
                 else y) })
    let s := onDie s d (fun x => { x with reserved := tdel x.reserved c })
    match e.shadows.findSome? (fun sh => if sh.filled then none else fillFault s e sh) with
    | some va => faultTask s w serial (trapAt .prot va) 0 0 0
    | none =>
      let s := at' s (preloadDue s d e s.cycle) (.preloadComplete w serial i)
      if e.shadows.all (fun sh => sh.filled) then s else at' s (s.cycle + fillTime s w e) (.shadowFillComplete w serial)

/-- The trap of the read of a spread task's loop-table entry at its placement (R82, R267). -/
def spreadTrap (s : State) (x : Candidate) : Option TrapInfo :=
  if !recSpread x.entry.recd then none
  else match programOf s x.wdie x.entry 0 with
    | .ok t => loopTrap s t 0
    | .error _ => none

/-- A spread task whose loop-table entry cannot place its shards (R267). -/
def spreadBroken (s : State) (x : Candidate) : Bool :=
  recSpread x.entry.recd && (match spreadLevels s x.wdie x.entry with
    | some ls => !spreadOk x.entry ls
    | none => (match programOf s x.wdie x.entry 0 with | .ok _ => true | .error _ => false))

/-- The physical cores in service that serve a die. -/
def coresInService (s : State) (d : Nat) : Nat := ((List.range 32).filter (fun p => !coreOut s (physDie s d) p)).length

/-- The page that a spread task's placement waits for: of its image's header, its descriptor or its loop-table entry, which say on which die
each shard runs (R267). -/
def spreadAbsent (s : State) (x : Candidate) : Option Leaf :=
  if !recSpread x.entry.recd then none
  else match programOf s x.wdie x.entry 0 with
    | .error (.absent l) => some l
    | .error _ => none
    | .ok t => match peek s t.asid (t.image + t.loopOff + 384 * bits (wordOf t.desc 9) 63 0) 48 with
      | .absent l => some l
      | _ => none

/-- The members of a candidate's gang that are to be placed, or the task alone. -/
def placedMembers (s : State) (x : Candidate) : List Entry := if x.entry.gang.isSome then readyMembers s x.wdie x.entry else [x.entry]

/-- Whether a candidate needs shadow space that it does not hold. -/
def needsSpace (s : State) (x : Candidate) : Bool :=
  (placedMembers s x).any (fun m => (List.range 6).any (fun i =>
    (recBox m.recd i).kind = 3 && !boxSealed s (recAsid m.recd) (recBox m.recd i) && !m.shadows.any (fun sh => sh.region = i)))

/-- A candidate placed on given cores: its shadows granted first; none when it has to stay READY without them. -/
def placeOn (s : State) (d : Nat) (x : Candidate) (cores : List Nat) : Option State :=
  let members := placedMembers s x
  let granted := members.foldl (fun (r : Option State) m => match r with
    | some s => grantAll s x.wdie m (List.range 6)
    | none => none) (some s)
  match granted with
  | none => none
  | some s =>
    let s := onDie s x.wdie (fun y => { y with gangHold := y.gangHold.filter (fun k => k != x.entry.lead) })
    let s := (members.zip cores).foldl (fun s p =>
      putShard s x.wdie p.1.serial (if p.1.serial = x.entry.serial then x.shard else 0) d p.2) s
    some (onDie s d (fun y => { y with reserved := y.reserved.filter (fun k => k.2 != gangKey x) }))

/-- How an attempt to place a candidate ends: it is placed, or ended in place of that; it waits for a page; no core is open, or no shadow
space is to be had. -/
inductive Placed where
  | done (s : State)
  | waits (s : State)
  | noCore
  | noSpace

/-- A candidate placed on the lowest open cores. -/
def placeCandidate (s : State) (d : Nat) (x : Candidate) : Placed :=
  let members := placedMembers s x
  let n := members.length
  let ended (t : TrapInfo) : State :=
    faultTask (onEntry s x.wdie x.entry.serial (fun e => { e with state := if e.state == .ready then .dispatched else e.state }))
      x.wdie x.entry.serial t 0 0 0
  match spreadAbsent s x with
  | some l =>
    let asid := recAsid x.entry.recd
    let who : Waiter := .shard x.wdie x.entry.serial 0
    if pageFailed s asid l.va who then .done (ended (trapAt .prot l.va)) else .waits (requestPage s asid 0 false l (some who))
  | none =>
    if let some t := spreadTrap s x then .done (ended t)
    else if spreadBroken s x then .done (ended (trapOf .reservedField))
    else if 1 < n && coresInService s d < n then
      .done (members.foldl (fun s m => faultTask s x.wdie m.serial { trapOf .none with error := 0x3001 } 0 0 0) s)
    else
      let cores := openCores s d n x (List.range 32) []
      if cores.length < n then .noCore else match placeOn s d x cores with | some t => .done t | none => .noSpace

/-- The first candidate of an order that can be placed, placed; the head pre-empts when it finds no core (R271). After one that has to
stay READY for want of shadow space, none of its window that needs some is placed before it (R243, R255). -/
def placeFirst (s : State) (d : Nat) (head : Bool) (dry : List Nat) : List Candidate → State
  | [] => s
  | x :: rest =>
    if dry.contains x.wdie && needsSpace s x then placeFirst s d false dry rest
    else match placeCandidate s d x with
    | .done t => t
    | .waits t => placeFirst t d false dry rest
    | .noSpace => placeFirst s d false (x.wdie :: dry) rest
    | .noCore => match (if head then chooseVictim s (victims s d x) else none) with
      | some v =>
        let t := preemptTask s v.1 v.2.1.serial v.2.2.1
        let u := onDie t d (fun y => { y with reserved := tput y.reserved v.2.2.2.core (gangKey x) })
        if x.entry.gang.isSome then u else (placeOn u d x [v.2.2.2.core]).getD t
      | none => placeFirst s d false dry rest

/-- Whether dispatch is held on a die (R14, R117, R430). -/
def dispatchHeld (s : State) (d : Nat) : Bool := (dieOf s d).holdDispatch || s.powerHold || s.tempHold

/-- What a die may place: during a checkpoint only what is left of COMMITTED tasks, which run to their end (R418). -/
def placeable (s : State) (d : Nat) : List Candidate :=
  if s.ckpt.isSome then (readyOrder s d).filter (fun x => x.entry.state == .committed) else readyOrder s d

/-- The cores of a die that were kept for a gang which waits no more are kept no more: what is DISPATCHED there starts. -/
def dropKeeps (s : State) (d : Nat) : State :=
  (dieOf s d).reserved.foldl (fun s p =>
    if (keptFor s d p.1).isNone then tryStart (onDie s d (fun x => { x with reserved := tdel x.reserved p.1 })) d p.1 else s) s

/-- DISPATCH_PLACE: the first task of the ready order that can be placed is placed; one placement a cycle (R264, R271), also of
each of two logical dies on one physical die (entry 141). -/
def execDispatchPlace (d : Nat) (s : State) : Out :=
  .next (let s := dropKeeps s d
    if dispatchHeld s d then s else placeFirst s d true [] (placeable s d))

/-- GANG_FAIRNESS_TIMEOUT: a gang READY for 2^20 cycles holds back single tasks of lower effective priority (R268). -/
def execGangFairnessTimeout (d serial : Nat) (s : State) : Out :=
  .next (match (dieOf s d).entries.find? (fun e => e.gang.isSome && e.lead = serial && e.state == .ready && e.pending.isNone) with
  | none => s
  | some e =>
    if gangReady s d e && (match e.gangReady with | some t => decide (t + 2 ^ 20 ≤ s.cycle) | none => false)
        && !(dieOf s d).gangHold.contains serial then
      onDie s d (fun x => { x with gangHold := x.gangHold ++ [serial] })
    else s)

/-! ## Stealing (R24, R274) -/

/-- The state as it was before the placements and steals of this cycle. -/
def beforePlacing (s : State) : State :=
  let fresh (sh : Shard) : Bool := sh.state == .dispatched && sh.placedAt = s.cycle
  { s with dies := s.dies.map (fun x => (x.1, { x.2 with entries := x.2.entries.map (fun e =>
      { e with state := if e.state == .dispatched && e.shards.all (fun sh => fresh sh || sh.state == .waiting) then .ready else e.state,
               shards := e.shards.map (fun sh => if fresh sh then { sh with state := .waiting } else sh) }) })) }

/-- The tasks READY in a window. -/
def readyCount (s : State) (w : Nat) : Nat :=
  ((dieOf s w).entries.filter (fun e => e.state == .ready && e.pending.isNone && !recFold e.recd)).length

/-- The die that a thief robs: the most READY tasks, the lower die among equals. -/
def stealFrom (s : State) (d : Nat) : Option Nat :=
  let ws := (List.range 8).filter (fun w => w ≠ d && readyCount s w ≠ 0)
  ws.foldl (fun best w => match best with
    | none => some w
    | some b => if readyCount s b < readyCount s w then some w else some b) none

/-- Whether a candidate may be stolen: no gang, no shard of a task with die levels. -/
def stealable (s : State) (x : Candidate) : Bool :=
  x.entry.gang.isNone && (!recSpread x.entry.recd || (match spreadLevels s x.wdie x.entry with
    | some ls => spreadOk x.entry ls && ls.all (fun l => l.kind ≠ 2)
    | none => false))

/-- What a die with no READY task, and nothing to place, would steal: the head of its victim's ready order. -/
def robbery (s : State) (d : Nat) : Option Candidate :=
  if readyCount s d ≠ 0 || !(readyOrder s d).isEmpty then none
  else match stealFrom s d with
    | none => none
    | some w => (readyOrder s w).head?.filter (fun x => x.wdie = w && stealable s x && spreadAbsent s x == none)

/-- STEAL: a die takes the head of another's ready order onto its idle core; it stays an entry of its window. The thieves of a cycle choose
alike, before any placement of the cycle: the victim that places the task, or a lower die that takes it, wins, and the thief tries again
in the next cycle (R24, R274). -/
def execSteal (d : Nat) (s : State) : Out :=
  .next (if dispatchHeld s d || s.ckpt.isSome then s
  else match robbery (beforePlacing s) d,
      (List.range 32).find? (fun c => coreOpen s d c false && (keptFor s d c).isNone) with
  | some x, some c =>
    let waits := match entryOf s x.wdie x.entry.serial with
      | some e => e.pending.isNone && (e.shards[x.shard]?.map (fun sh => sh.state)) == some .waiting
      | none => false
    if dispatchHeld s x.wdie || !waits then s else (placeOn s d x [c]).getD s
  | _, _ => s)

/-! ## Preload and fill (R242, R243, R265) -/

/-- What a preload reads: the handle's entry, the image's header, the descriptor, the task's entry of the loop table where it has one, and
the first 4 KiB of its text (R265). -/
def preloadRuns (e : Entry) (t : Running) : List (Nat × Nat) :=
  let entry := bits (wordOf t.desc 0) 31 0
  slotRun (bits (wordOf e.recd 1) 31 0) ++ [(t.image, 64), (t.image + bits (wordOf e.recd 1) 63 32, 128)] ++
  (if bits (wordOf t.desc 9) 63 0 < t.loopCnt then [(t.image + t.loopOff + 384 * bits (wordOf t.desc 9) 63 0, 384)] else []) ++
  [(t.image + t.textOff + entry, min 4096 (t.textSize - entry))]

/-- A preload that waits for a page, or meets PROT when the pager has answered that it cannot be made resident (R296). -/
def preloadWait (s : State) (w serial i asid : Nat) (l : Leaf) : State :=
  if pageFailed s asid l.va (.shard w serial i) then faultTask s w serial (trapAt .prot l.va) 0 0 0
  else at' (requestPage s asid 0 false l (some (.shard w serial i))) (s.cycle + 64) (.preloadComplete w serial i)

/-- PRELOAD_COMPLETE: the handle, the descriptor, the loop-table entry and the first text have been read; what they break ends the task
(R260, R265); an error in what is read replays it, or ends it once it is COMMITTED (R226, R273). -/
def execPreloadComplete (w serial i : Nat) (s : State) : Out :=
  .next (match entryOf s w serial with
  | none => s
  | some e => match e.shards[i]? with
    | none => s
    | some sh =>
      if sh.state != .dispatched || sh.preloaded || e.pending.isSome || s.cycle < preloadDue s sh.die e sh.placedAt then s
      else match programOf s w e i with
        | .error (.absent l) => preloadWait s w serial i (recAsid e.recd) l
        | .error (.trap c err va) =>
          if c == .uncorrectable && e.state != .committed then replayTask s w serial i (trapOf c) 0 0 0
          else faultTask s w serial { trapAt c va with error := err } 0 0 0
        | .error (.words _) => s
        | .ok t => match absentIn s t.asid (preloadRuns e t), descriptorFault t.desc with
          | _, some c => faultTask s w serial (trapOf c) 0 0 0
          | some l, none => preloadWait s w serial i t.asid l
          | none, none =>
            let r := runsFound t.asid (preloadRuns e t) s
            if r.1 == .rebuilt then at' r.2 (s.cycle + rebuildDelay) (.preloadComplete w serial i)
            else if r.1 == .uncorrectable then
              (if e.state == .committed then faultTask r.2 w serial (trapOf .uncorrectable) 0 0 0
              else replayTask r.2 w serial i (trapOf .uncorrectable) 0 0 0)
            else
              let s := onEntry r.2 w serial (fun e => { e with shards := e.shards.mapIdx (fun j y =>
                if j = i then { y with preloaded := true } else y) })
              tryStart s sh.die sh.core)

/-- What stops the copier at a byte: a trap, a page that is not resident, a cell still being made or data that its bank rebuilds (R285), or no
cell free. -/
inductive CopyStop where
  | fault (c : Cause) (va : Nat)
  | absent (l : Leaf)
  | wait (until_ : Nat)
  | space (l : Leaf) (va : Nat)
  deriving DecidableEq, Repr

/-- Where the copier finds an address in a record's vintage, whose cell is made where there is none; it shares the die's TLB (R242, R292,
entry 115). -/
def copierPlace (s : State) (asid vint va : Nat) (l : Leaf) (frame fva : Nat) (noCell : Bool) : (Except CopyStop Nat) × State :=
  if noCell && l.vintaged && vint ≠ 0 then
    match ensureCell s asid vint l va s.cycle false with
    | none => (.error (.space l va), s)
    | some (cell, t) =>
      let pa := cell + (va - (pieceOf l va).1)
      (if cellReadyAt t pa ≠ 0 then .error (.wait (cellReadyAt t pa)) else .ok pa, t)
  else (.ok (frame + (va - fva)), s)

/-- A copier held up: it is tried again when what it waits for has come; what is left is a trap. -/
def copierWaits (s : State) (d serial asid vint : Nat) (write : Bool) (again : Instr) : CopyStop → Except (Cause × Nat) State
  | .fault c va => .error (c, va)
  | .absent l =>
    if pageFailed s asid l.va (.fill d serial) then .error (.prot, l.va)
    else .ok (at' (requestPage s asid vint write l (some (.fill d serial))) (s.cycle + 64) again)
  | .wait t => .ok (at' s (max (s.cycle + 1) t) again)
  | .space l va =>
    .ok (if s.cellWaits.any (fun c => c.waiter == .fill d serial) then s
      else (waitForCell s s.cycle (cellSource asid l) asid vint va (.fill d serial)).2)

/-- One block of a shadow filled from its home: the state, and what holds it up. -/
def fillBlock (s : State) (w : Nat) (e : Entry) (b : Nat × Nat) : State × Option CopyStop :=
  let asid := recAsid e.recd
  let vint := recVint e.recd
  let r := dieTranslate s w asid vint b.1
  match r.1 with
  | .trap .uncorrectable _ => (r.2, some (.fault .uncorrectable b.1))
  | .trap _ _ => (storeBytes r.2 (poolBase w + b.2) (List.replicate 4096 0), none)
  | .absent l _ => (r.2, some (.absent l))
  | .page l frame fva noCell _ =>
    match copierPlace r.2 asid vint b.1 l frame fva noCell with
    | (.error x, s) => (s, some x)
    | (.ok pa, s) =>
      let h := readHold s (.copier w) e.serial w [(pa, 4096)]
      if s.cycle < h.1 then (h.2, some (.wait h.1))
      else
      let r := readRuns h.2 (.copier w) w 32 s.seq [(pa, 4096)]
      if r.2.1 then (r.2.2, some (.fault .uncorrectable b.1))
      else if rebuilds s [(pa, 4096)] then (r.2.2, some (.wait (s.cycle + rebuildDelay)))
      else (storeBytes r.2.2 (poolBase w + b.2) r.1, none)

/-- The blocks of a shadow filled, up to the first that is held up. -/
def fillBlocks (w : Nat) (e : Entry) : List (Nat × Nat) → State → State × Option CopyStop
  | [], s => (s, none)
  | b :: rest, s =>
    match fillBlock s w e b with
    | (s, some p) => (s, some p)
    | (s, none) => fillBlocks w e rest s

/-- Each unfilled shadow of a task filled, up to the first that is held up. -/
def fillShadows (w : Nat) (e : Entry) : List TaskShadow → State → State × Option CopyStop
  | [], s => (s, none)
  | sh :: rest, s =>
    if sh.filled then fillShadows w e rest s
    else match fillBlocks w e sh.blocks s with
      | (s, some p) => (s, some p)
      | (s, none) => fillShadows w e rest (onEntry s w e.serial (fun x => { x with shadows := x.shadows.map (fun y =>
          if y.region = sh.region then { y with filled := true } else y) }))

/-- SHADOW_FILL_COMPLETE: the copier's bytes stand in the task's shadows; a page that is not resident and a cell that is not free are
waited for. An error replays the task; of a spread task, every shard that is placed (R242, R243, R267, R273). -/
def execShadowFillComplete (w serial : Nat) (s : State) : Out :=
  .next (match entryOf s w serial with
  | none => s
  | some e =>
    let took := fillTime s w e
    let early := e.shards.all (fun sh => !(sh.state == .dispatched || sh.state == .running) || s.cycle < sh.placedAt + took)
    if e.pending.isSome || e.state != .dispatched || e.shadows.all (fun x => x.filled) || early then s
    else match fillShadows w e e.shadows s with
      | (s, none) => tryStarts s w serial
      | (s, some x) => match copierWaits s w serial (recAsid e.recd) (recVint e.recd) false (.shadowFillComplete w serial) x with
        | .ok s => s
        | .error (.prot, va) => faultTask s w serial (trapAt .prot va) 0 0 0
        | .error (c, _) => replayShards s w serial (fun _ => true) (trapOf c) 0 0 0)

/-- TASK_START: a core begins a task's shard with the registers of R40 and its first capture; its processors come to their first group
in this cycle (R265, R369). -/
def execTaskStart (w serial i : Nat) (s : State) : Out :=
  .next (match entryOf s w serial with
  | none => s
  | some e => match e.shards[i]? with
    | none => s
    | some sh =>
      if sh.state != .dispatched || sh.startAt ≠ some s.cycle then s
      else if !physicalFree s sh.die sh.core then
        onEntry s w serial (fun e => { e with shards := e.shards.mapIdx (fun j y => if j = i then { y with startAt := none } else y) })
      else match programOf s w e i with
        | .error _ => at' (onEntry s w serial (fun e => { e with shards := e.shards.mapIdx (fun j y =>
            if j = i then { y with startAt := none, preloaded := false } else y) })) (s.cycle + 1) (.preloadComplete w serial i)
        | .ok t =>
          let done := e.state == .committed
          let s := onEntry s w serial (fun e =>
            { e with state := if e.state == .dispatched then .running else e.state, everRan := true,
                     shards := e.shards.mapIdx (fun j y => if j = i then { y with state := .running } else y) })
          let s := onCore s sh.die sh.core (fun x => taskCore x { t with committed := done, phys := coreKey (physPlace s sh.die sh.core).1 (physPlace s sh.die sh.core).2 } e s.cycle)
          [Act.poll sh.die sh.core, .issue (.ap sh.die sh.core), .issue (.xp sh.die sh.core), .settle sh.die sh.core].foldl later s)

/-- The cores whose discard is complete are free. -/
def freeDiscarded (s : State) : State :=
  let done := s.cores.filter (fun p => match p.2.discardAt with | some t => decide (t ≤ s.cycle) | none => false)
  let s := { s with cores := s.cores.map (fun p =>
    (p.1, match p.2.discardAt with | some t => if t ≤ s.cycle then p.2.cleared else p.2 | none => p.2)) }
  done.foldl (fun s p => tryStart s (p.1 / 32) (p.1 % 32)) s

/-- DISCARD_COMPLETE: the core is free, and a task in REPLAY is READY, one replay counted unless it was pre-empted (R260, R261). -/
def execDiscardComplete (w serial _i : Nat) (s : State) : Out :=
  .next (let s := freeDiscarded s
    match entryOf s w serial with
    | none => s
    | some e => if e.state == .replay && e.pending.isNone then
        makeReady (onEntry s w serial (fun e => { e with replays := if e.recount then e.replays + 1 else e.replays, recount := false })) w serial
      else s)

end Sys2Proof.Machine
end

