-- ==== Sys2Proof/Machine/Groups.lean ====
section
/-! DEFINITION. Issue groups and positions: reading a group from the text, the slot rules, what a processor does on passing a group, the
stalls that cannot end (R28 to R33, R53, R54, R188 to R191, R369 to R371). -/

namespace Sys2Proof.Machine

noncomputable section

/-! ## Groups (R32, R53, R54) -/

/-- What a processor finds at an address: a group's words with their addresses and the address after it, a word that fails a check of
R53 and its address, an access that fails, or a page that is not resident. -/
inductive Fetch where
  | group (ws : List (Nat × Word)) (next : Nat)
  | bad (pc : Nat) (w : Word)
  | trap (pc : Nat) (t : TrapInfo)
  | absent (l : Leaf)
  deriving DecidableEq, Repr

/-- The entry that a LOOP word names, of any word. -/
def loopId (w : Word) : Option Nat :=
  if engOf w = 3 && majOf w = 2 && minOf w = 0 then some ((flOf w).imm.toNat % 65536) else none

/-- The page of a LOOP's entry that is not resident. -/
def loopAbsent (s : State) (t : Running) (w : Word) : Option Leaf :=
  match loopId w with
  | none => none
  | some id => match peek s t.asid (t.image + t.loopOff + 384 * (bits (wordOf t.desc 9) 63 0 + id)) 48 with
    | .absent l => some l
    | _ => none

/-- The words of the group at an address, each checked by steps 1 to 6 of R53 in ascending order. -/
def fetchWords (s : State) (t : Running) : Nat → Nat → Fetch
  | 0, pc => .trap pc (trapAt .prot pc)
  | n + 1, pc =>
    if !t.inText pc then .trap pc (trapAt .prot pc)
    else match peek s t.asid pc 1 with
      | .absent l => .absent l
      | .trap c e va => .trap pc { trapAt c va with error := e }
      | .words ws =>
        let w := wordOf ws 0
        match checkWord false w with
        | .error _ => .bad pc w
        | .ok _ =>
          if w.getLsbD 60 then .group [(pc, w)] (pc + 8)
          else match fetchWords s t n (pc + 8) with
            | .group rest next => .group ((pc, w) :: rest) next
            | x => x

/-- The number of words that a test accepts. -/
def countWords (ws : List (Nat × Word)) (p : Word → Bool) : Nat := (ws.filter (fun x => p x.2)).length

/-- The slot rules of R32. -/
def slotsOk (ws : List (Nat × Word)) : Bool :=
  countWords ws (fun w => engOf w = 1 && majOf w ≤ 3) ≤ 1 && countWords ws (fun w => engOf w = 1 && 4 ≤ majOf w) ≤ 2
    && countWords ws (fun w => engOf w = 2 || engOf w = 3) ≤ 1 && countWords ws (fun w => engOf w = 0 || engOf w = 4) ≤ 2
    && (countWords ws (fun w => engOf w = 5) = 0 || ws.length = 1)

/-- The group at an address, with every check of R53; the page of a LOOP's entry is met after them. -/
def fetchGroup (s : State) (t : Running) (pc : Nat) : Fetch :=
  match fetchWords s t (t.textSize / 8 + 1) pc with
  | .group ws next =>
    if !slotsOk ws then .bad pc (ws.headD (0, 0)).2
    else match ws.findSome? (fun x => loopAbsent s t x.2) with
      | some l => .absent l
      | none => .group ws next
  | x => x

/-- Whether a processor executes a word (R29). -/
def ownWord (isAp : Bool) (w : Word) : Bool :=
  if isAp then engOf w = 0 || engOf w = 4 else engOf w = 1 || engOf w = 2 || engOf w = 3

/-- Whether a group is a joint word. -/
def jointGroup (ws : List (Nat × Word)) : Bool := ws.any (fun x => engOf x.2 = 5)

/-- Whether a word is a WAIT of either processor. -/
def waitWord (w : Word) : Bool := (match decodeWord w with
  | some (.apWaitAny _ _) => true
  | some (.apWaitAll _ _) => true
  | some (.xpWaitAny _ _) => true
  | some (.xpWaitAll _ _) => true
  | _ => false)

/-! ## Positions and loops (R188 to R191, R369, R375) -/

/-- The place in the body of the group that an address lies in. -/
def bodyIndex (s : State) (t : Running) (target : Nat) : Nat → Nat → Nat → Option Nat
  | 0, _, _ => none
  | n + 1, i, at_ =>
    match fetchWords s t (t.textSize / 8 + 1) at_ with
    | .group _ next => if at_ ≤ target && target < next then some i else bodyIndex s t target n (i + 1) next
    | _ => none

/-- A processor's loop after it has passed a group: a branch out of the body ends it, one inside leaves the pass going on, the last
group ends the pass. The processor's next group is known. -/
def afterGroup (s : State) (t : Running) (p : ProcState) : ProcState :=
  match p.loop with
  | none => p
  | some l =>
    if p.group < l.body then p
    else if p.jumped then { p with loop := (bodyIndex s t p.pc l.size 0 l.body).map (fun i => { l with group := i }) }
    else if l.group + 1 < l.size then { p with loop := some { l with group := l.group + 1 } }
    else match l.nextPass with
      | some n => { p with loop := some n, pc := l.body }
      | none => { p with loop := none }

/-- The LOOP of a group begun by the AP, which passes it (R188). -/
def beginLoop (s : State) (t : Running) (p : ProcState) (ws : List (Nat × Word)) : ProcState :=
  match p.loop, ws.findSome? (fun x => loopId x.2) with
  | none, some id => (match loopEntry s t id with
    | some (ls, body) => { p with loop := some (startLoop ls body p.pc t.shard) }
    | none => p)
  | _, _ => p

/-- The wait conditions that the AP holds at its point of the text (R44): where it passes a group without issuing a word of it, those
that its group before writes in the next cycle among them (R369). -/
def conditionsHeld (c : Core) (now : Nat) (skips : Bool) : List Word :=
  let next (i : Nat) : Option Word := c.landings.foldl (fun v l =>
    if l.due ≤ now + 1 then l.writes.foldl (fun v w => match w with | .ap r x => if r = 65 + i then some x else v | _ => v) v else v) none
  (List.range 4).map (fun i => if skips then (next i).getD (tget c.w i 0) else tget c.w i 0)

/-- What the AP keeps of the words it passes: its copy of the bit that BRB and LBRK pop, and the wait conditions for an XL WAIT (R44,
R191). -/
def apKeeps (now : Nat) (skips : Bool) (c : Core) (w : Word) : Core :=
  match decodeWord w with
  | some (.brb _ _) => { c with bqKept := c.bqKept.tail }
  | some (.lbrk _ _) =>
    { c with
      bqKept := c.bqKept.tail
      ap := { c.ap with loop := c.ap.loop.map (fun l => { l with stop := l.stop || c.bqKept.headD false }) } }
  | some (.xpWaitAny _ _) => { c with wCopies := c.wCopies ++ [conditionsHeld c now skips] }
  | some (.xpWaitAll _ _) => { c with wCopies := c.wCopies ++ [conditionsHeld c now skips] }
  | _ => c

/-- The offsets raised at the start of a pass of the XP (R189). -/
def raiseFresh (c : Core) : Core :=
  match c.xp.loop with
  | some l => if l.fresh then
      let c := raiseOffsets c l
      { c with xp := { c.xp with loop := some { l with fresh := false } } }
    else c
  | none => c

/-- The core after one of its processors has passed a group (R369). -/
def passCore (s : State) (t : Running) (isAp : Bool) (ws : List (Nat × Word)) (suppressed : Bool) (c : Core) : Core :=
  if isAp then
    let skips := !ws.any (fun x => ownWord true x.2)
    let c := if suppressed then c else (ws.filter (fun x => engOf x.2 = 1 || engOf x.2 = 3)).foldl (fun c x => apKeeps s.cycle skips c x.2) c
    let p := if suppressed then c.ap else beginLoop s t c.ap ws
    { c with ap := afterGroup s t { p with pos := p.pos + 1 } }
  else { c with xp := afterGroup s t { c.xp with pos := c.xp.pos + 1 } }

/-- Whether FIRST or LAST suppresses the group a processor is at. -/
def suppressedHere (p : ProcState) : Bool := match p.loop with | some l => l.suppressed | none => false

/-- The slip and follow rules (R370): what holds a processor at its position. A wait of the AP at a joint word lets the XP come to it. -/
def heldBy (c : Core) (isAp : Bool) : Option Stall :=
  let meets := match c.ap.wait with | .joint _ _ => true | _ => false
  if isAp then (if c.slip ≤ c.ap.pos && c.xp.pos ≤ c.ap.pos - c.slip then some .slip else none)
  else if c.ap.pos ≤ c.xp.pos && !meets then some .follow else none

/-- The group that a processor of a core would issue next: groups with no word for it, and those it would suppress, are passed, with what
the AP keeps of their words (R54, R191); fuel bounds the groups. A group that fails the slot rule
and has no word for it is passed too (entry 170). -/
def wouldFrom (s : State) (t : Running) (isAp : Bool) : Nat → Core → Nat
  | 0, x => (if isAp then x.ap else x.xp).pc
  | n + 1, x =>
    let p := if isAp then x.ap else x.xp
    match fetchWords s t (t.textSize / 8 + 1) p.pc with
    | .group ws next =>
      if !suppressedHere p && (jointGroup ws || ws.any (fun w => ownWord isAp w.2)) then p.pc
      else
        let q := { p with group := p.pc, pc := next, jumped := false }
        wouldFrom s t isAp n (passCore s t isAp ws (suppressedHere p) (if isAp then { x with ap := q } else { x with xp := q }))
    | _ => p.pc

/-- The address that a processor of a core stands at, for the record of a trap of the other. -/
def wouldIssue (s : State) (t : Running) (isAp : Bool) (x : Core) : Nat :=
  let p := if isAp then x.ap else x.xp
  match p.wait with
  | .joint a _ => a
  | .commit => p.group
  | .conds _ _ _ _ _ _ => p.group
  | _ => if p.retry.isEmpty then wouldFrom s t isAp (2 ^ 256) x else p.group

/-! ## Stalls that cannot end (R166, R222, R371) -/

/-- The number of the queue that a stall of the XP names. -/
def Stall.queue : Stall → Nat
  | .aqEmpty q => q
  | .aqPending q => q
  | .xqFull q => q
  | _ => 0

/-- Whether the XP waits on a queue that only the AP can serve. -/
def Stall.onAp : Stall → Bool
  | .aqEmpty _ => true
  | .bqEmpty => true
  | .xqFull _ => true
  | _ => false

/-- Whether the AP waits on a queue that only the XP can serve. -/
def Stall.onXp : Stall → Bool
  | .aqFull _ => true
  | .bqFull => true
  | .xqEmpty _ => true
  | _ => false

/-- Whether what a stall waits for is still to come: a queue that the other processor has filled or emptied in this cycle ends the
stall by itself. -/
def Stall.stands (c : Core) : Stall → Bool
  | .slip => heldBy c true == some .slip
  | .follow => heldBy c false == some .follow
  | .aqFull q => 64 ≤ ((c.aqOf q).filter (fun e => e.gone == none)).length
  | .bqFull => 256 ≤ (c.bq.filter (fun e => e.gone == none)).length
  | .xqEmpty q => !(c.xqOf q).any (fun e => e.gone == none)
  | .aqEmpty q => !(c.aqOf q).any (fun e => e.gone == none)
  | .bqEmpty => !c.bq.any (fun e => e.gone == none)
  | .xqFull q => 32 ≤ ((c.xqOf q).filter (fun e => e.gone == none)).length
  | _ => true

/-- The condition of a stall of both processors that only the other can end, and the queue of the XP's wait: 5 for a queue deadlock, 6
for a joint deadlock. -/
def deadlock (c : Core) : Option (Nat × Nat) :=
  match c.ap.wait, c.xp.wait with
  | .stalled a, .stalled x =>
    if !(a.stands c && x.stands c) then none
    else if x.onAp && (a.onXp || a == .slip) then some (5, x.queue)
    else if a.onXp && x == .follow then some (5, 0)
    else none
  | .joint _ _, .stalled x => if x.onAp && x.stands c then some (6, x.queue) else none
  | .stalled a, .joint _ _ => if (a.onXp || a == .slip) && a.stands c then some (6, 0) else none
  | .joint a _, .joint x _ => if a = x then none else some (6, 0)
  | _, _ => none

end

end Sys2Proof.Machine
end

