-- ==== Sys2Proof/Machine/Joint.lean ====
section
/-! DEFINITION. The joint words, the record of a COMMIT, a shard's halt, and the end of a core's cycle: which trap is taken and what it
does (R54, R222 to R226, R240, R273, R371, R407). -/

namespace Sys2Proof.Machine

noncomputable section

/-! ## Joint words (R222, R223) -/

/-- Both processors of a core changed. -/
def onBoth (s : State) (d c : Nat) (f : ProcState → ProcState) : State :=
  onCore s d c (fun x => { x with ap := f x.ap, xp := f x.xp })

/-- A trap of the joint word in focus, at which both processors stand. -/
def jointTrap (s : State) (t : TrapInfo) : State :=
  coreTrap (onBoth s s.focus.die s.focus.core (fun p => { p with wait := .commit, retry := [] })) s.focus.die s.focus.core 0 t
    s.focus.pc s.focus.pc

/-- The joint word in focus ends: the next groups of both processors issue from a cycle on. -/
def jointEnd (s : State) (ready : Nat) : State :=
  onBoth s s.focus.die s.focus.core (fun p => { p with wait := .none, retry := [], ready := ready })

/-- The joint word in focus waits: it is looked at again in every cycle. -/
def jointHold (s : State) : State :=
  s.onCore (fun x => { x with
    ap := { x.ap with wait := .commit, retry := [] }
    xp := { x.xp with wait := .commit, retry := [s.focus.pc] } })

/-- Whether the joint word in focus has met already and waits. -/
def jointAgain (s : State) : Bool := s.core.ap.wait == .commit

/-- Whether a queue of entries holds one that is not popped: the xqs, and the aqs and bq where they count. -/
def queuesHold (x : Core) (all : Bool) : Bool :=
  x.xq.any (fun q => q.2.any (fun e => e.gone == none))
    || (all && (x.aq.any (fun q => q.2.any (fun e => e.gone == none)) || x.bq.any (fun e => e.gone == none)))

/-- Whether a claim of a core has a batch OPEN. -/
def batchOpen (x : Core) : Bool := (List.range 4).any (fun n => (x.claim n).batch.isSome)

/-- The checks of SWAP and HALT in their meeting cycle. -/
def jointCheck (s : State) (all : Bool) : Option TrapInfo :=
  if jointAgain s then none
  else if queuesHold s.core all then some { trapOf .boundOverrun with cond := 7 }
  else if batchOpen s.core then some (trapOf .claimBusy)
  else none

/-- SWAP: when every command is complete the halves toggle, the log turns, and a phase begins. -/
def execSwap (_ : Hdr) (_ : FS) (s : State) : Out :=
  .next (match jointCheck s true with
  | some t => jointTrap s t
  | none =>
    if !s.core.cmds.isEmpty || !s.core.traps.isEmpty then jointHold s
    else
      let s := s.onCore (fun x => { x.publish.swapLog with half := x.half ^^^ 7#3 })
      (jointEnd s (s.cycle + 4)).onCore Core.beginPhase)

/-- COMMIT: the record reaches the window 24 cycles on; a second one changes nothing, but the engines see the XP's writes (R187). -/
def execCommit (_ : Hdr) (_ : FS) (s : State) : Out :=
  .next (match s.core.task with
  | none => s
  | some t =>
    if t.committed then jointEnd (s.onCore Core.publish) (s.cycle + 1)
    else at' (onBoth s s.focus.die s.focus.core (fun p => { p with wait := .commit, retry := [] })) (s.cycle + 24)
      (.windowRecordsCommitted t.wdie t.serial t.shard))

/-- SLIP: the slip window from the next cycle on (R370). -/
def execSlip (_ : Hdr) (f : FS) (s : State) : Out :=
  .next ((jointEnd s (s.cycle + 1)).onCore (fun x => { x with slip := f.num.toNat % 65536 }))

/-- MARK: the mark value; the engines see the XP's writes. -/
def execMark (_ : Hdr) (f : FS) (s : State) : Out :=
  .next ((jointEnd s (s.cycle + 1)).onCore (fun x => { x.publish with mark := f.num.setWidth 16 }))

/-! ## A shard's halt (R230, R257, R266) -/

/-- The text offset of an address of a task. -/
def Running.offsetOf (t : Running) (a : Nat) : Nat := a - (t.image + t.textOff)

/-- The status flags of a core's claims, as word 3 of the completion record has them. -/
def claimFlags (x : Core) : BitVec 4 :=
  (List.range 4).foldl (fun f n =>
    let k := (x.claim n).total
    f ||| BitVec.ofBool k.chk ++ BitVec.ofBool k.sat ++ BitVec.ofBool k.inv ++ BitVec.ofBool k.ovf) 0

/-- The cycle by which every write of a shard that ends on a core is visible at the scope of its task's retirement: the device, or the
domain when a notify target is on another device (R241, R249, R319). -/
def shardVisible (s : State) (d c : Nat) (t : Running) (e : Entry) : Nat :=
  let far := [3, 4].any (fun i => let w := wordOf e.recd i; bit w 63 && some (bits w 62 51) ≠ s.devid && !(s.devid.isNone && bits w 62 51 = 0))
  seenBy s (fun a => match a with
    | .ap w n i => w = t.wdie && n = t.serial && i = t.shard
    | .cmd x y _ => x = d && y = c
    | _ => false) true (if far then 3 else 2)

/-- A shard halts: its status, counters and PCs join the task's, its core is free, and its halt line is up. Of the
shards of a task the one that halts last gives the address of the HALT (entry 178). -/
def haltShard (s : State) (d c : Nat) : State :=
  let x := coreOf s d c
  match x.task with
  | none => s
  | some t =>
    let pc := t.offsetOf x.ap.group
    let s := onEntry s t.wdie t.serial (fun e => { e with
      status := e.status ||| claimFlags x
      homeDue := max e.homeDue (shardVisible s d c t e)
      apc := pc
      xpc := pc
      hotBytes := addCounts e.hotBytes x.hotBytes
      hotStall := addCounts e.hotStall x.hotStall
      commitWait := e.commitWait.filter (fun i => i != t.shard)
      haltWait := e.haltWait.filter (fun i => i != t.shard)
      shards := e.shards.mapIdx (fun i y => if i = t.shard then { y with state := .halted, committed := true } else y) })
    let s := tryStart (putCore s d c x.publish.cleared) d c
    match entryOf s t.wdie t.serial with
    | some e => if e.shards.all (fun y => y.state == .halted) then at' s (s.cycle + 1) (.taskHalted t.wdie t.serial) else s
    | none => s

/-- HALT: when every command is complete and every claim has drained, the shard halts, its task COMMITTED first (R223). -/
def execHalt (_ : Hdr) (_ : FS) (s : State) : Out :=
  .next (match jointCheck s false with
  | some t => jointTrap s t
  | none =>
    let x := s.core
    if !x.cmds.isEmpty || !x.traps.isEmpty || (List.range 4).any (fun n => (x.claim n).held && s.cycle < drainEnd (x.claim n) s.cycle) then jointHold s
    else match x.task with
      | none => s
      | some t =>
        if t.committed then haltShard s s.focus.die s.focus.core
        else
          let s := onBoth s s.focus.die s.focus.core (fun p => { p with wait := .commit, retry := [] })
          let s := onEntry s t.wdie t.serial (fun e => { e with haltWait := e.haltWait ++ [t.shard] })
          at' s s.cycle (.windowRecordsCommitted t.wdie t.serial t.shard))

/-! ## The record of a COMMIT (R223, R240, R260) -/

/-- The core that runs a shard of a task. -/
def shardCore (s : State) (w serial shard : Nat) : Option (Nat × Nat × Core) :=
  (s.cores.find? (fun p => p.2.discardAt.isNone && (match p.2.task with
    | some t => t.wdie = w && t.serial = serial && t.shard = shard
    | none => false))).map (fun p => (p.1 / 32, p.1 % 32, p.2))

/-- Every core of a task told that it is COMMITTED. -/
def markCommitted (s : State) (w serial : Nat) : State :=
  { s with cores := s.cores.map (fun p => (p.1, match p.2.task with
      | some t => if t.wdie = w && t.serial = serial then { p.2 with task := some { t with committed := true } } else p.2
      | none => p.2)) }

/-- WINDOW_RECORDS_COMMITTED: a COMMIT that nothing holds is recorded; the shard that waits at its COMMIT goes on, one at its HALT
halts (R240). A trap of this cycle comes after the record (R226, R347). -/
def execWindowRecordsCommitted (w serial shard : Nat) (s : State) : Out :=
  .next (match entryOf s w serial, shardCore s w serial shard with
  | some e, some (d, c, x) =>
    if e.pending.isSome || x.ap.wait != .commit then s
    else if e.commitHeld && e.state == .running then
      if e.haltWait.contains shard || e.commitWait.contains shard then s
      else onEntry s w serial (fun e => { e with commitWait := e.commitWait ++ [shard] })
    else
      let s := if e.state == .running then commitRouting s w serial else s
      let s := onEntry s w serial (fun e => { e with
        state := if e.state == .running then .committed else e.state
        commitWait := e.commitWait.filter (fun i => i != shard)
        shards := e.shards.mapIdx (fun i y => if i = shard then { y with committed := true } else y) })
      let s := onCore (markCommitted s w serial) d c Core.publish
      if e.haltWait.contains shard then (if x.traps.isEmpty then haltShard s d c else s)
      else onBoth s d c (fun p => { p with wait := .none, retry := [], ready := s.cycle })
  | _, _ => s)

/-! ## The end of a core's cycle (R54, R225, R226, R273, R371, R407) -/

/-- One trap of a task with what orders it (R407). -/
structure Trapped where
  die   : Nat
  core  : Nat
  shard : Nat
  cls   : Nat
  info  : TrapInfo
  apc   : Nat
  xpc   : Nat
  deriving DecidableEq, Repr

/-- The key of R407: class, cause code, shard, queue kind, queue index, position. -/
def Trapped.key (t : Trapped) : List Nat := [t.cls, t.info.cause.code, t.shard, t.info.qkind, t.info.qidx, t.info.qpos]

/-- Whether a key comes before another. -/
def keyBefore : List Nat → List Nat → Bool
  | a :: as, b :: bs => a < b || (a = b && keyBefore as bs)
  | _, _ => false

/-- The trap that is recorded of several. -/
def firstTrap : List Trapped → Option Trapped
  | [] => none
  | t :: r => match firstTrap r with
    | none => some t
    | some u => if keyBefore u.key t.key then some u else some t

/-- The traps of this cycle on the cores of a task. -/
def trapsOf (s : State) (w serial : Nat) : List Trapped :=
  s.cores.flatMap (fun p => match p.2.task with
    | some t =>
      if p.2.discardAt.isNone && t.wdie = w && t.serial = serial then
        p.2.traps.map (fun y => { die := p.1 / 32, core := p.1 % 32, shard := t.shard, cls := y.1, info := y.2.1,
                                  apc := y.2.2.1, xpc := y.2.2.2 })
      else []
    | none => [])

/-- What a trap of a core's task does: a rollback of the phase, a replay, or the task's end. A soft error in the capture that a rollback would
restore turns it into a replay (R272). -/
def takeTrap (s : State) (t : Running) (y : Trapped) : State :=
  let x := coreOf s y.die y.core
  let apc := t.offsetOf (if y.cls = 0 then y.apc else wouldIssue s t true x)
  let xpc := t.offsetOf (if y.cls = 1 then y.xpc else wouldIssue s t false x)
  let s := onCore s y.die y.core (fun x => { x with traps := [] })
  match entryOf s t.wdie t.serial with
  | none => s
  | some e =>
    let info := if recSpread e.recd then { y.info with qidx := y.shard } else y.info
    let again (s : State) (c : Cause) : State :=
      replayTask s t.wdie t.serial t.shard { info with cause := c } apc xpc x.mark.toNat
    let back (s : State) : State :=
      rollback (dropCommit (onEntry s t.wdie t.serial (fun e => { e with
        commitWait := e.commitWait.filter (fun i => i != t.shard), haltWait := e.haltWait.filter (fun i => i != t.shard) }))
          t.wdie t.serial t.shard) y.die y.core
    let spoilt := s.strikes.contains (.capture y.die y.core)
    let found (s : State) : State := if spoilt then unstrike s (.capture y.die y.core) else s
    if e.state != .running then faultTask s t.wdie t.serial info apc xpc x.mark.toNat
    else match info.cause with
      | .uncorrectable =>
        if spoilt then again (found s) .uncorrectable
        else if x.phaseErrs = 0 && !x.logOver && x.capture.isSome then
          back (onCore s y.die y.core (fun x => { x with phaseErrs := x.phaseErrs + 1 }))
        else again s .uncorrectable
      | .checksum =>
        if x.phaseChk = 0 && x.capture.isSome then
          if x.logOver || spoilt then again (found s) .uncorrectable
          else back (onCore s y.die y.core (fun x => { x with phaseChk := x.phaseChk + 1 }))
        else again s .checksum
      | _ => if y.cls = 3 then again s info.cause else faultTask s t.wdie t.serial info apc xpc x.mark.toNat

/-- The end of a core's cycle: a stall that cannot end traps, and the first trap of the core's task is taken. -/
def settleCore (s : State) (d c : Nat) : State :=
  let x := coreOf s d c
  match x.task with
  | none => onCore s d c (fun x => { x with traps := [] })
  | some t =>
    if x.discardAt.isSome then onCore s d c (fun x => { x with traps := [] })
    else
      let s := match x.traps, deadlock x with
        | [], some (cond, q) =>
          let info : TrapInfo := { trapOf .boundOverrun with cond := cond, qkind := 8, qidx := q }
          onCore s d c (fun x => { x with traps := [(1, info, wouldIssue s t true x, wouldIssue s t false x)] })
        | _, _ => s
      if (coreOf s d c).traps.isEmpty then s
      else match firstTrap (trapsOf s t.wdie t.serial) with
        | none => s
        | some y =>
          let s := takeTrap s (match (coreOf s y.die y.core).task with | some u => u | none => t) y
          if (coreOf s d c).traps.isEmpty then s else later s (.settle d c)

end

end Sys2Proof.Machine
end

