-- ==== Sys2Proof/Machine/Retire.lean ====
section
/-! DEFINITION. A task's way from its halt to its retirement: the copy-back of its shadows, and the fold of a vintage (R242, R243, R246,
R259, R260, R266, R307, R308). -/

namespace Sys2Proof.Machine

/-! ## Halt and copy-back (R243, R246, R266) -/

/-- TASK_HALTED: the last halt line is up; what the task has written is visible, and its shadows complete, some cycles on. A task with a renamed
region is HALTED from that cycle, in which its redirected readers are released (R246). -/
def execTaskHalted (d serial : Nat) (s : State) : Out :=
  .next (match entryOf s d serial with
  | none => s
  | some e =>
    if e.pending.isSome || !(e.state == .running || e.state == .committed) || !e.shards.all (fun y => y.state == .halted) then s
    else
      let due := max s.cycle e.homeDue
      if s.cycle < due && e.shadows.any (fun sh => sh.renamed) then at' s due (.taskHalted d serial)
      else at' (onEntry s d serial (fun e => { e with state := .halted })) due (.copyBackStart d serial))

/-- COPY_BACK_START: the task's shadows are complete: its redirected readers are released, and the copier starts to write the shadows home; a task
with none retires (R243, R246). -/
def execCopyBackStart (d serial : Nat) (s : State) : Out :=
  .next (match entryOf s d serial with
  | none => s
  | some e =>
    if e.pending.isSome || e.state != .halted then s
    else
      let s := releaseEdges s d serial [.halt]
      if e.shadows.isEmpty then reachFinal s d serial .retired
      else at' s (s.cycle + copyBackTime s d e) (.copyBackComplete d serial))

/-- Bytes of one element, of one page, written home from the record's own shadow that holds them; nothing where none does (R242, R243). -/
def copyHome (s : State) (d : Nat) (e : Entry) (va n : Nat) : State × Option CopyStop :=
  match recordShadow s d e va with
  | none => (s, none)
  | some from_ =>
    let asid := recAsid e.recd
    let r := dieTranslate s d asid (recVint e.recd) va
    let barred (l : Leaf) : Option CopyStop := if !l.wr then some (.fault .prot va) else if l.seal then some (.fault .sealed va) else none
    match r.1 with
    | .trap c _ => (r.2, some (.fault (if c == .uncorrectable then c else .prot) va))
    | .absent l _ => (r.2, (barred l).or (some (.absent l)))
    | .page l frame fva noCell _ => match barred l with
      | some x => (r.2, some x)
      | none => match copierPlace r.2 asid (recVint e.recd) va l frame fva noCell with
        | (.error x, s) => (s, some x)
        | (.ok pa, s) =>
          let r := readRuns s (.copier d) d 32 s.seq [(from_, n)]
          if r.2.1 then (r.2.2, some (.fault .uncorrectable va))
          else if rebuilds s [(from_, n)] then (r.2.2, some (.wait (s.cycle + rebuildDelay)))
          else (storeBytes r.2.2 pa r.1, none)

/-- The pieces of an element that lie in one 4 KiB block each. -/
def blockPieces : Nat → Nat → Nat → List (Nat × Nat)
  | 0, _, _ => []
  | fuel + 1, va, n =>
    if n = 0 then []
    else
      let here := min n (4096 - va % 4096)
      (va, here) :: blockPieces fuel (va + here) (n - here)

/-- Pieces of elements written home, up to the first that is held up. -/
def copyPieces (d : Nat) (e : Entry) : List (Nat × Nat) → State → State × Option CopyStop
  | [], s => (s, none)
  | p :: rest, s =>
    match copyHome s d e p.1 p.2 with
    | (s, some x) => (s, some x)
    | (s, none) => copyPieces d e rest s

/-- The elements of a record's W and RW regions, in pieces of one block each. -/
def writtenPieces (e : Entry) : List (Nat × Nat) :=
  ((List.range 6).filter (fun i => 2 ≤ (recBox e.recd i).kind)).flatMap (fun i =>
    let b := recBox e.recd i
    (elementOffsets b).flatMap (fun o => blockPieces (b.elem / 4096 + 2) (b.va + o) b.elem))

/-- COPY_BACK_COMPLETE: the elements stand at their home and the task retires; what the copier cannot write ends it FAULTED (R243).
A completion record whose slot's page was not resident is tried again. -/
def execCopyBackComplete (d serial : Nat) (s : State) : Out :=
  .next (match entryOf s d serial with
  | none => s
  | some e =>
    match e.pending with
    | some st => if s.timers.any (fun t => t.2 == .taskRetire d serial) then s else writeRecord s d e st
    | none =>
      if e.state != .halted then s
      else match copyPieces d e (writtenPieces e) s with
        | (s, none) => reachFinal (onEntry s d serial (fun e => { e with copied := true })) d serial .retired
        | (s, some x) => match copierWaits s d serial (recAsid e.recd) (recVint e.recd) true (.copyBackComplete d serial) x with
          | .ok s => s
          | .error (c, va) => faultTask s d serial (trapAt c va) e.apc e.xpc e.mark)

/-! ## Folding a vintage (R307, R308) -/

/-- The cell of a vintage at the lowest address. -/
def lowestCell : List Cell → Option Cell
  | [] => none
  | c :: r => match lowestCell r with
    | none => some c
    | some k => if k.va < c.va then some k else some c

/-- The cells of a vintage. -/
def cellsIn (s : State) (asid vint : Nat) : List Cell := s.cells.filter (fun c => c.asid = asid && c.vint = vint)

/-- A cell freed. -/
def freeCell (s : State) (c : Cell) : State :=
  let s := { s with cells := s.cells.filter (fun x => x != c) }
  match poolDie c.frame with
  | some d => onDie s d (fun x => { x with renameUsed := x.renameUsed.filter (fun u => u.1 != c.frame - poolBase d) })
  | none => s

/-- The cycles in which a fold copies a cell into its base. -/
def foldTime (s : State) (d : Nat) (c : Cell) : Nat :=
  pathLat s d c.frame + c.size / 256 + 8 + homeLat s d c.asid c.va

/-- The next cell of a fold, or its end. -/
def foldNext (s : State) (d serial asid vint : Nat) : State :=
  match lowestCell (cellsIn s asid vint) with
  | some c => at' s (s.cycle + foldTime s d c) (.foldTaskStart d serial)
  | none => at' s s.cycle (.foldTaskRetire d serial)

/-- FOLD_TASK_START: a READY fold begins; a fold that runs has copied its lowest cell into the base, which it frees. -/
def execFoldTaskStart (d serial : Nat) (s : State) : Out :=
  .next (match entryOf s d serial with
  | none => s
  | some e =>
    let asid := recAsid e.recd
    let v := recVint e.recd
    if e.pending.isSome then s
    else if e.state == .ready then
      foldNext (onEntry s d serial (fun e => { e with state := .running, everRan := true })) d serial asid v
    else if e.state != .running then s
    else match lowestCell (cellsIn s asid v) with
      | none => foldNext s d serial asid v
      | some c =>
        let stop (s : State) (cause : Cause) : State :=
          faultTask (onSpace s asid (fun a => { a with vints := tput a.vints v .retiring })) d serial { trapOf cause with info := BitVec.ofNat 64 c.va } 0 0 0
        let q := dieTranslate s d asid 0 c.va
        match q.1 with
        | .trap c _ => stop q.2 (if c == .uncorrectable then c else .prot)
        | .absent l _ => match copierWaits q.2 d serial asid v true (.foldTaskStart d serial) (if l.seal then .fault .sealed c.va else .absent l) with
          | .ok s => s
          | .error (cause, _) => stop q.2 cause
        | .page l frame fva _ _ =>
          if l.seal then stop q.2 .sealed
          else
            let h := readHold q.2 (.copier d) serial d [(c.frame, c.size)]
            if s.cycle < h.1 then at' h.2 h.1 (.foldTaskStart d serial)
            else
            let r := readRuns h.2 (.copier d) d 32 q.2.seq [(c.frame, c.size)]
            if r.2.1 then stop r.2.2 .uncorrectable
            else if rebuilds q.2 [(c.frame, c.size)] then at' r.2.2 (s.cycle + rebuildDelay) (.foldTaskStart d serial)
            else foldNext (freeCell (storeBytes r.2.2 (frame + (c.va - fva)) r.1) c) d serial asid v)

/-- FOLD_TASK_RETIRE: every copy is visible: the fold task retires, and its vintage is freed (R306). -/
def execFoldTaskRetire (d serial : Nat) (s : State) : Out :=
  .next (match entryOf s d serial with
  | none => s
  | some e =>
    if e.pending.isSome || e.state != .running || !recFold e.recd then s
    else reachFinal (onSpace s (recAsid e.recd) (fun a => { a with vints := tput a.vints (recVint e.recd) .retiring })) d serial .retired)

end Sys2Proof.Machine
end

