-- ==== Sys2Proof/Machine/Uct.lean ====
section
/-! DEFINITION. The host: answers and repeated TAGs, memory through the host ports, launches, address spaces, migration and paging,
identity and lists, events (R48, R51, R52, R95, R295 to R301, R384, R396 to R401, R420). -/

namespace Sys2Proof.Machine

/-! ## Answers (R399, R420) -/

/-- The answers kept of a port: those of its last 256 TAGs. -/
def lastTags (l : List HostMsg) : List HostMsg :=
  let tags := (l.map (fun a => a.tag)).eraseDups
  if tags.length ≤ 256 then l else l.filter (fun a => some a.tag != tags.head?)

/-- An answer to a message: the same OP and TAG, a STATUS and data. It is kept with its TAG. -/
def hostAnswer (s : State) (m : HostMsg) (status : Nat) (data : List Byte) : State :=
  let a := { m with status := BitVec.ofNat 8 status, len := BitVec.ofNat 13 data.length, data := data }
  emit { s with uctAnswers := tput s.uctAnswers m.port (lastTags (tget s.uctAnswers m.port [] ++ [a])) } (.answer a)

/-- An answer that carries an error code: its low 8 bits in STATUS, all of it in the first two bytes of data. -/
def hostError (s : State) (m : HostMsg) (code : Nat) : State := hostAnswer s m (code % 256) (leBytes 2 code)

/-- The error code of a host request that a cause stops (R413). -/
def hostCode (c : Cause) : Nat := 0x1100 + c.code

/-- RETRY_AFTER_MIGRATION with the page's home: 0 the device, 1 the host. -/
def hostRetry (s : State) (m : HostMsg) (home : Nat) : State := hostAnswer s m 0x04 (leBytes 2 0x1004 ++ leBytes 1 home)

/-- Whether boot-stage commands are served (R424). -/
def bootServed (b : Boot) : Bool :=
  match b.step with
  | .off => false
  | .step1 => false
  | .step2 => false
  | .running => b.source == some 2
  | _ => true

/-- A message to port 19,802: a repeated TAG is answered from what is kept; a command that a checkpoint refuses is not performed;
before handoff, on a port that took part in no handoff (R425), and in a frame without MACsec (R398), it is discarded. -/
def uct (s : State) (m : HostMsg) (busy : Bool) (f : State → State) : State :=
  let kept := (tget s.uctAnswers m.port []).filter (fun a => a.tag == m.tag)
  if s.boot.step != .running || !s.boot.open_.contains m.port || !m.safe || isWithdrawn s (.hport m.port) then s
  else if !kept.isEmpty then kept.foldl (fun s a => emit s (.answer a)) s
  else if busy && ckptHolding s then hostError s m 0x8004
  else f s

/-- UCT_BAD_OP: an OP that names no command (R399); at UDP port 19,803 it is answered as the commands there are, where they are served (R424). -/
def execUctBadOp (m : HostMsg) (s : State) : Out :=
  .next (if !m.boot then uct s m false (fun s => hostError s m 0x1001)
    else if bootServed s.boot then emit s (.answer { m with status := 0x01, len := 2, data := leBytes 2 0x1001 })
    else s)

/-! ## Memory through the host ports (R299, R399) -/

/-- Why a host access stops: an error code, or a page that is not resident or in flight, with its home. -/
inductive HostStop where
  | code (n : Nat)
  | retry (l : Leaf) (home : Nat)
  deriving DecidableEq, Repr

/-- The physical runs of a host access in vintage 0: it carries no element type, which pages of codes 10 to 13 do not take (R82). -/
def hostRuns (s : State) (asid : Nat) (write : Bool) : Nat → Nat → Nat → Except HostStop (List (Nat × Nat))
  | 0, _, _ => .ok []
  | fuel + 1, va, n =>
    if n = 0 then .ok []
    else if walkPoisoned s asid va then .error (.code (hostCode .uncorrectable))
    else match walk s asid va with
      | .error e => .error (.code (hostCode e.trap.1))
      | .ok l => match l.home, faultOf s asid l.va with
      | 1, some f => .error (.retry l (if f.toHost then 1 else 0))
      | _, fault =>
        if l.home ≠ 0 then .error (.code (hostCode .prot))
        else if write && !l.wr then .error (.code (hostCode .prot))
        else if 10 ≤ l.fmt then .error (.code (hostCode .format))
        else if write && l.seal then .error (.code (hostCode .sealed))
        else match fault with
          | some f => .error (.retry l (if f.toHost then 1 else 0))
          | none =>
            if !l.res then .error (.retry l 0)
            else
              let here := min n (l.va + l.size - va)
              match hostRuns s asid write fuel (va + here) (n - here) with
              | .ok r => .ok ((l.frame + (va - l.va), here) :: r)
              | .error e => .error e

/-- A host access that stops: the pager is asked for a page that is not resident (R299). -/
def hostStopped (s : State) (m : HostMsg) (write : Bool) : HostStop → State
  | .code n => hostError s m n
  | .retry l home =>
    let s := hostRetry s m home
    if l.res || home = 1 then s else requestPage s m.asid.toNat 0 write l none

/-- Whether a host request for a page that is at the host has still to let the cycle's device requests come before it (R299). -/
def hostYields (s : State) (asid va : Nat) : Bool :=
  (match walk s asid va with | .ok l => decide (l.home = 1) && (faultOf s asid l.va).isNone | .error _ => false) &&
  !s.agenda.all (fun a => match a with
    | .settle _ _ => true
    | .ev (.memread _) => true
    | .ev (.memwrite _) => true
    | .ev (.migrate _) => true
    | _ => false)

/-- The number of a host's request among those that are held: its port and tag. -/
def hostKey (m : HostMsg) : Nat := 2 ^ 32 * m.port + m.tag.toNat

/-- MEMREAD. -/
def execMemread (m : HostMsg) (s : State) : Out :=
  .next (uct s m false (fun s =>
    if hostYields s m.asid.toNat m.addr.toNat then later s (.ev (.memread m))
    else if 4096 < m.len.toNat || 2 ^ 56 < m.addr.toNat + m.len.toNat then hostError s m (hostCode .prot)
    else match hostRuns s m.asid.toNat false 4 m.addr.toNat m.len.toNat with
      | .error e => hostStopped s m false e
      | .ok ps =>
        let h := readHold s .host (hostKey m) 8 ps
        if s.cycle < h.1 then at' h.2 h.1 (.memread m)
        else
        let r := readRuns h.2 .host 8 32 s.seq ps
        if r.2.1 then hostError r.2.2 m (hostCode .uncorrectable)
        else if rebuilds s ps then at' r.2.2 (s.cycle + rebuildDelay) (.memread m)
        else hostAnswer r.2.2 m 0 r.1))

/-- Bytes written to runs of physical memory. -/
def storeRuns (s : State) : List (Nat × Nat) → List Byte → State
  | [], _ => s
  | p :: rest, bs => storeRuns (storeBytes s p.1 (bs.take p.2)) rest (bs.drop p.2)

/-- MEMWRITE. -/
def execMemwrite (m : HostMsg) (s : State) : Out :=
  .next (uct s m true (fun s =>
    if hostYields s m.asid.toNat m.addr.toNat then later s (.ev (.memwrite m))
    else if 4096 < m.data.length || 2 ^ 56 < m.addr.toNat + m.data.length then hostError s m (hostCode .prot)
    else match hostRuns s m.asid.toNat true 4 m.addr.toNat m.data.length with
      | .error e => hostStopped s m true e
      | .ok ps => hostAnswer (storeRuns s ps m.data) m 0 []))

/-- Whether a physical range is open to the host: DRAM or one pool, not a reserved range (R286). -/
def hostPhysical (pa n : Nat) : Bool := pa + n ≤ dramEnd || ((poolDie pa).isSome && (n = 0 || poolDie pa == poolDie (pa + n - 1)))

/-- PMEMREAD. -/
def execPmemread (m : HostMsg) (s : State) : Out :=
  .next (uct s m false (fun s =>
    if 4096 < m.len.toNat || !hostPhysical m.addr.toNat m.len.toNat then hostError s m (hostCode .prot)
    else
      let ps := physRuns s m.addr.toNat m.len.toNat
      let h := readHold s .host (hostKey m) 8 ps
      if s.cycle < h.1 then at' h.2 h.1 (.pmemread m)
      else
      let r := readRuns h.2 .host 8 32 s.seq ps
      if r.2.1 then hostError r.2.2 m (hostCode .uncorrectable)
      else if rebuilds s ps then at' r.2.2 (s.cycle + rebuildDelay) (.pmemread m)
      else hostAnswer r.2.2 m 0 r.1))

/-- PMEMWRITE. -/
def execPmemwrite (m : HostMsg) (s : State) : Out :=
  .next (uct s m true (fun s =>
    if 4096 < m.data.length || !hostPhysical m.addr.toNat m.data.length then hostError s m (hostCode .prot)
    else hostAnswer (storeRuns s (physRuns s m.addr.toNat m.data.length) m.data) m 0 []))

/-! ## Launch (R48, R51, R52, R95, R300, R301) -/

/-- Whether the word of a die in a launch record is in range. -/
def launchDieOk (w : Word) : Bool :=
  let wl := bits w 3 0
  2 ≤ wl && wl ≤ 10 && bits w 17 8 ≤ 256 && bits w 7 5 = 0 && bits w 63 18 = 0

/-- Whether the word of a context in a launch record is in range. -/
def launchCtxOk (w : Word) : Bool := bits w 7 6 = 0 && bits w 63 40 = 0 && bits w 39 8 % 8 = 0

/-- The words of the contexts of a launch record. -/
def launchCtxs (ws : List Word) : List Word := (ws.drop 15).take (bits (wordOf ws 14) 6 0)

/-- Whether a launch record keeps the ranges of R51 and R52. -/
def launchOk (ws : List Word) : Bool :=
  let n := bits (wordOf ws 14) 6 0
  bits (wordOf ws 0) 31 0 = 0x4C4C594D && bits (wordOf ws 0) 47 32 = 1 && bits (wordOf ws 0) 51 49 = 0
    && bits (wordOf ws 1) 63 56 = 0 && bits (wordOf ws 2) 63 56 = 0 && bits (wordOf ws 2) 15 0 = 0 && bits (wordOf ws 3) 15 0 = 0
    && bits (wordOf ws 4) 63 32 = 0 && ((ws.drop 6).take 8).all launchDieOk
    && 1 ≤ n && n ≤ 64 && bits (wordOf ws 14) 63 7 = 0 && 15 + n ≤ ws.length
    && (launchCtxs ws).all launchCtxOk && ((launchCtxs ws).map (fun w => bits w 5 0)).Nodup

/-- Whether an image's header is valid (R48): each section's end is an address. -/
def headerOk (image : Nat) (hd : List Word) : Bool :=
  let w := wordOf hd
  let sect (i unit : Nat) : Bool := bits (w i) 31 0 % 8 = 0 && image + bits (w i) 31 0 + bits (w i) 63 32 * unit ≤ 2 ^ 56
  bits (w 0) 31 0 = 0x494C594D && bits (w 0) 47 32 = 1 && bits (w 0) 63 48 = 0 && sect 1 1 && sect 2 128 && sect 3 384 && sect 4 1
    && sect 5 256 && bits (w 6) 31 0 % 8 = 0 && bits (w 6) 63 32 = 0 && w 7 == 0

/-- Whether a cell store lies on resident device pages of DRAM that are not vintaged (R300). -/
def storeOk (s : State) (asid va len : Nat) : Bool :=
  va + len ≤ 2 ^ 56 && (List.range (len / 65536)).all (fun i => match walk s asid (va + 65536 * i) with
    | .ok l => l.res && l.home = 0 && !l.vintaged && (poolDie l.frame).isNone && l.size ≠ 4096
    | .error _ => false)

/-- The least power of two at or above a number. -/
def pow2Up (n : Nat) : Nat := if n ≤ 1 then 1 else 2 ^ (Nat.log2 (n - 1) + 1)

/-- The slots of a launch's cell directory (R301). -/
def launchSlots (ws : List Word) : Nat :=
  let cells := (wordOf ws 3).toNat / 65536
  let units := ((ws.drop 6).take 8).foldl (fun n w => n + bits w 17 8 * 256) 0
  pow2Up (2 * (cells + units))

/-- Whether a context of a record belongs to a launch that still runs. -/
def ctxTaken (s : State) (w : Word) : Bool :=
  s.launches.any (fun l => !l.done && (launchCtxs l.words).any (fun x => bits x 5 0 = bits w 5 0))

/-- A die as a launch sets it up; the counts of its routing engine are empty at a launch (R362, entry 138). -/
def launchDie (x : Die) (w : Word) : Die :=
  { x with
    wlog2 := bits w 3 0, letterboxBit := bit w 4, renameMib := bits w 17 8, holdDispatch := false, acceptPosts := bit w 4,
    routing := RouteCounters.zero }

/-- A context as a launch starts it (R95). -/
def launchCtx (now : Nat) (l : Launch) (w : Word) : Ctx :=
  let regs : List (Nat × Word) :=
    [(1, BitVec.ofNat 64 l.image), (2, BitVec.ofNat 64 (l.image + l.dataOff)), (3, BitVec.ofNat 64 (bits w 2 0)),
     (4, BitVec.ofNat 64 (bits w 5 3))]
  { Ctx.free with
    regs := { RegSet.zero with pc := bits w 39 8, c := regs.foldl (fun t p => tset t p.1 p.2 0) [] }
    state := .runnable, ready := now, launch := l.number }

/-- A launch whose record and image are valid starts: its dies are set up and its contexts are RUNNABLE. -/
def startLaunch (s : State) (ws hd : List Word) : State :=
  let w := wordOf ws
  let l : Launch :=
    { number := s.launchNo + 1, words := ws, asid := bits (w 0) 63 56, strict := bit (w 0) 48, replay := bits (w 0) 55 52,
      image := bits (w 1) 55 0, textOff := bits (wordOf hd 1) 31 0, textSize := bits (wordOf hd 1) 63 32,
      dataOff := bits (wordOf hd 4) 31 0, cellVa := bits (w 2) 55 0, cellLen := (w 3).toNat, timeout := bits (w 4) 31 0, seed := w 5,
      slots := launchSlots ws, done := false }
  let s := { s with launches := s.launches ++ [l], launchNo := s.launchNo + 1 }
  let s := (List.range 8).foldl (fun s d => onDie s d (fun x => launchDie x (w (6 + d)))) s
  (launchCtxs ws).foldl (fun s x =>
    onCtl s (bits x 2 0) (fun c => ({ c with ctxs := tput c.ctxs (bits x 5 3) (launchCtx s.cycle l x) } : Ctl).capture (bits x 5 3))) s

/-- LAUNCH: an invalid record or image is refused and starts nothing; an image that is not resident is waited for. -/
def execLaunch (m : HostMsg) (s : State) : Out :=
  .next (uct s m true (fun s =>
    let ws := bytesWords (m.data.length / 8) m.data
    let asid := bits (wordOf ws 0) 63 56
    let image := bits (wordOf ws 1) 55 0
    if !launchOk ws then hostError s m 0x1003
    else match peek s asid image 8 with
      | .absent l =>
        if pageFailed s asid l.va (.host m) then hostError s m 0x1003
        else at' (requestPage s asid 0 false l (some (.host m))) (s.cycle + 64) (.launch m)
      | .trap _ _ _ => hostError s m 0x1003
      | .words hd =>
        let found := textErrors s asid image 64
        if found.1 == .rebuilt then at' found.2 (s.cycle + rebuildDelay) (.launch m)
        else if found.1 == .uncorrectable then hostError found.2 m (hostCode .uncorrectable)
        else
        let s := found.2
        let size := bits (wordOf hd 1) 63 32
        let slots := s.launches.foldl (fun n l => if l.done then n else n + l.slots) (launchSlots ws)
        if !headerOk image hd || (launchCtxs ws).any (fun x => size ≤ bits x 39 8 || ctxTaken s x)
            || !storeOk s asid (bits (wordOf ws 2) 55 0) (wordOf ws 3).toNat || 0x10000000 < 16 * slots then hostError s m 0x1003
        else
          let s := startLaunch s ws hd
          hostAnswer s m 0 (leBytes 8 s.launchNo)))

/-! ## Address spaces and shootdowns (R289, R295) -/

/-- PTROOT: the root of an address space; the old one's translations are shot down before the answer. -/
def execPtroot (m : HostMsg) (s : State) : Out :=
  .next (uct s m true (fun s =>
    startShootdown (onSpace s m.asid.toNat (fun a => { a with root := m.addr.toNat })) m.asid.toNat none 0 (2 ^ 56) none (.host m)))

/-- INVAL: a shootdown of a range, answered at its completion. -/
def execInval (m : HostMsg) (s : State) : Out :=
  .next (uct s m true (fun s =>
    let len := if m.data.length < 8 then m.len.toNat else leNat (m.data.take 8)
    startShootdown s m.asid.toNat none m.addr.toNat len none (.host m)))

/-! ## Cells filled (R303) -/

/-- What the read of a cell's base meets (R285, R408): the worst of it, the places of the pieces that an injection has spoiled, and the state with
those consumed. -/
def fillErrors (s : State) (m : Materialise) : ReadError × List Nat × State :=
  if m.fresh || (s.injPool.isEmpty && s.injHub.isEmpty) then (.clean, [], s)
  else (pieces256 m.base m.size).foldl (fun r p =>
    let e := armedError r.2.2 p.1
    (r.1.worse e.1, if e.1 == .uncorrectable then r.2.1 ++ [p.1 - m.base] else r.2.1, e.2)) (.clean, [], s)

/-- A cell that is made holds its base's bytes or zeros and enters the directory, and translations that knew no cell are dropped. -/
def fillCell (s : State) (m : Materialise) : State :=
  let bs := if m.fresh then List.replicate m.size 0 else bytesAt s.mem m.base m.size
  let bad := if m.fresh then [] else (s.poison.filter (fun p => m.base ≤ p && p < m.base + m.size)).map (fun p => p - m.base + m.frame)
  let s := bad.foldl poisonAt (storeBytes s m.frame bs)
  let s := { s with making := s.making.filter (fun x => x.id != m.id),
                    cells := s.cells ++ [{ slot := (newSlot s m.asid m.vint m.va).1, asid := m.asid, vint := m.vint, va := m.va, frame := m.frame, size := m.size }] }
  dropTlbs s (fun e => e.noCell && e.asid == m.asid && e.vint == m.vint && e.va == m.va)

/-! ## Paging (R296 to R299, R401) -/

/-- MIGRATE: a resident device page goes to the host after a shootdown; it is in flight from now on (R299). -/
def execMigrate (m : HostMsg) (s : State) : Out :=
  .next (uct s m true (fun s =>
    let asid := m.asid.toNat
    if hostYields s asid m.addr.toNat then later s (.ev (.migrate m))
    else match walk s asid m.addr.toNat with
    | .error e => hostError s m (hostCode e.trap.1)
    | .ok l => match faultOf s asid l.va with
      | some f => hostRetry s m (if f.toHost then 1 else 0)
      | none =>
        if l.home ≠ 0 || l.pte = 0 then hostError s m (hostCode .prot)
        else if !l.res then hostRetry s m 0
        else
          let s := { s with faults := s.faults ++ [{ asid := asid, va := l.va, size := l.size, vint := 0, write := false, event := 0,
                                                     toHost := true, again := false, waiters := [] }] }
          startShootdown s asid none l.va l.size (some [(l.frame, l.size)]) (.host m)))

/-- The bytes of a page sent back in answers of 4,096 bytes, the last with STATUS 0; the STATUS of the others is a free value. -/
def sendPage (s : State) (m : HostMsg) : Nat → List Byte → State
  | 0, _ => s
  | n + 1, bs =>
    if n = 0 then hostAnswer s m 0 bs
    else
      let r := freeOf s
      sendPage (hostAnswer r.2 m (r.1.toNat % 256) (bs.take 4096)) m n (bs.drop 4096)

/-- The page-table half of a leaf with a residency, a home and a frame. -/
def leafWord (l : Leaf) (res : Bool) (home : Nat) (frame : Nat) : Word :=
  (l.word &&& ~~~(fieldAt 7 59 ||| fieldAt (2 ^ 36 - 1) 0)) ||| fieldAt (if res then 1 else 0) 61 ||| fieldAt home 59 ||| fieldAt (frame / 4096) 0

/-- What stands still for a page looks again; the others look in their own time. -/
def wakeWaiter (s : State) (asid va size : Nat) (w : Waiter) : State :=
  match w with
  | .ctx d set => (match ((ctlOf s d).ctxOf set).wait with
    | .page a v => if a = asid && va ≤ v && v < va + size then ccWake s d set s.cycle else s
    | _ => s)
  | .ap d c => (match (coreOf s d c).ap.wait with
    | .page a _ v => if a = asid && va ≤ v && v < va + size then apResume s d c else s
    | _ => s)
  | _ => s

/-- The state in which the read of a page in flight to the host is rebuilt by its bank, when it is (R285). -/
def hostRebuild (s : State) (m : HostMsg) (asid va : Nat) : Option State :=
  match walk s asid va with
  | .ok l => if m.op.toNat = 8 && rebuilds s [(l.frame, l.size)] then some (runsErrors [(l.frame, l.size)] s).2 else none
  | .error _ => none

/-- A shootdown for the host is complete: a page in flight goes to the host, and what waits for it asks for it again, as the first that met it in
flight does; a page that holds an uncorrectable error stays (R408, entry 143); any other command is answered. -/
def hostShot (s : State) (m : HostMsg) (asid va : Nat) : State :=
  if m.op.toNat ≠ 8 then hostAnswer s m 0 []
  else match faultOf s asid va, walk s asid va with
    | some f, .ok l =>
      let r := readRuns s .host 8 32 s.seq [(l.frame, l.size)]
      let ended (s : State) : State := { s with faults := s.faults.filter (fun g => !(g.asid == asid && g.va == va)) }
      if r.2.1 then
        hostError (f.waiters.foldl (fun s w => wakeWaiter s asid va l.size w) (ended r.2.2)) m (hostCode .uncorrectable)
      else
      let s := putLeafWord r.2.2 l (leafWord l false 1 0)
      let s := sendPage (ended s) m (l.size / 4096) r.1
      if f.again then
        match walk s asid va with
        | .ok k => f.waiters.foldl (fun s w => requestPage s asid f.vint f.write k (some w)) (requestPage s asid f.vint f.write k none)
        | .error _ => s
      else s
    | _, _ => hostError s m (hostCode .prot)

/-- One who waits for a page that cannot be made resident meets PROT: the AP that a word of its stalls at once, the others when
they look again, which a WAIT does within 64 cycles (R296, R378, R401). -/
def failWaiter (s : State) (asid va size : Nat) (w : Waiter) : State :=
  let told (until_ : Nat) : State := { s with failed := s.failed.filter (fun x => s.cycle ≤ x.until_) ++ [{ asid := asid, va := va, who := w, until_ := until_ }] }
  match w with
  | .ap d c => (match (coreOf s d c).ap.wait with
    | .page a _ v => if a = asid && va ≤ v && v < va + size then apWaitTrap s d c (trapAt .prot v) else s
    | .conds _ _ _ _ _ _ => told (s.cycle + 64)
    | _ => s)
  | .ctx d set => if ((ctlOf s d).ctxOf set).onConds then told (s.cycle + 64) else wakeWaiter (told (s.cycle + 2 ^ 40)) asid va size w
  | .seal _ _ => s
  | .free _ _ => s
  | _ => told (s.cycle + 64)

/-- A deposit as the parts of it that lie in one piece each. -/
def postePieces (l : Leaf) (p : Poste) : List Poste :=
  let q := pieceOf l p.va
  let n := q.1 + q.2 - p.va
  if p.data.length ≤ n then [p] else [{ p with data := p.data.take n }, { p with va := p.va + n, data := p.data.drop n }]

/-- Where a deposit is applied, once its hub holds it; a write in a vintage has its cell made first, and takes its place among those that wait for a
free one (R298, R303, R305): none while it waits. -/
def mergePlace (s : State) (m : HostMsg) (l : Leaf) (p : Poste) : Option Nat × State :=
  if s.cycle < p.due then (none, at' s p.due (.pagein m))
  else if l.vintaged && p.vint ≠ 0 then
    match ensureCell s p.asid p.vint l p.va s.cycle false with
    | none =>
      (none, if s.cellWaits.any (fun w => w.waiter == .host m) then s
        else (waitForCell s s.cycle (cellSource p.asid l) p.asid p.vint p.va (.host m)).2)
    | some (frame, t) => match t.making.find? (fun x => x.frame == frame) with
      | some x => (none, at' t x.readyAt (.pagein m))
      | none => (some (frame + (p.va - (pieceOf l p.va).1)), t)
  else (some (l.frame + (p.va - l.va)), s)

/-- Deposits applied to their page in order, up to the first that has to wait for its cell: those that are left. -/
def mergeDeposits (m : HostMsg) (l : Leaf) : List Poste → State → List Poste × State
  | [], s => ([], s)
  | p :: rest, s => match mergePlace s m l p with
    | (some pa, t) => mergeDeposits m l rest (storeBytes t pa p.data)
    | (none, t) => (p :: rest, t)

/-- The page requests of the cores without those for a page. -/
def dropRequests (s : State) (asid va : Nat) : State :=
  { s with cores := s.cores.map (fun c => (c.1, { c.2 with pageReqs := c.2.pageReqs.filter (fun q => !(q.1 = asid && q.2.1 = va)) })) }

/-- Whether a deposit lies in a page. -/
def Poste.inPage (p : Poste) (asid va size : Nat) : Bool := p.asid == asid && va ≤ p.va && p.va < va + size

/-- A page made resident: its deposits are merged into its frame, the entry is written, and the waiters go on; while a deposit waits for its
cell the page stays as it is, and the command is looked at again (R296, R298, R305). -/
def bringPage (s : State) (m : HostMsg) (asid : Nat) (l : Leaf) (f : PageFault) (word : Word) : State :=
  let inPage (p : Poste) : Bool := p.inPage asid l.va l.size
  let now : Leaf := { l with word := leafWord l true 0 (bits word 47 0) }
  let r := mergeDeposits m now ((s.poste.filter inPage).flatMap (postePieces now)) s
  let s := { r.2 with poste := r.2.poste.filter (fun p => !inPage p) ++ r.1 }
  if r.1.isEmpty then
    let s := { dropRequests s asid l.va with
      faults := s.faults.filter (fun g => !(g.asid == asid && g.va == l.va)), failed := s.failed.filter (fun x => !(x.asid == asid && x.va == l.va)) }
    hostAnswer (f.waiters.foldl (fun s w => wakeWaiter s asid l.va l.size w) (putLeafWord s l now.word)) m 0 []
  else s

/-- A page that the host cannot bring: its deposits are discarded, and the waiters meet PROT (R296, R401). -/
def refusePage (s : State) (m : HostMsg) (asid : Nat) (l : Leaf) (f : PageFault) : State :=
  let inPage (p : Poste) : Bool := p.inPage asid l.va l.size
  let lost := s.poste.any inPage
  let s := { dropRequests s asid l.va with
    faults := s.faults.filter (fun g => !(g.asid == asid && g.va == l.va)), poste := s.poste.filter (fun p => !inPage p) }
  let s := if lost then logError s (2 * hubOf l.va) 0x2003 0 (noUnit (physDie s (2 * hubOf l.va))) (BitVec.ofNat 64 l.va) 0 else s
  hostAnswer (f.waiters.foldl (fun s w => failWaiter s asid l.va l.size w) s) m 0 []

/-- PAGEIN: the page's deposits are merged into the frame the host has filled, the entry is written, and the waiters go on; after a
failure they meet PROT and the deposits are discarded (R296, R401). -/
def execPagein (m : HostMsg) (s : State) : Out :=
  .next (uct s m true (fun s =>
    let asid := m.asid.toNat
    let word := BitVec.ofNat 64 (leNat (m.data.take 8))
    match walk s asid m.addr.toNat with
    | .error _ => hostError s m 0x1002
    | .ok l => match faultOf s asid l.va with
      | none => hostError s m 0x1002
      | some f =>
        if f.toHost then hostError s m 0x1002 else if bit word 63 then refusePage s m asid l f else bringPage s m asid l f word))

/-! ## Identity, lists, answers, events (R384, R392, R396, R400) -/

/-- SETID: the domain index and prefix; a second one is refused while a launch runs. -/
def execSetid (m : HostMsg) (s : State) : Out :=
  .next (uct s m true (fun s =>
    if 4095 < m.addr.toNat || (s.devid.isSome && s.launches.any (fun l => !l.done)) then hostError s m 0x1003
    else hostAnswer { s with devid := some m.addr.toNat, ipPrefix := BitVec.ofNat 64 (leNat (m.data.take 8)) } m 0 []))

/-- LISTSET: an entry of the list table (the layout of its data is entry 21). -/
def execListset (m : HostMsg) (s : State) : Out :=
  .next (uct s m true (fun s =>
    let n := m.addr.toNat % 1024
    let h := BitVec.ofNat 64 (leNat (m.data.take 8))
    let grp := leNat ((m.data.drop 8).take 8)
    let new := (List.range (bits h 44 32)).map (fun i => leNat ((m.data.drop (16 + 2 * i)).take 2) % 4096)
    let old := (tget s.lists n { valid := false, members := [], grp := 0 }).members
    let e : MailList := { valid := bit h 0, members := (old.take (bits h 28 16) ++ new).take 4096, grp := grp }
    hostAnswer { s with lists := tput s.lists n e } m 0 []))

/-- AMOQUERY: the recorded answer of a requester's operation, when the answer table has it. -/
def execAmoquery (m : HostMsg) (s : State) : Out :=
  .next (uct s m false (fun s =>
    match answerFor s m.addr.toNat (leNat (m.data.take 8)) with
    | some a => hostAnswer s m 0 (wordsBytes [1, BitVec.ofNat 64 a.status, a.value])
    | none => hostAnswer s m 0 (wordsBytes [0, 0, 0])))

/-- EVENTACK: an event is not sent again. -/
def execEventack (m : HostMsg) (s : State) : Out :=
  .next (uct s m false (fun s =>
    hostAnswer { s with events := s.events.filter (fun e => e.1 != m.addr.toNat) } m 0 []))

/-- EVENT_RESEND: an event that is not acknowledged is sent again, and again after 10,000 ticks. -/
def execEventResend (n : Nat) (s : State) : Out :=
  .next (match s.events.find? (fun e => e.1 == n) with
  | none => s
  | some e => at' (emit s (.event n e.2)) (s.cycle + 250000) (.eventResend n))

end Sys2Proof.Machine
end

