-- ==== Sys2Proof/Machine/Landing.lean ====
section
/-! DEFINITION. Results and data that land, waits that end, translations, shootdowns, cells, and writes performed at their homes (R33, R43,
R137, R292, R295, R303 to R305, R312, R372, R373, R378). -/

namespace Sys2Proof.Machine

/-! ## Results (R33, R43, R372, R373) -/

/-- The value of a load from its bytes. -/
def loadedValue (signed : Bool) (bs : List Byte) : Word :=
  let v := leNat bs
  if signed && 2 ^ (8 * bs.length - 1) ≤ v then BitVec.ofInt 64 ((v : Int) - 2 ^ (8 * bs.length)) else BitVec.ofNat 64 v

/-- A load's value written to its register. -/
def putLoaded (s : State) (dst : RegDst) (u : Agent) (v : Word) : State :=
  match u, dst with
  | .ctl d, .cc set r => onCtl s d (fun c => c.onCtx set (fun x => { x with regs := x.regs.put r v }))
  | .core d c, .ap r => onCore s d c (fun x => x.aPut r v)
  | _, _ => s

/-- A load that has to land later than it was to: its control core's set, or the AP that waits for it as an acquire, goes on no earlier. -/
def landLater (s : State) (u : Agent) (dst : RegDst) (agent : AgentId) (at_ pc due : Nat) (w : List RegWrite) : State :=
  let t := landOf s u at_ pc due w
  match u with
  | .ctl d => onCtl t d (fun c => match dst with
      | .cc set _ => c.onCtx set (fun x => { x with ready := max x.ready due })
      | _ => c)
  | .core d c =>
    if (markOf s agent).acq.rd = s.cycle then
      onCore t d c (fun x => { x with ap := { x.ap with ready := max x.ap.ready due } })
    else t

/-- The register write that a load's value is. -/
def loadedWrite (dst : RegDst) (v : Word) : List RegWrite :=
  match dst with
  | .cc set r => [.cc set r v]
  | .ap r => [.ap r v]
  | .none => []

/-- The die and the core of an agent of results, 32 for a control core. -/
def readerAt : Agent → Nat × Nat
  | .ctl d => (d, 32)
  | .core d c => (d, c)

/-- A load that lands, its word issued in cycle at_: its bytes as they stand now; one that its bank rebuilds lands later (R285), data that
cannot be corrected traps its reader (R408), and a barrier object of another die answers when what has entered that die is performed (R321). -/
def landLoad (s : State) (u : Agent) (dst : RegDst) (signed : Bool) (parts : List (Nat × Nat)) (agent : AgentId) (seq at_ pc : Nat) : State :=
  let r := readRuns s agent (readerAt u).1 (readerAt u).2 (match u with | .ctl _ => s.seq | .core _ _ => seq) parts
  let hold := barrierHold s (readerAt u).1 parts
  if s.cycle < cellHold s parts then landLater s u dst agent at_ pc (cellHold s parts) [.load dst signed parts agent seq pc]
  else if rebuilds s parts then landLater r.2.2 u dst agent at_ pc (s.cycle + rebuildDelay) [.load dst signed parts agent seq pc]
  else if r.2.1 then
    match u, dst with
    | .ctl d, .cc set _ => ccMisread r.2.2 d set
    | .ctl _, _ => r.2.2
    | .core d c, _ => coreTrap r.2.2 d c 0 (trapOf .uncorrectable) pc (coreOf s d c).xp.pc
  else if s.cycle < hold then landLater r.2.2 u dst agent at_ pc hold (loadedWrite dst (loadedValue signed r.1))
  else putLoaded r.2.2 dst u (loadedValue signed r.1)

/-- What a waiting processor has seen of condition i of the WAIT that began in a cycle. -/
def sawCond (s : State) (p : Proc) (i : Nat) (holds : Bool) (start : Nat) : State :=
  onProc s p (fun q => match q.wait with
    | .conds all ws pd dl seen st =>
      if st ≠ start then q else { q with wait := .conds all ws pd dl (seen.filter (fun x => x.1 != i) ++ [(i, holds)]) st }
    | _ => q)

/-- A re-read of condition i that lands: the waiting processor has seen whether it holds (R378). -/
def landCond (s : State) (p : Proc) (i : Nat) (zero : Bool) (parts : List (Nat × Nat)) (agent : AgentId) (seq start : Nat) : State :=
  match (procOf s p).wait with
  | .conds _ _ _ _ _ st =>
    if st ≠ start then s
    else
      let r := readRuns s agent (procAt p).1 (procAt p).2 seq parts
      if s.cycle < cellHold s parts then
        land s (.core (procAt p).1 (procAt p).2) (cellHold s parts) [.cond p i zero parts agent seq start]
      else if rebuilds s parts then
        land r.2.2 (.core (procAt p).1 (procAt p).2) (s.cycle + rebuildDelay) [.cond p i zero parts agent seq start]
      else if r.2.1 then procTrap r.2.2 p (trapOf .uncorrectable)
      else if s.cycle < barrierHold s (procAt p).1 parts then
        land r.2.2 (.core (procAt p).1 (procAt p).2) (barrierHold s (procAt p).1 parts) [.seen p i (decide (leNat r.1 = 0) == zero) start]
      else sawCond r.2.2 p i (decide (leNat r.1 = 0) == zero) start
  | _ => s

/-- A latch from bytes of the register space, zero above them (R43). -/
def latchFrom (x : Core) (off size : Nat) : Vec := vecOf (bytesAt x.space off size)

/-- A latch with bytes from a place on written. -/
def latchWith (x : Core) (n at_ : Nat) (bs : List Byte) : Vec := vecOf (overlay (vecBytes (x.latch n)) 0 at_ bs)

/-- What a landing result does to its core. -/
def landCore (now : Nat) (x : Core) : RegWrite → Core
  | .ap r v => x.aPut r v
  | .apPred r b => { x with apPreds := predPut x.apPreds r b }
  | .apMaskOr r v => x.amPut r (x.amGet r ||| v)
  | .apMaskClear r => x.amPut r 0
  | .space off bs => { x with space := writeBytes x.space off bs }
  | .latch n v => { x with latches := tset x.latches n v 0 }
  | .latchOf n off size => { x with latches := tset x.latches n (latchFrom x off size) 0 }
  | .latchPart n at_ bs => { x with latches := tset x.latches n (latchWith x n at_ bs) 0 }
  | .xpPred r b => { x with xpPreds := predPut x.xpPreds r b }
  | .xpMask r v care => x.xmPut r ((x.xmGet r &&& ~~~care) ||| (v &&& care))
  | .offset r v => { x with offsets := tset x.offsets r v 0 }
  | .offsetAdd r v => { x with offsets := tset x.offsets r (x.oGet r + v) 0 }
  | .view n v => { x with views := tput x.views n v }
  | .buf b off bs => putBuf x b off bs
  | .wp ch n => x.wpAdd ch n now
  | .deferOvf => { x with pigeonOvf := true }
  | _ => x

/-- One landing result of an agent, its word issued in cycle at_. -/
def landOne (s : State) (u : Agent) (at_ : Nat) (w : RegWrite) : State :=
  match w, u with
  | .load dst signed parts agent seq pc, _ => landLoad s u dst signed parts agent seq at_ pc
  | .cond p i zero parts agent seq start, _ => landCond s p i zero parts agent seq start
  | .seen p i holds start, _ => sawCond s p i holds start
  | .cc set r v, .ctl d => onCtl s d (fun c => c.onCtx set (fun x => { x with regs := x.regs.put r v }))
  | .ccPred set r b, .ctl d => onCtl s d (fun c => c.onCtx set (fun x => { x with regs := { x.regs with p := predPut x.regs.p r b } }))
  | w, .core d c => onCore s d c (fun x => landCore s.cycle x w)
  | _, _ => s

/-- The landings of an agent. -/
def landingsOf (s : State) : Agent → List Landing
  | .ctl d => (ctlOf s d).landings
  | .core d c => (coreOf s d c).landings

/-- RESULT_LAND: the results due land in the order of their issue, the later kept; the latches read the register space after them. -/
def execResultLand (u : Agent) (s : State) : Out :=
  .next (let due := (landingsOf s u).filter (fun l => l.due ≤ s.cycle)
    let s := match u with
      | .ctl d => onCtl s d (fun c => { c with landings := c.landings.filter (fun l => s.cycle < l.due) })
      | .core d c => onCore s d c (fun x => { x with landings := x.landings.filter (fun l => s.cycle < l.due) })
    let ws := (issueOrder due).flatMap (fun l => l.writes.map (fun w => (l.at_, w)))
    let s := (ws.filter (fun w => !w.2.isLatch)).foldl (fun s w => landOne s u w.1 w.2) s
    (ws.filter (fun w => w.2.isLatch)).foldl (fun s w => landOne s u w.1 w.2) s)

/-! ## Queue entries (R136, R137) -/

/-- The bytes of an entry's pieces as they stand now. -/
def readPieces (s : State) (a : AgentId) (d c seq : Nat) : List Piece → List Byte × Bool × State
  | [] => ([], false, s)
  | .bytes b :: rest => let r := readPieces s a d c seq rest; (b ++ r.1, r.2.1, r.2.2)
  | .mem pa n :: rest =>
    let e := readRuns s a d c seq [(pa, n)]
    let r := readPieces e.2.2 a d c seq rest
    (e.1 ++ r.1, e.2.1 || r.2.1, r.2.2)

/-- AQ_ENTRY_LAND: the data of a queue load lands in its entry; the bits of its absent granules stand in m[D] for an MTEST of a later
cycle (R141). -/
def execAqEntryLand (d c q id : Nat) (s : State) : Out :=
  .next (match ((coreOf s d c).aqOf q).find? (fun e => e.id == id) with
  | none => s
  | some e =>
    let r := readPieces s (apOf s d c) d c e.seq e.pieces
    if s.cycle < cellHold s (e.reads) then at' s (cellHold s (e.reads)) (.aqEntryLand d c q id)
    else if rebuilds s (e.reads) then at' r.2.2 (s.cycle + rebuildDelay) (.aqEntryLand d c q id)
    else if r.2.1 then coreTrap r.2.2 d c 0 (trapOf .uncorrectable) e.pc (coreOf s d c).xp.pc
    else if s.cycle < barrierHold s d (e.reads) then
      at' (onCore r.2.2 d c (fun x => x.aqUpdate q id (fun e => { e with pieces := [.bytes r.1] }))) (barrierHold s d (e.reads))
        (.aqEntryLand d c q id)
    else
      let t := onCore r.2.2 d c (fun x => x.aqUpdate q id (fun e => { e with data := entryBytes e.form r.1, landed := true, pieces := [] }))
      if q = 0 || e.absent = 0 then t else land t (.core d c) (s.cycle + 1) [.apMaskOr q e.absent])

/-! ## Waits (R125, R378) -/

/-- WAIT_REREAD: the memory conditions of a wait are read again. -/
def execWaitReread (p : Proc) (s : State) : Out :=
  .next (match p with
  | .cc d => ccRereadAll s d
  | _ => rereadAll s p)

/-- WAIT_TIMEOUT: a wait that is not satisfied by its timeout ends with 0. -/
def execWaitTimeout (p : Proc) (s : State) : Out :=
  .next (match p with
  | .cc d => ccWaitTimeouts s d
  | _ =>
    let s := tryWait s p
    match (procOf s p).wait with
    | .conds _ _ pd (some t) _ _ => if t ≤ s.cycle then endWait s p pd false else s
    | _ => s)

/-! ## Translations (R292, R295) -/

/-- TLB_WALK_COMPLETE: a walk's translation enters the TLBs when the page is still resident here; a walk that finds RES = 0 installs
nothing, and so does one of a page that a shootdown removes (R295). -/
def execTlbWalkComplete (d core asid vint va : Nat) (s : State) : Out :=
  .next (match walk s asid va with
  | .error _ => s
  | .ok l =>
    if !l.res || l.home ≠ 0 || leaving s asid l || s.shoots.any (fun x => x.covers asid vint l) then s
    else tlbInstall s d (if core < 32 then some core else none) (tlbEntryOf s asid vint va l))

/-- SHOOTDOWN_COMPLETE: no translation of the range is used any more, and every pin of an old one has been released; the initiator goes on
(R295). -/
def execShootdownComplete (id : Nat) (s : State) : Out :=
  .next (match s.shoots.find? (fun x => x.id == id) with
  | none => s
  | some x =>
    let rebuilt := match x.done with | .host m => hostRebuild s m x.asid x.va | _ => none
    if s.cycle < pinsFree s id x.held then at' s (pinsFree s id x.held) (.shootdownComplete id)
    else if let some t := rebuilt then at' t (s.cycle + rebuildDelay) (.shootdownComplete id)
    else
    let s := { s with shoots := s.shoots.filter (fun y => y.id != id) }
    let s := dropTlbs s (fun e => e.inRange x.asid x.vint x.va x.len)
    match x.done with
    | .seal d c => if (coreOf s d c).ap.wait == .seal id then apResume s d c else s
    | .free asid v =>
      serveVallocs (onSpace s asid (fun a => { a with vints := tdel a.vints v })) asid 4096
    | .host m => hostShot s m x.asid x.va
    | _ => s)

/-! ## Cells (R303 to R305) -/

/-- The cycle by which the reads of the base that the tasks of a vintage have made through its translations of "no cell" have come back (R295,
R303). -/
def oldPins (s : State) (m : Materialise) : Nat :=
  s.cores.foldl (fun acc x => match x.2.task with
    | some t => if t.asid = m.asid && t.vt.toNat = m.vint then
        (loadsOf x.2).foldl (fun acc l => if runsMeet l.2 [(m.base, m.size)] then max acc l.1 else acc) acc else acc
    | none => acc) 0

/-- CELL_READY: the cell holds its base's bytes or zeros and enters the directory, and translations that knew no cell are dropped once their reads
have come back. -/
def execCellReady (id : Nat) (s : State) : Out :=
  .next (match s.making.find? (fun m => m.id == id) with
  | none => s
  | some m =>
    if s.cycle < m.readyAt then s
    else
      let later (s : State) (t : Nat) : State :=
        at' { s with making := s.making.map (fun x => if x.id == id then { x with readyAt := t } else x) } t (.cellReady id)
      if s.cycle < oldPins s m then later s (oldPins s m)
      else
        let e := fillErrors s m
        if e.1 == .rebuilt then later e.2.2 (s.cycle + rebuildDelay)
        else e.2.1.foldl (fun s o => poisonAt s (m.frame + o)) (fillCell e.2.2 m))

/-- A writer that waited for a cell goes on. -/
def wakeCellWaiter (s : State) (w : CellWait) : State :=
  match w.waiter with
  | .ap d c => if (coreOf s d c).ap.wait == .cell w.id then apResume s d c else s
  | .late _ d c _ _ => if (coreOf s d c).ap.wait == .cell w.id then apResume s d c else s
  | .cmd d c id => at' s s.cycle (.engineUnitLand d c id)
  | .fill d serial => (match entryOf s d serial with
    | some e => at' s s.cycle (if e.state == .halted then .copyBackComplete d serial else .shadowFillComplete d serial)
    | none => s)
  | .host m => at' s s.cycle (.pagein m)
  | _ => s

/-- A writer that finds no cell at the hub: an AP whose write has left for it stalls from then on, and the write is put off (R130, R305). -/
def holdWriter (s : State) (w : CellWait) : State :=
  match w.waiter with
  | .late agent d c id pc =>
    let s := match s.making.find? (fun m => m.id == id) with
      | some m => putOffCell s m
      | none => s
    onCore s d c (fun x =>
      if apOf s d c != agent || x.ap.stopped then x
      else if x.ap.wait == .none then { x with ap := { x.ap with wait := .cell w.id, word := pc } }
      else if x.ap.wait == .cell w.id && s.cycle < x.ap.ready then { x with ap := { x.ap with ready := x.ap.ready + 1 } }
      else x)
  | _ => s

/-- Waiting writers served in order of arrival while a cell is to be had from their source; those that wait no more are dropped. -/
def serveFrom : List Nat → List CellWait → State → State
  | _, [], s => s
  | dry, w :: rest, s =>
    let left (s : State) : State := { s with cellWaits := s.cellWaits.filter (fun x => x.id != w.id) }
    if !w.live s then serveFrom dry rest (left s)
    else if s.cycle < w.hubAt then serveFrom dry rest s
    else if dry.contains w.src then serveFrom dry rest (holdWriter s w)
    else match walk s w.asid w.va with
      | .error _ => serveFrom dry rest (wakeCellWaiter (left s) w)
      | .ok l => match ensureCell s w.asid w.vint l w.va s.cycle true with
        | none => serveFrom (w.src :: dry) rest (holdWriter s w)
        | some (_, t) => serveFrom dry rest (wakeCellWaiter (left t) w)

/-- The writers that wait for cells served (R305). -/
def serveCells (s : State) : State := serveFrom [] s.cellWaits s

/-- The timeout of an AP's write that waits at the hub for its cell: the write is not performed, and its task meets VINTAGE_SPACE at the write's
word; the materialisation that no other write waits for is given up (R305). -/
def endLate (s : State) (agent : AgentId) (d c making wait pc : Nat) : State :=
  match s.making.find? (fun m => m.id == making) with
  | none => s
  | some m =>
    if m.taken then s
    else
      let s := { s with writes := s.writes.filter (fun w => !(w.agent == agent && runsMeet w.act.runs [(m.frame, m.size)])) }
      let s := if (cellWrites s m).isEmpty then { s with making := s.making.filter (fun x => x.id != making) } else s
      if apOf s d c != agent then s
      else
        let s := onCore s d c (fun x => if x.ap.wait == .cell wait then { x with ap := { x.ap with wait := .none } } else x)
        coreTrap s d c 3 (trapOf .vintageSpace) pc (coreOf s d c).xp.pc

/-- CELL_WAIT_TIMEOUT: the wait of a writer for a free cell reaches the launch's store timeout (R305). -/
def execCellWaitTimeout (id : Nat) (s : State) : Out :=
  .next (match s.cellWaits.find? (fun w => w.id == id) with
  | none => s
  | some w =>
    let s := { s with cellWaits := s.cellWaits.filter (fun x => x.id != id) }
    match w.waiter with
    | .ap d c => if (coreOf s d c).ap.wait == .cell id then
        coreTrap s d c 3 (trapOf .vintageSpace) (coreOf s d c).ap.word (coreOf s d c).xp.pc
      else s
    | .late agent d c m pc => endLate s agent d c m id pc
    | .cmd d c m => (match (coreOf s d c).cmdOf m with
      | some y => cmdFault s d c y .vintageSpace 0 0
      | none => s)
    | .fill d serial => (match entryOf s d serial with
      | some e => if e.state == .halted then faultTask s d serial (trapOf .vintageSpace) e.apc e.xpc e.mark
        else replayShards s d serial (fun _ => true) (trapOf .vintageSpace) 0 0 0
      | none => s)
    | _ => s)

/-! ## Writes (R312) -/

/-- The address of the word that a write comes from, where it keeps it. -/
def WriteAct.pc? : WriteAct → Option Nat
  | .amo _ _ _ _ _ _ _ pc => some pc
  | .barrier _ _ _ pc => some pc
  | _ => none

/-- A write that meets an uncorrectable error is not made: the agent whose word or command it is traps UNCORRECTABLE (R408). -/
def spoiledUpdate (s : State) (w : Pending) : State :=
  match w.agent with
  | .ap _ _ _ =>
    let x := coreOf s w.die w.core
    if apOf s w.die w.core == w.agent then coreTrap s w.die w.core 0 (trapOf .uncorrectable) (w.act.pc?.getD x.ap.pc) x.xp.pc else s
  | .ctx d set => ccMisread s d set
  | .cmd d c id => (match (coreOf s d c).cmdOf id with
    | some m => cmdFault s d c m .uncorrectable 0 0
    | none => s)
  | _ => s

/-- Whether a write of a word or of a command has been lost on a die-to-hub link (R408, entry 164). -/
def writeLost (s : State) (w : Pending) : Bool × State :=
  let mine := match w.agent with | .ap _ _ _ => true | .ctx _ _ => true | .cmd _ _ _ => true | _ => false
  if s.strikes.isEmpty || !mine then (false, s)
  else w.act.runs.foldl (fun r p => if r.1 then r else linkError r.2 w.die p.1) (false, s)

/-- The cycle before which an atomic operation on a barrier object of another die is not performed (R321); zero for every other write. -/
def amoHold (s : State) (w : Pending) : Nat × State :=
  match w.act with
  | .amo _ pa size _ _ _ _ _ => readHold s w.agent w.id w.die [(pa, size)]
  | _ => (0, s)

/-- A write performed at its home, unless its link has lost it; one that reads what it changes meets the errors of that read (R285, R408), and an atomic operation on a
barrier object of another die comes after what has entered that die (R321). -/
def performHome (s : State) (w : Pending) : State :=
  let h := amoHold s w
  if s.cycle < h.1 then putOffWrites { h.2 with writes := h.2.writes ++ [w] } [w] (h.1 - w.due)
  else
  let l := writeLost h.2 w
  if l.1 then spoiledUpdate l.2 w
  else
  let e := runsErrors w.act.reads l.2
  if e.1 == .uncorrectable then spoiledUpdate e.2 w
  else if e.1 == .rebuilt then
    at' { e.2 with writes := e.2.writes ++ [{ w with due := s.cycle + rebuildDelay }] } (s.cycle + rebuildDelay) (.writePerformedAtHome w.id)
  else performWrite e.2 w

/-- WRITE_PERFORMED_AT_HOME: a write in flight takes effect at its home. -/
def execWritePerformedAtHome (id : Nat) (s : State) : Out :=
  .next (match s.writes.find? (fun w => w.id == id) with
  | none => s
  | some w => if s.cycle < w.due then s else performHome { s with writes := s.writes.filter (fun x => x.id != id) } w)

/-! ## Words that are no instructions (R53 to R55) -/

/-- The cause of a failed check of R53; a group that breaks the slot rules raises that of a reserved field. -/
def DecodeError.cause : DecodeError → Cause
  | .illegalEng => .illegalEng
  | .illegalOp => .illegalOp
  | .reservedField => .reservedField

/-- ENCODING_NOT_INSTRUCTION: a processor's PC reaches a word, at the address in focus, that fails a check of R53. -/
def execEncodingNotInstruction (p : Proc) (why : DecodeError) (s : State) : Out :=
  .next (match p with
  | .cc d => ccTrap s d s.focus.pc (DecodeError.cause why) 0
  | .ap _ _ => apTrap s (trapOf (DecodeError.cause why))
  | .xp _ _ => xpTrap s (trapOf (DecodeError.cause why))
  | .courier _ _ => stopCourier s (DecodeError.cause why))

end Sys2Proof.Machine
end

