-- ==== Sys2Proof/Machine/FaultEvents.lean ====
section
/-! DEFINITION. The scrubber, the halving of scores, targeted tests, power and temperature (R14, R404, R409, R410, R412, R430). -/

namespace Sys2Proof.Machine

/-! ## The scrubber and the scores (R409, R410) -/

/-- PATROL_SCRUB: the scrubber reads the word at a physical address. An injection armed on its bank or channel is used; a corrected
word is written back, and an uncorrectable one that is not poisoned yet is poisoned and charged once: in a reserve slot in use, the word of the
unit that it serves. A unit that is served from its slot holds no word that a read could meet (R410, entry 142). -/
def execPatrolScrub (pa : Nat) (found : Finding) (s : State) : Out :=
  let v := poisonUnit pa
  let u := (keptPa s v.1, v.2)
  let spoil (s : State) : State := (List.range (v.2 / 16)).foldl (fun s i => poisonAt s (keptPa s (v.1 + 16 * i))) s
  let idle := decide (u.1 = v.1) && decide (servedPa s v.1 ≠ v.1)
  let was := isPoisoned s u.1 u.2
  .next (match (if idle then (.clean, s) else readErrors s u.1 u.2 : ReadError × State) with
    | (.clean, s) => (match found with
      | .clean => s
      | .corrected => foundCorrected s (unitOfPa pa) pa
      | .uncorrectable => foundUncorrectable (if idle then s else spoil s) (unitOfPa pa) pa)
    | (.uncorrectable, s) => if was then s else spoil s
    | (_, s) => s)

/-- Every count of a table halved, rounding down. -/
def halved (t : Table Nat) : Table Nat := t.foldl (fun h p => tset h p.1 (tget t p.1 0 / 2) 0) t

/-- SCORE_HALVE: all scores of the device halve (R410). -/
def execScoreHalve (s : State) : Out :=
  .next { s with
    hscore := halved s.hscore
    fscore := halved s.fscore
    dies := s.dies.map (fun p => (p.1, { p.2 with
      pscore := halved p.2.pscore
      cscore := halved p.2.cscore
      gscore := halved p.2.gscore
      lscore := halved p.2.lscore })) }

/-! ## Targeted tests (R404, R410) -/

/-- The die (0 to 7) or hub (8 to 11) on which tests run one at a time. -/
def testPlace : HwUnit → Nat
  | .plot d _ _ => d
  | .core d _ => d
  | .poolGroup d _ => d
  | .link d _ => d
  | .pch h _ => 8 + h
  | .fport h _ => 8 + h
  | .bank d _ => d
  | .hport p => 8 + 2 * p
  | .pair d => d

/-- The units still to be tested have their tasks looked at again: a core that holds none from now on is empty. -/
def dropHolds (s : State) : State :=
  { s with withdrawn := s.withdrawn.map (fun w => { w with holds := w.holds.filter (fun k => (coreOf s (k / 32) (k % 32)).task.isSome) }) }

/-- The first unit withdrawn of a place is the one that its next test is for. -/
def firstWaiting (s : State) (p : Nat) : Option Withdrawn := s.withdrawn.find? (fun w => w.state == .waiting && testPlace w.hw = p)

/-- The units whose test starts now: the first that waits on its die or hub, once no test runs there and it holds no task; none during a
checkpoint. -/
def testsDue (s : State) : List HwUnit :=
  if s.ckpt.isSome then []
  else (List.range 12).filterMap (fun p =>
    if s.withdrawn.any (fun w => w.state == .testing && testPlace w.hw = p) then none
    else match firstWaiting s p with
      | some w => if w.holds.isEmpty then some w.hw else none
      | none => none)

/-- TARGETED_TEST_START: a withdrawn unit that waits and is due starts its test, which ends after its length (R404, R410). -/
def execTargetedTestStart (u : HwUnit) (s : State) : Out :=
  .next (if (testsDue s).contains u then
    let due := s.cycle + testLength u
    at' { s with withdrawn := s.withdrawn.map (fun w =>
        if w.hw == u then { w with state := .testing, score := scoreOf s u, until_ := due, bad := injectedPlot s u } else w) } due (.targetedTestEnd u false)
  else s)

/-- The core, plot and kind bits of TESTREC. -/
def testFields : HwUnit → Word
  | .plot d c k => fieldAt 1 44 ||| fieldAt d 40 ||| fieldAt c 35 ||| fieldAt k 31
  | .core d c => fieldAt d 40 ||| fieldAt c 35
  | u => fieldAt (unitDie u) 40

/-- The bytes of a unit that returns to service copied back from its reserve slot, which keeps its copy (R410, entry 142). -/
def leaveSlot (s : State) (u : HwUnit) (slot : Nat) : State :=
  let outside := s.mem.filter (fun p => !(slot ≤ p.1 && p.1 < slot + slotBytes u))
  { s with mem := (s.mem.filter (fun p => unitOfPa p.1 == u)).foldl (fun m p => writeBytes m (slot + unitOffset p.1) [p.2]) outside }

/-- The end of a test: TESTREC and an error record are written. A pass clears the score, returns the unit and its slot, and what waits for a core
that it serves starts; a fail fences it (R404, R410, R412). -/
def endTest (s : State) (u : HwUnit) (w : Withdrawn) (fails : Bool) : State :=
  let s := onDie s (unitDie u) (fun x => { x with
    testrec := fieldAt (min 255 (bits x.testrec 63 56 + 1)) 56 ||| testFields u ||| fieldAt (if fails then 1 else 0) 16 ||| fieldAt w.score 0 })
  if fails then
    logError { s with withdrawn := s.withdrawn.map (fun y => if y.hw == u then { y with state := .fenced } else y) }
      (unitDie u) 0x4006 0 (errUnitOf u) 0 (scoreOf s u)
  else
    let s := match w.slot with | some pa => leaveSlot s u pa | none => s
    let s := setScore s u 0
    let s := logError { s with
      withdrawn := s.withdrawn.filter (fun y => y.hw != u)
      reserve := (match w.slot with | some pa => s.reserve.filter (fun r => r.1 != pa) | none => s.reserve) }
      (unitDie u) 0x4005 0 (errUnitOf u) 0 0
    ((List.range 8).flatMap (dispatchedOn s)).foldl (fun s p => tryStart s p.2.2.2.die p.2.2.2.core) s

/-- TARGETED_TEST_END: a test ends in the cycle in which its length is over, failed when a failure was found in its course or an injection makes
its rows mismatch; a failure found before is kept until then (R404). -/
def execTargetedTestEnd (u : HwUnit) (bad : Bool) (s : State) : Out :=
  .next (match s.withdrawn.find? (fun w => w.hw == u && w.state == .testing) with
    | none => s
    | some w =>
      if s.cycle < w.until_ then
        (if bad then { s with withdrawn := s.withdrawn.map (fun y => if y.hw == u then { y with bad := true } else y) } else s)
      else endTest s u w (bad || w.bad || injectedPlot s u))

/-! ## The board controller (R14, R429, R430) -/

/-- The number of a step of the boot in STATUS. -/
def BootStep.code : BootStep → Nat
  | .off => 0
  | .step1 => 1
  | .step2 => 2
  | .step3 => 3
  | .step4 => 4
  | .waiting => 4
  | .step5 => 5
  | .handoff => 6
  | .running => 6
  | .stopped => 0

/-- STATUS as boot and the holds leave it (R429). -/
def refreshBoard (s : State) : State :=
  let b := s.boot
  let one := fun (c : Bool) (n : Nat) => if c then 2 ^ n else 0
  { s with board := { s.board with
    status := BitVec.ofNat 16 (b.step.code * 4096 + one (b.step == .running) 0 + one (b.source == some 2) 1 +
      one (b.step == .waiting) 2 + one (s.powerHold || s.tempHold) 3) } }

/-- POWER_REPORT: the hold follows the mean of the last ten reports (R14). -/
def execPowerReport (watts : Nat) (s : State) : Out :=
  let log := (s.powerLog ++ [watts]).drop ((s.powerLog.length + 1) - 10)
  let sum := log.foldl (fun a b => a + b) 0
  let hold := if log.length = 10 && 35000 ≤ sum then true else if sum < 34000 then false else s.powerHold
  .next (refreshBoard { s with powerLog := log, powerHold := hold, board := { s.board with pwr := BitVec.ofNat 16 watts } })

/-- A new EPOCH: the one drawn, which is not the one before it (R390). -/
def newEpoch (old drawn : BitVec 16) : BitVec 16 := if drawn = old then drawn + 1 else drawn

/-- The device with nothing but what its flash, its fuses, its straps, the cellar and the outside hold: in step 1 of the boot. -/
def afterReset (s : State) : State :=
  let b := s.boot
  { State.reset with
    inbox := s.inbox
    outbox := s.outbox
    fresh := s.fresh + 2
    epoch := newEpoch s.epoch (Config.epochDraw s.fresh)
    cellar := s.cellar
    cellarLink := s.cellarLink
    board := { Board.reset with wire := s.board.wire }
    boot := { Boot.reset with
      until_ := Config.bootCycles (s.fresh + 1)
      strap := b.strap
      recov := b.strap || s.board.ctrl.getLsbD 1
      wp := b.wp
      svnf := b.svnf
      slotA := b.slotA
      slotB := b.slotB
      recovery := b.recovery
      identity := b.identity
      owner := b.owner
      booted := b.booted } }

/-- The module without power: its outputs stay with the outside, and the EPOCH of its last boot, from which the next one differs (R390). -/
def powerOff (s : State) : State :=
  let t := afterReset { s with board := { Board.reset with wire := s.board.wire } }
  { t with epoch := s.epoch, boot := { t.boot with step := .off }, timers := [] }

/-- TEMPERATURE_SAMPLE: the hold of a hot die, and the power-off at 115 °C or when the inlet has been above 50 °C for ten seconds
(R430). Temperatures are in tenths of a degree. -/
def execTemperatureSample (die10 inlet10 : Nat) (s : State) : Out :=
  let hot := if 500 < inlet10 then s.hotInlet + 1 else 0
  .next (if 1150 ≤ die10 || 1000000 < hot then powerOff s
    else refreshBoard { s with
      tempHold := if 1050 ≤ die10 then true else if die10 < 1000 then false else s.tempHold
      hotInlet := hot
      board := { s.board with tdie := BitVec.ofNat 16 die10, tin := BitVec.ofNat 16 inlet10 } })

end Sys2Proof.Machine
end

