-- ==== Sys2Proof/Machine/Boot.lean ====
section
/-! DEFINITION. Power, the steps of the boot, its images and its commands (R421 to R429). -/

namespace Sys2Proof.Machine

/-! ## Areas of the flash (R422) -/

/-- The bytes of a slot. -/
def slotSize : Nat := 24 * 1048576

/-- The bytes of a signature, and of a public key. -/
def sigSize : Nat := 16224

/-- The bytes before an image's payload: MAGIC, SVN, LENGTH, digest and signature (entry 24). -/
def imageHeader : Nat := 48 + sigSize

/-- The bytes of a source: 0 slot A, 1 slot B, 2 recovery. -/
def Boot.area (b : Boot) (n : Nat) : Memory := match n with | 0 => b.slotA | 1 => b.slotB | _ => b.recovery

/-- The SVN in an image's header. -/
def imageSvn (m : Memory) : Nat := natAt m 4 2

/-- The payload of an image. -/
def imagePayload (m : Memory) : List Byte := bytesAt m imageHeader (natAt m 8 8)

/-- The owner's public key. -/
def Boot.ownerKey (b : Boot) : List Byte := bytesAt b.owner 0 48

/-- Whether the module has an owner. -/
def Boot.owned (b : Boot) : Bool := (b.ownerKey.any (fun x => x != 0))

/-- A signature over an image's header and digest by the firmware key or the owner's. -/
def imageSigned (b : Boot) (m : Memory) : Bool :=
  let sig := bytesAt m 48 sigSize
  let msg := bytesAt m 0 48
  (Config.sha256 Config.aelpinKey == Config.aelpinKeyHash && Config.slhVerify Config.aelpinKey msg sig)
    || (b.owned && Config.slhVerify b.ownerKey msg sig)

/-- Whether a source verifies (R423): the recovery image is not held against SVNF. -/
def imageOk (b : Boot) (n : Nat) : Bool :=
  let m := b.area n
  natAt m 0 4 = 0x5746594D && imageHeader + natAt m 8 8 ≤ slotSize && imageSigned b m
    && leBytes 32 (Config.sha256 (imagePayload m)).toNat == bytesAt m 16 32 && (n = 2 || b.svnf ≤ imageSvn m)

/-- The boot firmware and the monitor firmware of an image (entry 24). -/
def imageParts (m : Memory) : List Byte × List Byte :=
  let p := imagePayload m
  let n := leNat (p.take 8)
  ((p.drop 8).take n, (p.drop 8).drop n)

/-- The candidates in the order of R423. -/
def candidates (b : Boot) : List Nat := if imageSvn b.slotB ≤ imageSvn b.slotA then [0, 1, 2] else [1, 0, 2]

/-- The measurements, extended by a digest. -/
def extend (ms : List (BitVec 256)) (d : BitVec 256) : List (BitVec 256) :=
  ms ++ [Config.sha256 (leBytes 32 (ms.getLastD 0).toNat ++ leBytes 32 d.toNat)]

/-! ## Steps (R421) -/

/-- The bound of a step in reference ticks. -/
def BootStep.bound : BootStep → Option Nat
  | .step1 => some 20000000
  | .step2 => some 10000000
  | .step3 => some 150000000
  | .step4 => some 50000000
  | .step5 => some 100000000
  | _ => none

/-- The boot in a step from now on: its work takes a time that the manual leaves open, and its bound ends it. -/
def startStep (s : State) (step : BootStep) : State :=
  let t := refreshBoard { s with
    fresh := s.fresh + 1
    boot := { s.boot with step := step, since := s.cycle, until_ := s.cycle + Config.bootCycles s.fresh } }
  match step.bound with
  | some n => at' t (s.cycle + 25 * n + 1) .bootStepTimeout
  | none => t

/-- The error codes of R413. -/
def errorCodes : List Nat :=
  [0x1001, 0x1002, 0x1003, 0x1004, 0x2001, 0x2002, 0x2003, 0x3001, 0x3002, 0x3003, 0x4001, 0x4002, 0x4003, 0x4004, 0x4005, 0x4006, 0x4007,
   0x6001, 0x6002, 0x7001, 0x7002, 0x8001, 0x8002, 0x8003, 0x8004]

/-! ## Answers (R424) -/

/-- The pieces of an answer's data, at consecutive addresses. -/
def answerPieces (m : HostMsg) (status : Nat) : Nat → Nat → List Byte → List HostMsg
  | 0, _, _ => []
  | fuel + 1, a, data =>
    let p := data.take 4096
    { m with status := BitVec.ofNat 8 status, addr := BitVec.ofNat 56 a, len := BitVec.ofNat 13 p.length, data := p } ::
      (if data.length ≤ 4096 then [] else answerPieces m status fuel (a + 4096) (data.drop 4096))

/-- An answer to a boot-stage command; an error's code stands in its data as in R399. -/
def bootAnswer (s : State) (m : HostMsg) (code : Nat) (data : List Byte) : State :=
  (answerPieces m (code % 256) 64 0 (if code = 0 then data else leBytes 2 code)).foldl (fun s a => emit s (.answer a)) s

/-- The bytes that a boot-stage command needs, by its OP: a FWWRITE is performed with what has come of it, piece by piece, an OWNERSET names
the whole owner area (R422, R424, entry 24). -/
def commandNeeds (b : Boot) (op : Nat) : Nat :=
  match op with
  | 0x82 => if b.owned then 1216 + sigSize else 1216
  | 0x84 => 5
  | 0x85 => if b.owned then 65536 + sigSize else 65536
  | _ => 1

/-- The bytes of a command sent in pieces, with this piece: the whole of it once a piece of less than 4,096 bytes has come, or all that the
command needs. -/
def takePiece (s : State) (m : HostMsg) : State × Option (List Byte) :=
  let key := 256 * m.port + m.op.toNat
  let have_ := tget s.boot.pieces key []
  let all := have_.take m.addr.toNat ++ m.data
  let keep := fun (t : Table (List Byte)) => ({ s with boot := { s.boot with pieces := t } } : State)
  if have_.length < m.addr.toNat then (bootAnswer s m 0x1003 [], none)
  else if m.data.length < 4096 then (keep (tdel s.boot.pieces key), some all)
  else if commandNeeds s.boot m.op.toNat ≤ all.length then (keep (tput s.boot.pieces key all), some all)
  else (bootAnswer (keep (tput s.boot.pieces key all)) m 0 [], none)

/-- A boot-stage command that is served, once all of it has come; others are discarded. -/
def bootCommand (s : State) (m : HostMsg) (f : State → List Byte → State) : State :=
  if !bootServed s.boot || isWithdrawn s (.hport m.port) then s
  else match takePiece s m with
    | (s, some all) => f s all
    | (s, none) => s

/-! ## Booting (R423) -/

/-- A verified source boots: SVNF rises to its SVN, the measurements are extended, and step 5 begins. -/
def bootFrom (s : State) (n : Nat) : State :=
  let b := s.boot
  let p := imageParts (b.area n)
  let ms := extend (extend (extend b.measures (Config.sha256 p.1)) (Config.sha256 p.2))
    (Config.sha256 (bytesAt b.owner 0 65536))
  let s := { s with boot := { b with
    source := some n
    booted := if n < 2 then some n else b.booted
    svnf := if n < 2 then max b.svnf (imageSvn (b.area n)) else b.svnf
    measures := ms } }
  let s := if n = 2 then logError s 0 0x7002 0 (noUnit 0) 0 0 else s
  startStep s .step5

/-- A source that fails verification: a slot is recorded. -/
def rejectSource (s : State) (n : Nat) : State := if n < 2 then logError s 0 0x7001 0 (noUnit 0) (BitVec.ofNat 64 n) 0 else s

/-- The first candidate that verifies boots; the boot ends when there is none. -/
def selectImage (s : State) : List Nat → State
  | [] => refreshBoard { s with boot := { s.boot with step := .stopped } }
  | n :: rest => if imageOk s.boot n then bootFrom s n else selectImage (rejectSource s n) rest

/-- A BOOT command under RECOV, after step 4: its source is verified, and boots or is refused. -/
def obeyBoot (s : State) (m : HostMsg) (data : List Byte) : State :=
  let n := leNat (data.take 1)
  if data.isEmpty || 2 < n then bootAnswer s m 0x1003 []
  else if imageOk s.boot n then bootFrom (bootAnswer s m 0 []) n
  else bootAnswer (rejectSource s n) m 0x7001 []

/-- The BOOTs held so far, each answered in its order: obeyed while the module waits for one under RECOV, refused otherwise (R424). -/
def answerHeld (s : State) : State :=
  s.boot.held.foldl (fun s m => if s.boot.step == .waiting then obeyBoot s m m.data else bootAnswer s m 0x1003 [])
    { s with boot := { s.boot with held := [] } }

/-- BOOT: held until step 4 ends, and obeyed only under RECOV (R424). -/
def execBoot (m : HostMsg) (s : State) : Out :=
  .next (bootCommand s m (fun s data =>
    match s.boot.step with
    | .step3 => { s with boot := { s.boot with held := s.boot.held ++ [{ m with data := data }] } }
    | .step4 => { s with boot := { s.boot with held := s.boot.held ++ [{ m with data := data }] } }
    | .waiting => obeyBoot s m data
    | _ => bootAnswer s m 0x1003 []))

/-- BOOT_STEP_TIMEOUT: a step that has exceeded its bound ends the boot, with an error record; which of the codes of R413 it carries the manual
does not state. A BOOT held until now is refused. -/
def execBootStepTimeout (s : State) : Out :=
  .next (match s.boot.step.bound with
    | some n =>
      if s.boot.since + 25 * n < s.cycle then
        let c := freeOf s
        logError (answerHeld (refreshBoard { c.2 with boot := { c.2.boot with step := .stopped } })) 0 (errorCodes.getD (c.1.toNat % errorCodes.length) 0) 0 (noUnit 0) 0 0
      else s
    | none => s)

/-! ## The self-test (R428) -/

/-- Whether a unit exists (R11). -/
def HwUnit.exists_ : HwUnit → Bool
  | .plot d c k => d < 8 && c < 32 && k < 12
  | .core d c => d < 8 && c < 32
  | .poolGroup d g => d < 8 && g < 16
  | .pch h p => h < 4 && p < 288
  | .link d h => d < 8 && h < 4
  | .fport h f => h < 4 && f < 4
  | .bank d b => d < 8 && b < 80
  | .hport p => p < 2
  | .pair d => d < 8

/-- A unit fenced with its reserve slot; none where the slot is lacking. -/
def fenceUnit (s : State) (u : HwUnit) : Option State :=
  if isWithdrawn s u then some s
  else
    let bytes := slotBytes u
    (if bytes = 0 then some none else (findSlot s bytes).map some).map (fun slot =>
      { s with
        withdrawn := s.withdrawn ++ [{ hw := u, state := .fenced, slot := slot, holds := [], score := 0, until_ := 0, bad := false }]
        reserve := match slot with | some pa => s.reserve ++ [(pa, bytes)] | none => s.reserve
        fencedPairs := match u with | .pair d => s.fencedPairs ++ [d] | _ => s.fencedPairs })

/-- What is fenced where a unit fails the self-test: a bank's group with it (R411). -/
def fencedWith (u : HwUnit) : HwUnit :=
  match u with
  | .bank d b => .poolGroup d (if b < 64 then b / 4 else b - 64)
  | u => u

/-- A unit that fails the self-test is fenced, and named by a record; the flag says that its reserve slot is lacking. -/
def failUnit (r : State × Bool) (u : HwUnit) : State × Bool :=
  match fenceUnit r.1 (fencedWith u) with
  | none => (r.1, true)
  | some s => (logError s (unitDie u) 0x4006 0 (errUnitOf u) 0 0, r.2)

/-- A core die that fails: every core out of service, or a link to a hub fenced (R411). -/
def dieFails (s : State) (d : Nat) : Bool :=
  dieOut s d

/-- Step 3 ends: the units that failed are fenced; with no core die left, or a slot lacking, the boot ends. -/
def endSelfTest (s : State) : State :=
  let bad := ((Config.selfTestFails s.fresh).filter HwUnit.exists_).eraseDups
  let r := bad.foldl failUnit ({ s with fresh := s.fresh + 1 }, false)
  let s := { r.1 with boot := { r.1.boot with selftest := bad.length } }
  if r.2 || (List.range 8).all (dieFails s) then
    answerHeld (refreshBoard (logError { s with boot := { s.boot with step := .stopped } } 0 0x4007 0 (noUnit 0) 0 0))
  else startStep s .step4

/-! ## Handoff (R425) -/

/-- Handoff: the device answers UCT on the ports that hold keys in that cycle; a port that gets its link and its key later stays closed until the
next boot (R425). -/
def handOff (s : State) : State :=
  refreshBoard { s with boot := { s.boot with step := .running, open_ := (List.range 2).filter (fun p => (tfind s.boot.keys p).isSome) } }

/-- Whether a port alone has held keys long enough, the other having no link. -/
def aloneReady (s : State) (p : Nat) : Bool :=
  (match tfind s.boot.keysAt p with | some t => decide (t + 25000000 ≤ s.cycle) | none => false)
    && (tfind s.boot.keys (1 - p)).isNone && !hostPortUp s (1 - p)

/-- Handoff when it is due in step 6. -/
def tryHandoff (s : State) : State :=
  if s.boot.step == .handoff
      && (((tfind s.boot.keys 0).isSome && (tfind s.boot.keys 1).isSome) || aloneReady s 0 || aloneReady s 1) then handOff s
  else s

/-- HANDOFF_TIMEOUT: one port has held keys for 1,000,000 ticks while the other has no link. -/
def execHandoffTimeout (s : State) : Out := .next (tryHandoff s)

/-- Step 5 ends: every control pair has the monitor firmware, and its control core, with no context to run, is in graph mode
(entry 25). -/
def loadFirmware (s : State) : State :=
  let fw := writeBytes [] 0 (imageParts (s.boot.area (s.boot.source.getD 0))).2
  (List.range 8).foldl (fun s d => onCtl s d (fun c => { c with firmware := fw, monitor := false, mon := Ctx.free })) s

/-- The work of the boot's step done: the next step begins. -/
def endStep (s : State) : State :=
  match s.boot.step with
  | .step1 => startStep s .step2
  | .step2 => startStep { s with boot := { s.boot with measures := extend [] Config.romDigest } } .step3
  | .step3 => endSelfTest s
  | .step4 =>
    if s.boot.recov then answerHeld (refreshBoard { s with boot := { s.boot with step := .waiting } })
    else selectImage (answerHeld s) (candidates s.boot)
  | .step5 => tryHandoff (startStep (loadFirmware s) .handoff)
  | _ => s

/-- The boot looked at in a cycle. -/
def bootPoll (s : State) : State :=
  if s.boot.step.bound.isSome && s.boot.until_ ≤ s.cycle then endStep s else s

/-! ## Power (R421, R424, R429) -/

/-- POWER_ON: the module starts at step 1; its CYCLE counts from here. -/
def execPowerOn (s : State) : Out :=
  .next (if s.boot.step == .off then refreshBoard (afterReset s) else s)

/-- POWER_LOSS: all state is lost but what the flash, the fuses and the cellar hold. -/
def execPowerLoss (s : State) : Out := .next (powerOff s)

/-- CTRL with a byte that the board's bus has written; the byte of the next write is not known yet (entry 104). -/
def putCtrl (s : State) (v : BitVec 8) : State :=
  { s with fresh := s.fresh + 1, board := { s.board with ctrl := v, wire := Config.boardByte s.fresh } }

/-- BOARD_RESET: a write of CTRL with bit 0 set, its other bits those on the board's bus (`wire`). The module starts at step 1, with
RECOV sampled; CYCLE, which counts from power-on, goes on. -/
def execBoardReset (s : State) : Out :=
  .next (if s.boot.step == .off then s
    else startStep { afterReset (putCtrl s (s.board.wire ||| 1)) with cycle := s.cycle, timers := [] } .step1)

/-- BOARD_RECOV_REQUEST: a write of CTRL with the byte on the board's bus: bit 1 set requests recovery at the next reset, bit 1 clear
takes the request back, and bit 0 set is that reset. -/
def execBoardRecovRequest (s : State) : Out :=
  if s.board.wire.getLsbD 0 then execBoardReset s else .next (putCtrl s s.board.wire)

/-! ## Commands (R424 to R426) -/

/-- HELLO: the identity public key, the boot's state, SVNF and the self-test summary. -/
def execHello (m : HostMsg) (s : State) : Out :=
  .next (bootCommand s m (fun s _ =>
    bootAnswer s m 0 (bytesAt s.boot.identity 0 48 ++ leBytes 1 s.boot.step.code ++ leBytes 2 s.boot.svnf ++ leBytes 8 s.boot.selftest)))

/-- The attestation report, signed with the device identity key (R426). -/
def attestation (b : Boot) (nonce : List Byte) (key : BitVec 256) : List Byte :=
  let body := leBytes 32 (Config.sha256 (bytesAt b.identity 0 48)).toNat
    ++ (List.range 4).flatMap (fun i => leBytes 32 (b.measures.getD i 0).toNat) ++ leBytes 2 b.svnf ++ leBytes 8 b.selftest ++ nonce
    ++ leBytes 32 (Config.sha256 (leBytes 32 key.toNat)).toNat
  body ++ Config.identitySign body

/-- The label of the connectivity key: "myllidon cak". -/
def cakLabel : List Byte := [0x6D, 0x79, 0x6C, 0x6C, 0x69, 0x64, 0x6F, 0x6E, 0x20, 0x63, 0x61, 0x6B]

/-- KEYX: the connectivity key of a port, and the attestation report; on an owned module the owner's signature must hold. -/
def execKeyx (m : HostMsg) (s : State) : Out :=
  .next (bootCommand s m (fun s data =>
    let b := s.boot
    if data.length < 1216 then bootAnswer s m 0x1003 []
    else if b.owned && !Config.slhVerify b.ownerKey (data.take 1216) (data.drop 1216) then bootAnswer s m 0x1110 []
    else
      let nonce := data.take 32
      let e := Config.mlkemEncap s.fresh ((data.drop 32).take 1184)
      let key := Config.hkdf e.2 nonce cakLabel
      let s := { s with
        fresh := s.fresh + 1
        boot := { b with keys := tput b.keys m.port key, keysAt := tput b.keysAt m.port s.cycle } }
      let s := bootAnswer s m 0 (e.1 ++ attestation b nonce key)
      tryHandoff (at' s (s.cycle + 25000000) .handoffTimeout)))

/-- FWWRITE: bytes into a slot at an offset; the slot that booted last is refused (R424). -/
def execFwwrite (m : HostMsg) (s : State) : Out :=
  .next (bootCommand s m (fun s data =>
    let n := leNat (data.take 1)
    let off := leNat ((data.drop 1).take 4)
    let bs := data.drop 5
    let b := s.boot
    if data.length < 5 || 1 < n || slotSize < off + bs.length || b.booted == some n then bootAnswer s m 0x1003 []
    else
      bootAnswer { s with boot := if n = 0 then { b with slotA := writeBytes b.slotA off bs } else { b with slotB := writeBytes b.slotB off bs } }
        m 0 []))

/-- OWNERSET: a new owner area, signed by the current owner key when one is set. -/
def execOwnerset (m : HostMsg) (s : State) : Out :=
  .next (bootCommand s m (fun s data =>
    let b := s.boot
    let n := if b.owned then data.length - sigSize else data.length
    if 65536 < n then bootAnswer s m 0x1003 []
    else if b.owned && (data.length < sigSize || !Config.slhVerify b.ownerKey (data.take n) (data.drop n)) then bootAnswer s m 0x1110 []
    else bootAnswer { s with boot := { b with owner := writeBytes [] 0 (data.take n) } } m 0 []))

end Sys2Proof.Machine
end

