-- ==== Sys2Proof/Machine/Ckpt.lean ====
section
/-! DEFINITION. The checkpoint to the cellar and the resumption from it (R418 to R420, R427). -/

namespace Sys2Proof.Machine

/-! ## Steps 1 to 3 (R418, R420) -/

/-- Whether the answer of an RPOST or of a remote CANCEL is still awaited. -/
def remoteAwaited (s : State) : Bool :=
  s.ops.any (fun o => match o.user with | .rpost _ _ _ => true | .cancel _ _ _ => true | _ => false)

/-- An uncommitted task that runs or is dispatched goes back to READY, all its shards with it, its REPLAYS unchanged. -/
def discardTask (s : State) (w : Nat) (e : Entry) : State :=
  if e.pending.isSome || recFold e.recd || e.shards.any (fun y => y.committed) || !(e.state == .running || e.state == .dispatched) then s
  else
    let s :=
      if e.state == .running then returnTask s w e.serial
      else onEntry (unfillShadows (stopShards s w e.serial) w e.serial) w e.serial
        (fun e => { e with state := .ready, readyAt := s.cycle })
    onEntry s w e.serial (fun e => { e with
      shards := e.shards.map (fun y => if y.state == .ended then { y with state := .waiting } else y) })

/-- Every uncommitted task of the device discarded. -/
def discardAll (s : State) : State :=
  (List.range 8).foldl (fun s w => (dieOf s w).entries.foldl (fun s e => discardTask s w e) s) s

/-- Whether a record is at rest: checked, and READY or held by an edge. -/
def Entry.atRest (e : Entry) : Bool :=
  e.checked && e.pending.isNone && (e.state == .waiting || e.state == .ready)

/-- Whether nothing runs any more that changes memory: no core, no engine command, no copy, no write on its way, nothing awaited from another
device, no operation of another device and no shootdown in progress (R418, R420). -/
def quiet (s : State) : Bool :=
  s.cores.all (fun p => p.2.task.isNone && p.2.cmds.isEmpty && p.2.landings.isEmpty)
    && s.dies.all (fun p => p.2.entries.all Entry.atRest)
    && s.writes.isEmpty && s.making.isEmpty && s.mcasts.all (fun o => !o.sent && ((coreOf s o.die o.core).cmdOf o.cmd).isNone) && s.ops.isEmpty && s.served.isEmpty && s.shoots.isEmpty
    && s.flows.all (fun p => p.2.stall.isEmpty) && s.listRecv.all (fun p => p.2.stall.isEmpty)

/-- The checkpoint looked at in a cycle. -/
def ckptPoll (s : State) : State :=
  match s.ckpt with
  | none => s
  | some k =>
    if k.step = 1 then (if remoteAwaited s then s else { s with ckpt := some { k with step := 2 } })
    else if k.step = 2 then { discardAll s with ckpt := some { k with step := 3 } }
    else if k.step = 3 && quiet s then later s (.ev .ckptStreamStart)
    else s

/-! ## Step 4 (R418, R419, R427) -/

/-- The slot of the last complete image. -/
def lastImage (s : State) : Option Nat :=
  match tfind s.cellar 0, tfind s.cellar 1 with
  | some a, some b =>
    if a.complete && (!b.complete || b.number ≤ a.number) then some 0 else if b.complete then some 1 else none
  | some a, none => if a.complete then some 0 else none
  | none, some b => if b.complete then some 1 else none
  | none, none => none

/-- Memory as the image holds it: a poisoned burst's bytes are zero. -/
def imageMem (s : State) : Memory :=
  s.poison.foldl (fun m p => writeBytes m p (List.replicate (poisonUnit p).2 0)) s.mem

/-- The image of the device in this cycle, with memory as the stream reads it (R418). -/
def imageOf (s : State) (k : Ckpt) (m : Memory) : Image :=
  { ident := k.ident, launches := s.launches, tick := tickOf s.cycle, mem := m, dies := s.dies, spaces := s.spaces,
    hscore := s.hscore, fscore := s.fscore, cells := s.cells, joiners := k.joiners,
    number := 1 + (s.cellar.foldl (fun m p => max m p.2.number) 0), complete := false }

/-- The target that the owner area names: IPv6 address, TCP port, namespace ID and subsystem NQN (R427; their places are entry 23). -/
structure CellarTarget where
  address   : List Byte
  tcpPort   : Nat
  nameSpace : Nat
  nqn       : List Byte
  deriving DecidableEq, Repr

/-- The target that the owner area names, if it names one; no TCP port is the default one. -/
def cellarTarget (b : Boot) : Option CellarTarget :=
  let a := bytesAt b.owner 48 16
  let p := natAt b.owner 64 2
  if a.all (fun x => x == 0) then none
  else some { address := a, tcpPort := if p = 0 then 4420 else p, nameSpace := natAt b.owner 66 4, nqn := (bytesAt b.owner 70 223).takeWhile (fun x => x != 0) }

/-- How a stream ends: a lost host port moves it to the other; a target that the owner area does not name, or that does not answer, is missing
(R419, R427). -/
def streamEnd (s : State) : CkptEnd :=
  if !streamPort s 0 && !streamPort s 1 then .portsLost
  else if (cellarTarget s.boot).isNone then .unreachable
  else match s.cellarLink with
    | .up => .complete
    | .unreachable => .unreachable
    | .failing => .writeFailed

/-- The injections armed on banks and channels, which the stream's read of all memory uses: the first burst of each, found corrected, rebuilt, or
uncorrectable, whose bytes are then zero in the image (R416, R419). -/
def streamErrors (s : State) : Memory × State :=
  ((s.injPool.map (fun (p : Nat × Nat) => poolBase (p.1 / 64) + p.1 % 64 * 256)) ++ (s.injHub.map (fun (p : Nat × (Nat × Nat)) => p.1 * 256))).foldl (fun (r : Memory × State) pa =>
    let e := readErrors r.2 pa 1
    (if e.1 == .uncorrectable then writeBytes r.1 (poisonUnit pa).1 (List.replicate (poisonUnit pa).2 0) else r.1, e.2)) (imageMem s, s)

/-- CKPT_STREAM_START: the image of this cycle goes to the slot that does not hold the last complete one; each poisoned word read is
recorded. A stream that finds no port or no target writes nothing of that slot. When the stream ends is open. -/
def execCkptStreamStart (s : State) : Out :=
  .next (match s.ckpt with
  | none => s
  | some k =>
    if k.step ≠ 3 || !quiet s then s
    else
      let slot := match lastImage s with | some n => 1 - n | none => 0
      let read := streamErrors s
      let image := imageOf s k read.1
      let s := s.poison.foldl (fun s p =>
        logError s (unitDie (unitOfPa p)) 0x4002 0 (errUnitOf (unitOfPa p)) (BitVec.ofNat 64 p) (scoreOf s (unitOfPa p))) read.2
      let long := freeOf s
      let s := { long.2 with
        ckpt := some { k with step := 4, slot := slot }
        cellar := (match streamEnd s with
          | .unreachable => s.cellar
          | .portsLost => s.cellar
          | _ => tput s.cellar slot image) }
      at' s (s.cycle + 1 + long.1.toNat % 9680000000)
        (.ckptStreamEnd (streamEnd s)))

/-- The error code of the end of a stream (R413). -/
def streamCode : CkptEnd → Nat
  | .complete => 0
  | .unreachable => 0x8001
  | .writeFailed => 0x8002
  | .portsLost => 0x8003

/-- CKPT_STREAM_END, which only one end of a stream is: the header, written last, makes a complete image; dispatch and contexts resume, and every context that waits for the checkpoint
gets its result: the error code, and the cycles spent (R127). -/
def execCkptStreamEnd (outcome : CkptEnd) (s : State) : Out :=
  .next (match s.ckpt with
  | none => s
  | some k =>
    if k.step ≠ 4 then s
    else
      let s := { s with
        ckpt := none
        timers := s.timers.filter (fun t => match t.2 with | .ckptStreamEnd _ => false | _ => true)
        cellar := (match tfind s.cellar k.slot with
          | some im => if outcome == .complete then tput s.cellar k.slot { im with complete := true } else s.cellar
          | none => s.cellar) }
      let v := fieldAt (streamCode outcome) 0 ||| fieldAt ((s.cycle - k.since) % 2 ^ 48) 16
      k.joiners.foldl (fun s j => ccDeliver s j.1 j.2.1 s.cycle [.cc j.2.1 j.2.2 v]) s)

/-! ## Resumption (R427) -/

/-- A cycle of an image's device as a cycle of this one. -/
def shifted (was now t : Nat) : Nat := t + now - was

/-- A wait of a context with its deadline moved. -/
def CtxWait.shift (was now : Nat) : CtxWait → CtxWait
  | .serial n p dl => .serial n p (dl.map (shifted was now))
  | .conds a ws p dl => .conds a ws p (dl.map (shifted was now))
  | w => w

/-- A context resumed. -/
def Ctx.resume (x : Ctx) (was now : Nat) : Ctx := { x with wait := x.wait.shift was now, ready := now + 1 }

/-- An outward action resumed: what its store had to follow was performed before the image was made. -/
def Outward.resume (o : Outward) (now : Nat) : Outward :=
  { o with due := now + 1, act := (match o.act with
    | .store asid va ps kind rel _ => .store asid va ps kind rel .zero
    | a => a) }

/-- The control core of a die with the contexts of an image, their results still to land and their outward actions; the monitor stays as
it is. -/
def Ctl.resume (now : Nat) (c k : Ctl) (was : Nat) : Ctl :=
  { c with
    ctx := k.ctx
    ctxs := k.ctxs.map (fun p => (p.1, p.2.resume was now))
    landings := c.landings ++ (k.landings.filter (fun l => !l.writes.any (RegWrite.ofSet 8))).map (fun l => { l with due := now + 1 })
    outward := c.outward ++ (k.outward.filter (fun o => o.set != 8)).map (fun o => o.resume now)
    shadows := k.shadows.foldl (fun t p => if p.1 = 8 then t else tput t p.1 p.2) c.shadows }

/-- A die with the window, letterbox, contexts, routing counters and scores of an image. -/
def Die.resume (now was : Nat) (x y : Die) : Die :=
  { y with
    ctl := x.ctl.resume now y.ctl was
    entries := y.entries.map (fun e => { e with readyAt := now, gangReady := e.gangReady.map (fun _ => now) })
    stalled := y.stalled.map (fun p => { p with since := now })
    tlb := [], errors := x.errors, errcnt := x.errcnt, inj := x.inj, injmem := x.injmem, testrec := x.testrec,
    routeFree := now, gangHold := [] }

/-- The device with an image's state, and its contexts with the result of the checkpoint. -/
def resumeFrom (s : State) (im : Image) : State :=
  let was := 25 * im.tick
  let now := s.cycle
  let s := { s with
    mem := im.mem, poison := [], launches := im.launches, spaces := im.spaces, hscore := im.hscore, fscore := im.fscore, cells := im.cells
    launchNo := im.launches.foldl (fun m l => max m l.number) s.launchNo
    dies := im.dies.foldl (fun t p => tput t p.1 ((dieOf s p.1).resume now was p.2)) s.dies }
  let s := im.dies.foldl (fun s p =>
    let s := at' (at' s (now + 1) (.checkerMatch p.1 true)) (now + 1) (.resultLand (.ctl p.1))
    p.2.entries.foldl (fun s e => if e.gangReady.isSome && e.lead = e.serial
      then at' s (now + 1048576) (.gangFairnessTimeout p.1 e.serial) else s) s) s
  let free := freeOf s
  let v := fieldAt (bits free.1 47 0) 16
  im.joiners.foldl (fun s j => ccDeliver s j.1 j.2.1 (now + 1) [.cc j.2.1 j.2.2 v]) free.2

/-- RESUME: a complete image of the cellar is restored once step 5 has brought the memory up, from the target that the owner area names, through
a host port that has a link (R427). -/
def execResume (m : HostMsg) (s : State) : Out :=
  .next (bootCommand s m (fun s data =>
    if !hostPortUp s 0 && !hostPortUp s 1 then bootAnswer s m 0x8003 []
    else if (cellarTarget s.boot).isNone || s.cellarLink == .unreachable then bootAnswer s m 0x8001 []
    else match tfind s.cellar (leNat (data.take 1)) with
    | none => bootAnswer s m 0x8001 []
    | some im =>
      if data.isEmpty || !im.complete || !(s.boot.step == .handoff || s.boot.step == .running) || s.launches.any (fun l => !l.done) then
        bootAnswer s m 0x1003 []
      else bootAnswer (resumeFrom s im) m 0 []))

end Sys2Proof.Machine
end

