-- ==== Sys2Proof/Machine/XpConvert.lean ====
section
/-! DEFINITION. Execute processor: conversions between element types, block-scaled elements and bit planes (R176 to R179). -/

namespace Sys2Proof.Machine

/-- Conversion from ST to TY: widening reads part PART of A and writes D whole, narrowing writes part PART of D alone (R176). -/
def execVcvt (h : Hdr) (f : F3) (s : State) : Out :=
  let d := drawOf s s.core
  xpLand h s 4 (fun c => do
    let st : BitVec 3 := f.c.extractLsb' 0 3
    let part := f.c.toNat / 8 % 8
    let xfl := f.c.getLsbD 6
    let src := elemOf st (fl8 c 1 != xfl)
    let dst := elemIn c f.ty
    let zs := src.bytes
    let zd := dst.bytes
    let n := 256 / max zs zd
    let a ← vLanes c zs f.a
    if zs < zd then
      vResult c f.d (ofLanes zd (List.zipWith (fun i x => convertElem src dst f.rm (d.word i 0) x)
        (List.range n) (a.drop (part * n))))
    else
      let ys := List.zipWith (fun i x => convertElem src dst f.rm (d.word (part * n + i) 0) x) (List.range n) a
      resultWrites c 1 f.d (leBytes (n * zd) (packLanes zd ys)) (part * n * zd))

/-- An f32 value on the grid of a type, as f32 (R177). -/
def roundToGrid (ty : BitVec 3) (e : Elem) (rm : BitVec 2) (r x : Nat) : Nat :=
  let v := decodeF .f32 x
  if ty = 6 then (if v.isNan then Fmt.f32.nan else x)
  else match e with
    | .flt t => roundF .f32 .rne 0 (decodeF t (roundF t (Round.of rm) r v))
    | .int w =>
      let top : Int := 2 ^ (w - 1)
      match v with
      | .nan => Fmt.f32.nan
      | .inf neg => roundF .f32 .rtz 0 (intV (if neg then -top else top - 1))
      | .fin neg m k => roundF .f32 .rtz 0 (intV (max (-top) (min (top - 1) (roundInt (Round.of rm) r neg m k))))

/-- Each f32 lane rounded to the grid of TY and kept as f32 (R177). -/
def execVsrnd (h : Hdr) (f : F3) (s : State) : Out :=
  let d := drawOf s s.core
  xpLand h s 4 (fun c => do
    let a ← vLanes c 4 f.a
    vResult c f.d (ofLanes 4 (List.zipWith (fun i x => roundToGrid f.ty (elemIn c f.ty) f.rm (d.word i 0) x)
      (List.range 64) a)))

/-- The page format code of block-scaled elements in registers: FP8 by the flavour of vw1, or i8 (R178). -/
def blockCode (c : Core) (ty : BitVec 3) : Nat := if ty = 0 then 13 else if fl8 c 1 then 12 else 11

/-- 64 f32 lanes encoded as two blocks: 64 element bytes of D and two scale bytes of s[B] (R178). -/
def execVquant (h : Hdr) (f : F3) (s : State) : Out :=
  let d := drawOf s s.core
  xpLand h s 4 (fun c => do
    let part := f.c.toNat % 4
    let a ← vLanes c 4 f.a
    let vs := a.map (decodeF .f32)
    let code := blockCode c f.ty
    let lo := encodeBlockIn code f.rm (fun i => d.word (64 * part + i) 0) (vs.take 32)
    let hi := encodeBlockIn code f.rm (fun i => d.word (64 * part + 32 + i) 0) (vs.drop 32)
    let o ← slotOf c 0 f.b.toNat
    let ws ← resultWrites c 1 f.d (lo.2 ++ hi.2) (64 * part)
    some (ws ++ [.space (o + 2 * part) [BitVec.ofNat 8 lo.1, BitVec.ofNat 8 hi.1]]))

/-- 64 block-scaled elements decoded to f32 lanes (R178). -/
def execVdeq (h : Hdr) (f : F3) (s : State) : Out :=
  xpLand h s 4 (fun c => do
    let part := f.c.toNat % 4
    let a ← vLanes c 1 f.a
    let o ← slotOf c 0 f.b.toNat
    let scale (i : Nat) := (byteAt c.space (o + 2 * part + i / 32)).toNat
    vResult c f.d (ofLanes 4 (List.zipWith
      (fun i x => roundF .f32 .rne 0 (blockValue (blockCode c f.ty) (scale i) x)) (List.range 64) (a.drop (64 * part)))))

/-- 256 i8 lanes as a bit-plane block of eight planes (R179). -/
def execVplane (h : Hdr) (f : F3) (s : State) : Out :=
  xpLand h s 3 (fun c => do
    let a ← vLanes c 1 f.a
    vResult c f.d (vecOf (encodePlanes 8 a)))

/-- A bit-plane block read over its first planes into i8 lanes (R179). -/
def execVunplane (h : Hdr) (f : F3) (s : State) : Out :=
  xpLand h s 3 (fun c => do
    let a ← vSrcOf c f.a
    let bs := vecBytes a
    vResult c f.d (ofLanes 1 ((List.range 256).map (planeValue 8 (f.c.toNat % 16) bs))))

end Sys2Proof.Machine
end

