-- ==== Sys2Proof/Machine/XpFloat.lean ====
section
/-! DEFINITION. Execute processor: vector floating-point words (R174, R175). -/

namespace Sys2Proof.Machine

/-- Each lane: A + B, rounded once (R174). -/
def execVfadd (h : Hdr) (f : F3) (s : State) : Out :=
  xpFlt2 h f s 4 addV

/-- Each lane: A − B, rounded once (R174). -/
def execVfsub (h : Hdr) (f : F3) (s : State) : Out :=
  xpFlt2 h f s 4 (fun a b => addV a (negV b))

/-- Each lane: A·B, rounded once (R174). -/
def execVfmul (h : Hdr) (f : F3) (s : State) : Out :=
  xpFlt2 h f s 4 mulV

/-- Each lane: A·B + C, rounded once (R174). -/
def execVfma (h : Hdr) (f : F3) (s : State) : Out :=
  xpFlt3 h f s 5 (fun a b k => addV (mulV a b) k)

/-- Each lane: A·B − C, rounded once (R174). -/
def execVfms (h : Hdr) (f : F3) (s : State) : Out :=
  xpFlt3 h f s 5 (fun a b k => addV (mulV a b) (negV k))

/-- Each lane: the minimum (R76, R174). -/
def execVfmin (h : Hdr) (f : F3) (s : State) : Out :=
  xpFlt2 h f s 2 minV

/-- Each lane: the maximum (R76, R174). -/
def execVfmax (h : Hdr) (f : F3) (s : State) : Out :=
  xpFlt2 h f s 2 maxV

/-- Each lane: A with the sign cleared (R174). -/
def execVfabs (h : Hdr) (f : F3) (s : State) : Out :=
  xpVec1 h f s 2 (fun e _ a => e.pack 0 0 (absV (e.value false a)))

/-- Each lane: A with the sign inverted (R174). -/
def execVfneg (h : Hdr) (f : F3) (s : State) : Out :=
  xpVec1 h f s 2 (fun e _ a => e.pack 0 0 (negV (e.value false a)))

/-- Each f32 lane: the reciprocal (R175). -/
def execVfrcp (h : Hdr) (f : F3) (s : State) : Out :=
  xpVec1 h f s 8 (fun _ _ a => divF .f32 .rne 0 (.fin false 1 0) (decodeF .f32 a))

/-- Each f32 lane: the reciprocal square root (R175). -/
def execVfrsq (h : Hdr) (f : F3) (s : State) : Out :=
  xpVec1 h f s 8 (fun _ _ a => rsqrtF .f32 (decodeF .f32 a))

/-- Each f32 lane: 2^x (R175). -/
def execVfexp2 (h : Hdr) (f : F3) (s : State) : Out :=
  xpVec1 h f s 10 (fun _ _ a => exp2F .f32 (decodeF .f32 a))

/-- Each f32 lane: log2 x (R175). -/
def execVflog2 (h : Hdr) (f : F3) (s : State) : Out :=
  xpVec1 h f s 10 (fun _ _ a => log2F .f32 (decodeF .f32 a))

/-- Each f32 lane: the square root (R175). -/
def execVfsqrt (h : Hdr) (f : F3) (s : State) : Out :=
  xpVec1 h f s 12 (fun _ _ a => sqrtF .f32 (decodeF .f32 a))

/-- Each f32 lane: A/B (R175). -/
def execVfdiv (h : Hdr) (f : F3) (s : State) : Out :=
  xpVec2 h f s 14 (fun _ _ a b => divF .f32 .rne 0 (decodeF .f32 a) (decodeF .f32 b))

end Sys2Proof.Machine
end

