-- ==== Sys2Proof/Machine/XpInt.lean ====
section
/-! DEFINITION. Execute processor: vector integer and shift words (R170, R171). -/

namespace Sys2Proof.Machine

/-- Each lane: A + B under RM (R170). -/
def execVadd (h : Hdr) (f : F3) (s : State) : Out :=
  xpInt2 h f s 2 (fun a b => a + b)

/-- Each lane: A − B under RM (R170). -/
def execVsub (h : Hdr) (f : F3) (s : State) : Out :=
  xpInt2 h f s 2 (fun a b => a - b)

/-- Each lane: A·B under RM (R170). -/
def execVmul (h : Hdr) (f : F3) (s : State) : Out :=
  xpInt2 h f s 4 (fun a b => a * b)

/-- Each lane: the high half of the signed product (R170). -/
def execVmulh (h : Hdr) (f : F3) (s : State) : Out :=
  xpVec2 h f s 4 (fun e _ a b =>
    let w := 8 * e.bytes
    wrapInt w (signedOf w a * signedOf w b / 2 ^ w))

/-- Each lane: the signed minimum (R170). -/
def execVmin (h : Hdr) (f : F3) (s : State) : Out :=
  xpVec2 h f s 2 (fun e _ a b => let w := 8 * e.bytes; if signedOf w a ≤ signedOf w b then a else b)

/-- Each lane: the signed maximum (R170). -/
def execVmax (h : Hdr) (f : F3) (s : State) : Out :=
  xpVec2 h f s 2 (fun e _ a b => let w := 8 * e.bytes; if signedOf w a ≤ signedOf w b then b else a)

/-- Each lane: the unsigned minimum (R170). -/
def execVminu (h : Hdr) (f : F3) (s : State) : Out :=
  xpVec2 h f s 2 (fun _ _ a b => min a b)

/-- Each lane: the unsigned maximum (R170). -/
def execVmaxu (h : Hdr) (f : F3) (s : State) : Out :=
  xpVec2 h f s 2 (fun _ _ a b => max a b)

/-- Bitwise AND (R170). -/
def execVand (h : Hdr) (f : F3) (s : State) : Out :=
  xpVec2 h f s 2 (fun _ _ a b => a &&& b)

/-- Bitwise OR (R170). -/
def execVor (h : Hdr) (f : F3) (s : State) : Out :=
  xpVec2 h f s 2 (fun _ _ a b => a ||| b)

/-- Bitwise XOR (R170). -/
def execVxor (h : Hdr) (f : F3) (s : State) : Out :=
  xpVec2 h f s 2 (fun _ _ a b => a ^^^ b)

/-- Each lane: the absolute difference under RM (R170). -/
def execVabsd (h : Hdr) (f : F3) (s : State) : Out :=
  xpInt2 h f s 2 (fun a b => ((a - b).natAbs : Int))

/-- Each lane: A·2^c under RM, c the unsigned lane of B (R171). -/
def execVshl (h : Hdr) (f : F3) (s : State) : Out :=
  xpVec2 h f s 2 (fun e _ a b =>
    let w := 8 * e.bytes
    -- from c = w on the result under each RM no longer depends on c
    narrowInt w f.rm (intIn w f.rm a * 2 ^ min b w))

/-- Each lane: A shifted right with zero fill (R171). -/
def execVshr (h : Hdr) (f : F3) (s : State) : Out :=
  xpVec2 h f s 2 (fun e _ a b => a / 2 ^ min b (8 * e.bytes))

/-- Each lane: A shifted right with sign fill (R171). -/
def execVsar (h : Hdr) (f : F3) (s : State) : Out :=
  xpVec2 h f s 2 (fun e _ a b =>
    let w := 8 * e.bytes
    wrapInt w (signedOf w a / 2 ^ min b w))

/-- Each lane: A above B, shifted left by C, the high half (R171). -/
def execVfshl (h : Hdr) (f : F3) (s : State) : Out :=
  xpVec3 h f s 2 (fun e _ a b k =>
    let w := 8 * e.bytes
    let n := min k w
    (a * 2 ^ n ||| b / 2 ^ (w - n)) % 2 ^ w)

/-- Each lane: A above B, shifted right by C, the low half (R171). -/
def execVfshr (h : Hdr) (f : F3) (s : State) : Out :=
  xpVec3 h f s 2 (fun e _ a b k =>
    let w := 8 * e.bytes
    let n := min k w
    (b / 2 ^ n ||| a * 2 ^ (w - n)) % 2 ^ w)

/-- Each lane: the leading zero bits of A (R171). -/
def execVclz (h : Hdr) (f : F3) (s : State) : Out :=
  xpVec1 h f s 2 (fun e _ a => if a = 0 then 8 * e.bytes else 8 * e.bytes - 1 - a.log2)

/-- Each lane: the 1 bits of A (R171). -/
def execVpopc (h : Hdr) (f : F3) (s : State) : Out :=
  xpVec1 h f s 2 (fun e _ a => ((List.range (8 * e.bytes)).filter (fun i => a.testBit i)).length)

end Sys2Proof.Machine
end

