-- ==== Sys2Proof/Machine/XpMask.lean ====
section
/-! DEFINITION. Execute processor: vector compares and mask words (R172, R173). -/

namespace Sys2Proof.Machine

/-- m[D] = the relation EQ of the lanes (R172). -/
def execVcmpEq (h : Hdr) (f : F3) (s : State) : Out :=
  xpCompare h f s .eq

/-- m[D] = the relation NE of the lanes (R172). -/
def execVcmpNe (h : Hdr) (f : F3) (s : State) : Out :=
  xpCompare h f s .ne

/-- m[D] = the relation LT of the lanes (R172). -/
def execVcmpLt (h : Hdr) (f : F3) (s : State) : Out :=
  xpCompare h f s .lt

/-- m[D] = the relation LE of the lanes (R172). -/
def execVcmpLe (h : Hdr) (f : F3) (s : State) : Out :=
  xpCompare h f s .le

/-- m[D] = the relation LTU of the lanes (R172). -/
def execVcmpLtu (h : Hdr) (f : F3) (s : State) : Out :=
  xpCompare h f s .ltu

/-- m[D] = the relation LEU of the lanes (R172). -/
def execVcmpLeu (h : Hdr) (f : F3) (s : State) : Out :=
  xpCompare h f s .leu

/-- Bytes of A where m[C] is 1, else of B (R173). -/
def execVsel (h : Hdr) (f : F3) (s : State) : Out :=
  xpLand h s 2 (fun c => do
    let a ← vSrcOf c f.a
    let b ← vSrcOf c f.b
    vResult c f.d (blend (c.xmGet f.c.toNat) a b))

/-- A mask result (R173). -/
def xpMaskResult (h : Hdr) (f : F3) (s : State) (v : Mask) : Out :=
  .next (if xpHolds h s then coreLand s 1 [.xpMask f.d.toNat v (BitVec.allOnes 256)] else s)

/-- m[D] = m[A] AND m[B] (R173). -/
def execMand (h : Hdr) (f : F3) (s : State) : Out :=
  xpMaskResult h f s (s.core.xmGet f.a.toNat &&& s.core.xmGet f.b.toNat)

/-- m[D] = m[A] OR m[B] (R173). -/
def execMor (h : Hdr) (f : F3) (s : State) : Out :=
  xpMaskResult h f s (s.core.xmGet f.a.toNat ||| s.core.xmGet f.b.toNat)

/-- m[D] = the complement of m[A] (R173). -/
def execMnot (h : Hdr) (f : F3) (s : State) : Out :=
  xpMaskResult h f s (~~~(s.core.xmGet f.a.toNat))

/-- s[D] = the lanes of TY that m[A] selects (R173). -/
def execMpopc (h : Hdr) (f : F3) (s : State) : Out :=
  xpLand h s 2 (fun c =>
    let z := (elemIn c f.ty).bytes
    sResult c f.d (BitVec.ofNat 64 ((List.range (256 / z)).filter (selects (c.xmGet f.a.toNat) z)).length))

end Sys2Proof.Machine
end

