-- ==== Sys2Proof/Machine/XpReduce.lean ====
section
/-! DEFINITION. Execute processor: reductions, prefixes, permutes and immediates (R180 to R183). -/

namespace Sys2Proof.Machine

/-- s[D] = the sum of the selected lanes by the fixed tree (R91, R180). -/
def execVrsum (h : Hdr) (f : F3) (s : State) : Out :=
  xpReduce h f s .sum

/-- s[D] = the maximum of the selected lanes (R91, R180). -/
def execVrmax (h : Hdr) (f : F3) (s : State) : Out :=
  xpReduce h f s .max

/-- s[D] = the minimum of the selected lanes (R91, R180). -/
def execVrmin (h : Hdr) (f : F3) (s : State) : Out :=
  xpReduce h f s .min

/-- Whether a value replaces another as the maximum: NaN above every number and equal to NaN (R180). -/
def indexGreater (e : Elem) (a b : Nat) : Bool :=
  match e with
  | .int w => decide (signedOf w b < signedOf w a)
  | .flt t => let x := decodeF t a; let y := decodeF t b; !y.isNan && (x.isNan || ltV y x)

/-- s[D] = the lane of the maximum, the lowest of equal ones; all ones when every lane is masked (R180). -/
def execVrmaxi (h : Hdr) (f : F3) (s : State) : Out :=
  xpLand h s (2 + levelsOf (elemIn s.core f.ty).bytes) (fun c => do
    let e := elemIn c f.ty
    let a ← vLanes c e.bytes f.a
    let m := c.xmGet (maskNo f.c)
    let xs := List.zipWith (fun i x => (selects m e.bytes i, x, i)) (List.range a.length) a
    let pick (p q : Bool × Nat × Nat) := if q.1 && (!p.1 || indexGreater e q.2.1 p.2.1) then q else p
    match treeLevels pick (levelsOf e.bytes) xs with
    | (true, _, i) :: _ => sResult c f.d (BitVec.ofNat 64 i)
    | _ => sResult c f.d (BitVec.allOnes 64))

/-- The inclusive prefix sum of the lanes, unselected ones entering as zero (R92, R181). -/
def execVpsum (h : Hdr) (f : F3) (s : State) : Out :=
  let d := drawOf s s.core
  xpLand h s (2 + levelsOf (elemIn s.core f.ty).bytes) (fun c => do
    let e := elemIn c f.ty
    let a ← vLanes c e.bytes f.a
    let ys := (maskedLanes (c.xmGet (maskNo f.c)) e.bytes 0 a).map (fun p => p.2)
    vResult c f.d (ofLanes e.bytes (prefixSteps e f.rm d (levelsOf e.bytes) 0 ys)))

/-- Each group of lanes: its maximum (R93, R181). -/
def execVgmax (h : Hdr) (f : F3) (s : State) : Out :=
  xpGroups h f s .max

/-- Each group of lanes: its sum (R93, R181). -/
def execVgsum (h : Hdr) (f : F3) (s : State) : Out :=
  xpGroups h f s .sum

/-- D[i] = A[B[i]], zero beyond the last lane (R182). -/
def execVperm (h : Hdr) (f : F3) (s : State) : Out :=
  xpLand h s 3 (fun c => do
    let z := (elemIn c f.ty).bytes
    let a ← vSrcOf c f.a
    let b ← vLanes c z f.b
    vResult c f.d (ofLanes z (b.map (fun k => if k < 256 / z then laneOf z a k else 0))))

/-- Every lane the low bytes of s[A] (R182). -/
def execVbcast (h : Hdr) (f : F3) (s : State) : Out :=
  xpLand h s 3 (fun c => do
    let z := (elemIn c f.ty).bytes
    let a ← sSrcOf c f.a
    vResult c f.d (ofLanes z (List.replicate (256 / z) a.toNat)))

/-- The lanes of A from K on, followed by those of B (R182). -/
def execVslide (h : Hdr) (f : F3) (s : State) : Out :=
  xpLand h s 3 (fun c => do
    let z := (elemIn c f.ty).bytes
    let k := f.c.toNat % 256
    let a ← vLanes c z f.a
    let b ← vLanes c z f.b
    vResult c f.d (ofLanes z (a.drop k ++ b.take k)))

/-- The selected lanes of A at the bottom of D, zero above (R182). -/
def execVcomp (h : Hdr) (f : F3) (s : State) : Out :=
  xpLand h s 3 (fun c => do
    let z := (elemIn c f.ty).bytes
    let a ← vLanes c z f.a
    let m := c.xmGet (maskNo f.c)
    vResult c f.d (ofLanes z (((List.range a.length).zip a).filterMap (fun p => if selects m z p.1 then some p.2 else none))))

/-- The selected lanes take the next lane of a list, the others zero. -/
def expandLanes : List Bool → List Nat → List Nat
  | [], _ => []
  | true :: r, xs => xs.headD 0 :: expandLanes r xs.tail
  | false :: r, xs => 0 :: expandLanes r xs

/-- The lanes of A spread over the selected lanes of D, the others zero (R182). -/
def execVexp (h : Hdr) (f : F3) (s : State) : Out :=
  xpLand h s 3 (fun c => do
    let z := (elemIn c f.ty).bytes
    let a ← vLanes c z f.a
    let m := c.xmGet (maskNo f.c)
    vResult c f.d (ofLanes z (expandLanes ((List.range a.length).map (selects m z)) a)))

/-- Every 32-bit lane the low half of the signed immediate (R183). -/
def execVmovi (h : Hdr) (f : FI) (s : State) : Out :=
  xpLand h s 2 (fun c => vResult c f.d (ofLanes 4 (List.replicate 64 (sext f.imm).toNat)))

end Sys2Proof.Machine
end

