-- ==== Sys2Proof/Machine/XpScalar.lean ====
section
/-! DEFINITION. Execute processor: scalar integer, compare and predicate words (R167, R168). -/

namespace Sys2Proof.Machine

/-- A scalar word of two sources. -/
def xpScalar2 (h : Hdr) (f : F3) (s : State) (lat : Nat) (g : Word → Word → Word) : Out :=
  xpLand h s lat (fun c => do
    let a ← sSrcOf c f.a
    let b ← sSrcOf c f.b
    sResult c f.d (g a b))

/-- A scalar word of one source and an immediate. -/
def xpScalarI (h : Hdr) (f : FI) (s : State) (g : Word → Word) : Out :=
  xpLand h s 1 (fun c => do
    let a ← sSrcOf c f.a
    sResult c f.d (g a))

/-- A scalar compare into a predicate (R168). -/
def xpScalarCmp (h : Hdr) (f : F3) (s : State) (r : Rel) : Out :=
  xpLand h s 1 (fun c => do
    let a ← sSrcOf c f.a
    let b ← sSrcOf c f.b
    some [.xpPred f.d.toNat (r.holds a b)])

/-- A predicate word (R168). -/
def xpPredResult (h : Hdr) (f : F3) (s : State) (v : Bool) : Out :=
  .next (if xpHolds h s then coreLand s 1 [.xpPred f.d.toNat v] else s)

/-- D = A + B modulo 2^64 (R167). -/
def execXpAdd (h : Hdr) (f : F3) (s : State) : Out :=
  xpScalar2 h f s 1 (fun a b => a + b)

/-- D = A − B modulo 2^64 (R167). -/
def execXpSub (h : Hdr) (f : F3) (s : State) : Out :=
  xpScalar2 h f s 1 (fun a b => a - b)

/-- D = the low 64 bits of A·B (R167). -/
def execXpMul (h : Hdr) (f : F3) (s : State) : Out :=
  xpScalar2 h f s 3 (fun a b => a * b)

/-- D = A AND B (R167). -/
def execXpAnd (h : Hdr) (f : F3) (s : State) : Out :=
  xpScalar2 h f s 1 (fun a b => a &&& b)

/-- D = A OR B (R167). -/
def execXpOr (h : Hdr) (f : F3) (s : State) : Out :=
  xpScalar2 h f s 1 (fun a b => a ||| b)

/-- D = A XOR B (R167). -/
def execXpXor (h : Hdr) (f : F3) (s : State) : Out :=
  xpScalar2 h f s 1 (fun a b => a ^^^ b)

/-- D = A shifted left by B[5:0] (R167). -/
def execXpShl (h : Hdr) (f : F3) (s : State) : Out :=
  xpScalar2 h f s 1 (fun a b => a <<< (b.toNat % 64))

/-- D = A shifted right by B[5:0], zero fill (R167). -/
def execXpShr (h : Hdr) (f : F3) (s : State) : Out :=
  xpScalar2 h f s 1 (fun a b => a >>> (b.toNat % 64))

/-- D = A if p[C] is 1, else B (R167). -/
def execXpSel (h : Hdr) (f : F3) (s : State) : Out :=
  let p := predGet s.core.xpPreds f.c.toNat
  xpScalar2 h f s 1 (fun a b => if p then a else b)

/-- D = A + the signed immediate (R167). -/
def execXpAddi (h : Hdr) (f : FI) (s : State) : Out :=
  xpScalarI h f s (fun a => a + sext f.imm)

/-- D = the signed immediate (R167). -/
def execXpMovi (h : Hdr) (f : FI) (s : State) : Out :=
  xpLand h s 1 (fun c => sResult c f.d (sext f.imm))

/-- D = A shifted left by IMM25[5:0] (R167). -/
def execXpShli (h : Hdr) (f : FI) (s : State) : Out :=
  xpScalarI h f s (fun a => a <<< (f.imm.toNat % 64))

/-- p[D] = the relation EQ of A and B (R168). -/
def execXpCmpEq (h : Hdr) (f : F3) (s : State) : Out :=
  xpScalarCmp h f s .eq

/-- p[D] = the relation NE of A and B (R168). -/
def execXpCmpNe (h : Hdr) (f : F3) (s : State) : Out :=
  xpScalarCmp h f s .ne

/-- p[D] = the relation LT of A and B (R168). -/
def execXpCmpLt (h : Hdr) (f : F3) (s : State) : Out :=
  xpScalarCmp h f s .lt

/-- p[D] = the relation LE of A and B (R168). -/
def execXpCmpLe (h : Hdr) (f : F3) (s : State) : Out :=
  xpScalarCmp h f s .le

/-- p[D] = the relation LTU of A and B (R168). -/
def execXpCmpLtu (h : Hdr) (f : F3) (s : State) : Out :=
  xpScalarCmp h f s .ltu

/-- p[D] = the relation LEU of A and B (R168). -/
def execXpCmpLeu (h : Hdr) (f : F3) (s : State) : Out :=
  xpScalarCmp h f s .leu

/-- p[D] = p[A] AND p[B] (R168). -/
def execXpPand (h : Hdr) (f : F3) (s : State) : Out :=
  xpPredResult h f s (predGet s.core.xpPreds f.a.toNat && predGet s.core.xpPreds f.b.toNat)

/-- p[D] = p[A] OR p[B] (R168). -/
def execXpPor (h : Hdr) (f : F3) (s : State) : Out :=
  xpPredResult h f s (predGet s.core.xpPreds f.a.toNat || predGet s.core.xpPreds f.b.toNat)

/-- p[D] = the complement of p[A] (R168). -/
def execXpPnot (h : Hdr) (f : F3) (s : State) : Out :=
  xpPredResult h f s (!predGet s.core.xpPreds f.a.toNat)

end Sys2Proof.Machine
end

