-- ==== Sys2Proof/Machine/Dispatch.lean ====
section
/-! DEFINITION. The meaning of every step: one arm for each constructor of Instr. -/

namespace Sys2Proof.Machine

/-- What a step does. -/
def exec (i : Instr) (s : State) : Host.Outcome State Fault Refusal :=
  match i with
  | .resultLand u => Sys2Proof.Machine.execResultLand u s
  | .aqEntryLand die core q id => Sys2Proof.Machine.execAqEntryLand die core q id s
  | .waitReread p => Sys2Proof.Machine.execWaitReread p s
  | .waitTimeout p => Sys2Proof.Machine.execWaitTimeout p s
  | .twaitTimeout die ctx => Sys2Proof.Machine.execTwaitTimeout die ctx s
  | .checkerMatch die same => Sys2Proof.Machine.execCheckerMatch die same s
  | .contextQuantumSwitch die => Sys2Proof.Machine.execContextQuantumSwitch die s
  | .monitorEvent die code => Sys2Proof.Machine.execMonitorEvent die code s
  | .overlapCheckComplete die serial => Sys2Proof.Machine.execOverlapCheckComplete die serial s
  | .dispatchPlace die => Sys2Proof.Machine.execDispatchPlace die s
  | .gangFairnessTimeout die serial => Sys2Proof.Machine.execGangFairnessTimeout die serial s
  | .steal die => Sys2Proof.Machine.execSteal die s
  | .preloadComplete die serial shard => Sys2Proof.Machine.execPreloadComplete die serial shard s
  | .shadowFillComplete die serial => Sys2Proof.Machine.execShadowFillComplete die serial s
  | .taskStart die serial shard => Sys2Proof.Machine.execTaskStart die serial shard s
  | .discardComplete die serial shard => Sys2Proof.Machine.execDiscardComplete die serial shard s
  | .taskHalted die serial => Sys2Proof.Machine.execTaskHalted die serial s
  | .copyBackStart die serial => Sys2Proof.Machine.execCopyBackStart die serial s
  | .copyBackComplete die serial => Sys2Proof.Machine.execCopyBackComplete die serial s
  | .taskRetire die serial => Sys2Proof.Machine.execTaskRetire die serial s
  | .cancelPropagate die serial => Sys2Proof.Machine.execCancelPropagate die serial s
  | .engineCommandStart die core id => Sys2Proof.Machine.execEngineCommandStart die core id s
  | .engineUnitLand die core id => Sys2Proof.Machine.execEngineUnitLand die core id s
  | .engineCommandComplete die core id => Sys2Proof.Machine.execEngineCommandComplete die core id s
  | .boundOverrun die core id => Sys2Proof.Machine.execBoundOverrun die core id s
  | .trellisCommandStart die core id => Sys2Proof.Machine.execTrellisCommandStart die core id s
  | .wloadComplete die core id => Sys2Proof.Machine.execWloadComplete die core id s
  | .streamRowEnter die core id => Sys2Proof.Machine.execStreamRowEnter die core id s
  | .streamRowLand die core id => Sys2Proof.Machine.execStreamRowLand die core id s
  | .mvstreamColumnLand die core id => Sys2Proof.Machine.execMvstreamColumnLand die core id s
  | .releaseDrainEnd die core claim => Sys2Proof.Machine.execReleaseDrainEnd die core claim s
  | .phaseRestart die core => Sys2Proof.Machine.execPhaseRestart die core s
  | .tlbWalkComplete die core asid vint va => Sys2Proof.Machine.execTlbWalkComplete die core asid vint va s
  | .shootdownComplete id => Sys2Proof.Machine.execShootdownComplete id s
  | .cellReady id => Sys2Proof.Machine.execCellReady id s
  | .cellWaitTimeout id => Sys2Proof.Machine.execCellWaitTimeout id s
  | .vintageFree asid vint => Sys2Proof.Machine.execVintageFree asid vint s
  | .foldTaskStart die serial => Sys2Proof.Machine.execFoldTaskStart die serial s
  | .foldTaskRetire die serial => Sys2Proof.Machine.execFoldTaskRetire die serial s
  | .patrolScrub pa found => Sys2Proof.Machine.execPatrolScrub pa found s
  | .scoreHalve => Sys2Proof.Machine.execScoreHalve s
  | .targetedTestStart u => Sys2Proof.Machine.execTargetedTestStart u s
  | .targetedTestEnd u bad => Sys2Proof.Machine.execTargetedTestEnd u bad s
  | .powerReport watts => Sys2Proof.Machine.execPowerReport watts s
  | .temperatureSample die10 inlet10 => Sys2Proof.Machine.execTemperatureSample die10 inlet10 s
  | .eventResend number => Sys2Proof.Machine.execEventResend number s
  | .uftPut f => Sys2Proof.Machine.execUftPut f s
  | .uftEnd f => Sys2Proof.Machine.execUftEnd f s
  | .uftGet f => Sys2Proof.Machine.execUftGet f s
  | .uftGetdata f => Sys2Proof.Machine.execUftGetdata f s
  | .uftAmo f => Sys2Proof.Machine.execUftAmo f s
  | .uftPost f => Sys2Proof.Machine.execUftPost f s
  | .uftNotify f => Sys2Proof.Machine.execUftNotify f s
  | .uftCancel f => Sys2Proof.Machine.execUftCancel f s
  | .uftMcast f => Sys2Proof.Machine.execUftMcast f s
  | .uftResult f => Sys2Proof.Machine.execUftResult f s
  | .uftAck f => Sys2Proof.Machine.execUftAck f s
  | .uftReset f => Sys2Proof.Machine.execUftReset f s
  | .frameDiscard port => Sys2Proof.Machine.execFrameDiscard port s
  | .ackTimer peer => Sys2Proof.Machine.execAckTimer peer s
  | .retransmitTimeout peer psn => Sys2Proof.Machine.execRetransmitTimeout peer psn s
  | .rateIncreaseTimer peer => Sys2Proof.Machine.execRateIncreaseTimer peer s
  | .resetResend peer => Sys2Proof.Machine.execResetResend peer s
  | .mcastReceiptWrite op => Sys2Proof.Machine.execMcastReceiptWrite op s
  | .portLinkUp port => Sys2Proof.Machine.execPortLinkUp port s
  | .portLinkDown port => Sys2Proof.Machine.execPortLinkDown port s
  | .memread m => Sys2Proof.Machine.execMemread m s
  | .memwrite m => Sys2Proof.Machine.execMemwrite m s
  | .pmemread m => Sys2Proof.Machine.execPmemread m s
  | .pmemwrite m => Sys2Proof.Machine.execPmemwrite m s
  | .launch m => Sys2Proof.Machine.execLaunch m s
  | .ptroot m => Sys2Proof.Machine.execPtroot m s
  | .inval m => Sys2Proof.Machine.execInval m s
  | .migrate m => Sys2Proof.Machine.execMigrate m s
  | .pagein m => Sys2Proof.Machine.execPagein m s
  | .setid m => Sys2Proof.Machine.execSetid m s
  | .listset m => Sys2Proof.Machine.execListset m s
  | .amoquery m => Sys2Proof.Machine.execAmoquery m s
  | .eventack m => Sys2Proof.Machine.execEventack m s
  | .uctBadOp m => Sys2Proof.Machine.execUctBadOp m s
  | .hello m => Sys2Proof.Machine.execHello m s
  | .keyx m => Sys2Proof.Machine.execKeyx m s
  | .boot m => Sys2Proof.Machine.execBoot m s
  | .fwwrite m => Sys2Proof.Machine.execFwwrite m s
  | .ownerset m => Sys2Proof.Machine.execOwnerset m s
  | .resume m => Sys2Proof.Machine.execResume m s
  | .powerOn => Sys2Proof.Machine.execPowerOn s
  | .bootStepTimeout => Sys2Proof.Machine.execBootStepTimeout s
  | .handoffTimeout => Sys2Proof.Machine.execHandoffTimeout s
  | .boardReset => Sys2Proof.Machine.execBoardReset s
  | .boardRecovRequest => Sys2Proof.Machine.execBoardRecovRequest s
  | .ckptStreamStart => Sys2Proof.Machine.execCkptStreamStart s
  | .ckptStreamEnd outcome => Sys2Proof.Machine.execCkptStreamEnd outcome s
  | .encodingNotInstruction p why => Sys2Proof.Machine.execEncodingNotInstruction p why s
  | .courierIllegalWord w => Sys2Proof.Machine.execCourierIllegalWord w s
  | .windowRecordsCommitted die serial shard => Sys2Proof.Machine.execWindowRecordsCommitted die serial shard s
  | .writePerformedAtHome id => Sys2Proof.Machine.execWritePerformedAtHome id s
  | .answerTableExpiry peer opid => Sys2Proof.Machine.execAnswerTableExpiry peer opid s
  | .powerLoss => Sys2Proof.Machine.execPowerLoss s
  | .ccAdd h f => Sys2Proof.Machine.execCcAdd h f s
  | .ccSub h f => Sys2Proof.Machine.execCcSub h f s
  | .ccAnd h f => Sys2Proof.Machine.execCcAnd h f s
  | .ccOr h f => Sys2Proof.Machine.execCcOr h f s
  | .ccXor h f => Sys2Proof.Machine.execCcXor h f s
  | .ccShl h f => Sys2Proof.Machine.execCcShl h f s
  | .ccShr h f => Sys2Proof.Machine.execCcShr h f s
  | .ccSar h f => Sys2Proof.Machine.execCcSar h f s
  | .ccMul h f => Sys2Proof.Machine.execCcMul h f s
  | .ccMulh h f => Sys2Proof.Machine.execCcMulh h f s
  | .ccDiv h f => Sys2Proof.Machine.execCcDiv h f s
  | .ccDivu h f => Sys2Proof.Machine.execCcDivu h f s
  | .ccRem h f => Sys2Proof.Machine.execCcRem h f s
  | .ccRemu h f => Sys2Proof.Machine.execCcRemu h f s
  | .ccMin h f => Sys2Proof.Machine.execCcMin h f s
  | .ccMax h f => Sys2Proof.Machine.execCcMax h f s
  | .ccMinu h f => Sys2Proof.Machine.execCcMinu h f s
  | .ccMaxu h f => Sys2Proof.Machine.execCcMaxu h f s
  | .ccSel h f => Sys2Proof.Machine.execCcSel h f s
  | .ccAddi h f => Sys2Proof.Machine.execCcAddi h f s
  | .ccAndi h f => Sys2Proof.Machine.execCcAndi h f s
  | .ccOri h f => Sys2Proof.Machine.execCcOri h f s
  | .ccXori h f => Sys2Proof.Machine.execCcXori h f s
  | .ccShli h f => Sys2Proof.Machine.execCcShli h f s
  | .ccShri h f => Sys2Proof.Machine.execCcShri h f s
  | .ccSari h f => Sys2Proof.Machine.execCcSari h f s
  | .ccMuli h f => Sys2Proof.Machine.execCcMuli h f s
  | .ccLui h f => Sys2Proof.Machine.execCcLui h f s
  | .ccCmpEq h f => Sys2Proof.Machine.execCcCmpEq h f s
  | .ccCmpNe h f => Sys2Proof.Machine.execCcCmpNe h f s
  | .ccCmpLt h f => Sys2Proof.Machine.execCcCmpLt h f s
  | .ccCmpLe h f => Sys2Proof.Machine.execCcCmpLe h f s
  | .ccCmpLtu h f => Sys2Proof.Machine.execCcCmpLtu h f s
  | .ccCmpLeu h f => Sys2Proof.Machine.execCcCmpLeu h f s
  | .ccCmpiEq h f => Sys2Proof.Machine.execCcCmpiEq h f s
  | .ccCmpiNe h f => Sys2Proof.Machine.execCcCmpiNe h f s
  | .ccCmpiLt h f => Sys2Proof.Machine.execCcCmpiLt h f s
  | .ccCmpiLe h f => Sys2Proof.Machine.execCcCmpiLe h f s
  | .ccCmpiLtu h f => Sys2Proof.Machine.execCcCmpiLtu h f s
  | .ccCmpiLeu h f => Sys2Proof.Machine.execCcCmpiLeu h f s
  | .ccPand h f => Sys2Proof.Machine.execCcPand h f s
  | .ccPor h f => Sys2Proof.Machine.execCcPor h f s
  | .ccPxor h f => Sys2Proof.Machine.execCcPxor h f s
  | .ccPnot h f => Sys2Proof.Machine.execCcPnot h f s
  | .ccBr h f => Sys2Proof.Machine.execCcBr h f s
  | .ccJmp h f => Sys2Proof.Machine.execCcJmp h f s
  | .ccJmpr h f => Sys2Proof.Machine.execCcJmpr h f s
  | .ccCall h f => Sys2Proof.Machine.execCcCall h f s
  | .ccCallr h f => Sys2Proof.Machine.execCcCallr h f s
  | .ccRet h f => Sys2Proof.Machine.execCcRet h f s
  | .ccLd h f => Sys2Proof.Machine.execCcLd h f s
  | .ccLds h f => Sys2Proof.Machine.execCcLds h f s
  | .ccSt h f => Sys2Proof.Machine.execCcSt h f s
  | .ccLda h f => Sys2Proof.Machine.execCcLda h f s
  | .ccStl h f => Sys2Proof.Machine.execCcStl h f s
  | .ccAmoAdd h f => Sys2Proof.Machine.execCcAmoAdd h f s
  | .ccAmoAnd h f => Sys2Proof.Machine.execCcAmoAnd h f s
  | .ccAmoOr h f => Sys2Proof.Machine.execCcAmoOr h f s
  | .ccAmoXor h f => Sys2Proof.Machine.execCcAmoXor h f s
  | .ccAmoMin h f => Sys2Proof.Machine.execCcAmoMin h f s
  | .ccAmoMax h f => Sys2Proof.Machine.execCcAmoMax h f s
  | .ccAmoMinu h f => Sys2Proof.Machine.execCcAmoMinu h f s
  | .ccAmoMaxu h f => Sys2Proof.Machine.execCcAmoMaxu h f s
  | .ccAmoSwap h f => Sys2Proof.Machine.execCcAmoSwap h f s
  | .ccAmoCas h f => Sys2Proof.Machine.execCcAmoCas h f s
  | .ccFenceCore h f => Sys2Proof.Machine.execCcFenceCore h f s
  | .ccFenceDie h f => Sys2Proof.Machine.execCcFenceDie h f s
  | .ccFenceDev h f => Sys2Proof.Machine.execCcFenceDev h f s
  | .ccFenceDom h f => Sys2Proof.Machine.execCcFenceDom h f s
  | .post h f => Sys2Proof.Machine.execPost h f s
  | .postNb h f => Sys2Proof.Machine.execPostNb h f s
  | .postG h f => Sys2Proof.Machine.execPostG h f s
  | .rpost h f => Sys2Proof.Machine.execRpost h f s
  | .cancel h f => Sys2Proof.Machine.execCancel h f s
  | .twait h f => Sys2Proof.Machine.execTwait h f s
  | .wincfgDispatchHold h f => Sys2Proof.Machine.execWincfgDispatchHold h f s
  | .wincfgLetterboxAccept h f => Sys2Proof.Machine.execWincfgLetterboxAccept h f s
  | .wincfgPriorityCeiling h f => Sys2Proof.Machine.execWincfgPriorityCeiling h f s
  | .winqLiveEntries h f => Sys2Proof.Machine.execWinqLiveEntries h f s
  | .winqFreeEntries h f => Sys2Proof.Machine.execWinqFreeEntries h f s
  | .winqLetterbox h f => Sys2Proof.Machine.execWinqLetterbox h f s
  | .winqNextSerial h f => Sys2Proof.Machine.execWinqNextSerial h f s
  | .winqLowestLive h f => Sys2Proof.Machine.execWinqLowestLive h f s
  | .winqFreeRename h f => Sys2Proof.Machine.execWinqFreeRename h f s
  | .winqTaskState h f => Sys2Proof.Machine.execWinqTaskState h f s
  | .valloc h f => Sys2Proof.Machine.execValloc h f s
  | .vallocNb h f => Sys2Proof.Machine.execVallocNb h f s
  | .vret h f => Sys2Proof.Machine.execVret h f s
  | .vfold h f => Sys2Proof.Machine.execVfold h f s
  | .vqueryState h f => Sys2Proof.Machine.execVqueryState h f s
  | .vqueryAvailable h f => Sys2Proof.Machine.execVqueryAvailable h f s
  | .ccWaitAny h f => Sys2Proof.Machine.execCcWaitAny h f s
  | .ccWaitAll h f => Sys2Proof.Machine.execCcWaitAll h f s
  | .trap h f => Sys2Proof.Machine.execTrap h f s
  | .eret h f => Sys2Proof.Machine.execEret h f s
  | .sysr h f => Sys2Proof.Machine.execSysr h f s
  | .sysw h f => Sys2Proof.Machine.execSysw h f s
  | .syswVlim h f => Sys2Proof.Machine.execSyswVlim h f s
  | .syswCtxst h f => Sys2Proof.Machine.execSyswCtxst h f s
  | .sysrChkcnt h f => Sys2Proof.Machine.execSysrChkcnt h f s
  | .syswInj h f => Sys2Proof.Machine.execSyswInj h f s
  | .syswInjmem h f => Sys2Proof.Machine.execSyswInjmem h f s
  | .ccHalt h f => Sys2Proof.Machine.execCcHalt h f s
  | .nop h f => Sys2Proof.Machine.execNop h f s
  | .ctxsw h f => Sys2Proof.Machine.execCtxsw h f s
  | .ckpt h f => Sys2Proof.Machine.execCkpt h f s
  | .apAdd h f => Sys2Proof.Machine.execApAdd h f s
  | .apSub h f => Sys2Proof.Machine.execApSub h f s
  | .apAnd h f => Sys2Proof.Machine.execApAnd h f s
  | .apOr h f => Sys2Proof.Machine.execApOr h f s
  | .apXor h f => Sys2Proof.Machine.execApXor h f s
  | .apShl h f => Sys2Proof.Machine.execApShl h f s
  | .apShr h f => Sys2Proof.Machine.execApShr h f s
  | .apMul h f => Sys2Proof.Machine.execApMul h f s
  | .apMadd h f => Sys2Proof.Machine.execApMadd h f s
  | .apMin h f => Sys2Proof.Machine.execApMin h f s
  | .apMax h f => Sys2Proof.Machine.execApMax h f s
  | .apSel h f => Sys2Proof.Machine.execApSel h f s
  | .apAddi h f => Sys2Proof.Machine.execApAddi h f s
  | .apAndi h f => Sys2Proof.Machine.execApAndi h f s
  | .apOri h f => Sys2Proof.Machine.execApOri h f s
  | .apShli h f => Sys2Proof.Machine.execApShli h f s
  | .apShri h f => Sys2Proof.Machine.execApShri h f s
  | .apMuli h f => Sys2Proof.Machine.execApMuli h f s
  | .apLui h f => Sys2Proof.Machine.execApLui h f s
  | .apCmpEq h f => Sys2Proof.Machine.execApCmpEq h f s
  | .apCmpNe h f => Sys2Proof.Machine.execApCmpNe h f s
  | .apCmpLt h f => Sys2Proof.Machine.execApCmpLt h f s
  | .apCmpLe h f => Sys2Proof.Machine.execApCmpLe h f s
  | .apCmpLtu h f => Sys2Proof.Machine.execApCmpLtu h f s
  | .apCmpLeu h f => Sys2Proof.Machine.execApCmpLeu h f s
  | .apCmpiEq h f => Sys2Proof.Machine.execApCmpiEq h f s
  | .apCmpiNe h f => Sys2Proof.Machine.execApCmpiNe h f s
  | .apCmpiLt h f => Sys2Proof.Machine.execApCmpiLt h f s
  | .apCmpiLe h f => Sys2Proof.Machine.execApCmpiLe h f s
  | .apCmpiLtu h f => Sys2Proof.Machine.execApCmpiLtu h f s
  | .apCmpiLeu h f => Sys2Proof.Machine.execApCmpiLeu h f s
  | .apPand h f => Sys2Proof.Machine.execApPand h f s
  | .apPor h f => Sys2Proof.Machine.execApPor h f s
  | .apPnot h f => Sys2Proof.Machine.execApPnot h f s
  | .apBr h f => Sys2Proof.Machine.execApBr h f s
  | .apJmp h f => Sys2Proof.Machine.execApJmp h f s
  | .brq h f => Sys2Proof.Machine.execBrq h f s
  | .ldq h f => Sys2Proof.Machine.execLdq h f s
  | .ldqV h f => Sys2Proof.Machine.execLdqV h f s
  | .gathq h f => Sys2Proof.Machine.execGathq h f s
  | .apLds h f => Sys2Proof.Machine.execApLds h f s
  | .apLdsV h f => Sys2Proof.Machine.execApLdsV h f s
  | .sts h f => Sys2Proof.Machine.execSts h f s
  | .stq h f => Sys2Proof.Machine.execStq h f s
  | .stqM h f => Sys2Proof.Machine.execStqM h f s
  | .scatq h f => Sys2Proof.Machine.execScatq h f s
  | .mtest h f => Sys2Proof.Machine.execMtest h f s
  | .pgreq h f => Sys2Proof.Machine.execPgreq h f s
  | .pgquery h f => Sys2Proof.Machine.execPgquery h f s
  | .apAmoAdd h f => Sys2Proof.Machine.execApAmoAdd h f s
  | .apAmoAnd h f => Sys2Proof.Machine.execApAmoAnd h f s
  | .apAmoOr h f => Sys2Proof.Machine.execApAmoOr h f s
  | .apAmoXor h f => Sys2Proof.Machine.execApAmoXor h f s
  | .apAmoMin h f => Sys2Proof.Machine.execApAmoMin h f s
  | .apAmoMax h f => Sys2Proof.Machine.execApAmoMax h f s
  | .apAmoMinu h f => Sys2Proof.Machine.execApAmoMinu h f s
  | .apAmoMaxu h f => Sys2Proof.Machine.execApAmoMaxu h f s
  | .apAmoSwap h f => Sys2Proof.Machine.execApAmoSwap h f s
  | .apAmoCas h f => Sys2Proof.Machine.execApAmoCas h f s
  | .fadd h f => Sys2Proof.Machine.execFadd h f s
  | .apLda h f => Sys2Proof.Machine.execApLda h f s
  | .apStl h f => Sys2Proof.Machine.execApStl h f s
  | .apFenceCore h f => Sys2Proof.Machine.execApFenceCore h f s
  | .apFenceDie h f => Sys2Proof.Machine.execApFenceDie h f s
  | .apFenceDev h f => Sys2Proof.Machine.execApFenceDev h f s
  | .apFenceDom h f => Sys2Proof.Machine.execApFenceDom h f s
  | .barinit h f => Sys2Proof.Machine.execBarinit h f s
  | .barexp h f => Sys2Proof.Machine.execBarexp h f s
  | .bararr h f => Sys2Proof.Machine.execBararr h f s
  | .barq h f => Sys2Proof.Machine.execBarq h f s
  | .seal h f => Sys2Proof.Machine.execSeal h f s
  | .unseal h f => Sys2Proof.Machine.execUnseal h f s
  | .apWaitAny h f => Sys2Proof.Machine.execApWaitAny h f s
  | .apWaitAll h f => Sys2Proof.Machine.execApWaitAll h f s
  | .wprd h f => Sys2Proof.Machine.execWprd h f s
  | .tkclr h f => Sys2Proof.Machine.execTkclr h f s
  | .tktest h f => Sys2Proof.Machine.execTktest h f s
  | .ecCopy h f => Sys2Proof.Machine.execEcCopy h f s
  | .ecCopyV h f => Sys2Proof.Machine.execEcCopyV h f s
  | .ecFill h f => Sys2Proof.Machine.execEcFill h f s
  | .gather h f => Sys2Proof.Machine.execGather h f s
  | .scatter h f => Sys2Proof.Machine.execScatter h f s
  | .cstream h f => Sys2Proof.Machine.execCstream h f s
  | .route h f => Sys2Proof.Machine.execRoute h f s
  | .rcsnap h f => Sys2Proof.Machine.execRcsnap h f s
  | .rcread h f => Sys2Proof.Machine.execRcread h f s
  | .courier h f => Sys2Proof.Machine.execCourier h f s
  | .spawn h f => Sys2Proof.Machine.execSpawn h f s
  | .rput h f => Sys2Proof.Machine.execRput h f s
  | .rget h f => Sys2Proof.Machine.execRget h f s
  | .ramo h f => Sys2Proof.Machine.execRamo h f s
  | .mcast h f => Sys2Proof.Machine.execMcast h f s
  | .cwCopy c n => Sys2Proof.Machine.execCwCopy c n s
  | .cwWait c n => Sys2Proof.Machine.execCwWait c n s
  | .cwFlag v => Sys2Proof.Machine.execCwFlag v s
  | .cwLoop cnt back => Sys2Proof.Machine.execCwLoop cnt back s
  | .cwAdd d => Sys2Proof.Machine.execCwAdd d s
  | .cwEnd => Sys2Proof.Machine.execCwEnd s
  | .xpAdd h f => Sys2Proof.Machine.execXpAdd h f s
  | .xpSub h f => Sys2Proof.Machine.execXpSub h f s
  | .xpMul h f => Sys2Proof.Machine.execXpMul h f s
  | .xpAnd h f => Sys2Proof.Machine.execXpAnd h f s
  | .xpOr h f => Sys2Proof.Machine.execXpOr h f s
  | .xpXor h f => Sys2Proof.Machine.execXpXor h f s
  | .xpShl h f => Sys2Proof.Machine.execXpShl h f s
  | .xpShr h f => Sys2Proof.Machine.execXpShr h f s
  | .xpSel h f => Sys2Proof.Machine.execXpSel h f s
  | .xpAddi h f => Sys2Proof.Machine.execXpAddi h f s
  | .xpMovi h f => Sys2Proof.Machine.execXpMovi h f s
  | .xpShli h f => Sys2Proof.Machine.execXpShli h f s
  | .xpCmpEq h f => Sys2Proof.Machine.execXpCmpEq h f s
  | .xpCmpNe h f => Sys2Proof.Machine.execXpCmpNe h f s
  | .xpCmpLt h f => Sys2Proof.Machine.execXpCmpLt h f s
  | .xpCmpLe h f => Sys2Proof.Machine.execXpCmpLe h f s
  | .xpCmpLtu h f => Sys2Proof.Machine.execXpCmpLtu h f s
  | .xpCmpLeu h f => Sys2Proof.Machine.execXpCmpLeu h f s
  | .xpPand h f => Sys2Proof.Machine.execXpPand h f s
  | .xpPor h f => Sys2Proof.Machine.execXpPor h f s
  | .xpPnot h f => Sys2Proof.Machine.execXpPnot h f s
  | .xpBr h f => Sys2Proof.Machine.execXpBr h f s
  | .xpJmp h f => Sys2Proof.Machine.execXpJmp h f s
  | .brb h f => Sys2Proof.Machine.execBrb h f s
  | .vadd h f => Sys2Proof.Machine.execVadd h f s
  | .vsub h f => Sys2Proof.Machine.execVsub h f s
  | .vmul h f => Sys2Proof.Machine.execVmul h f s
  | .vmulh h f => Sys2Proof.Machine.execVmulh h f s
  | .vmin h f => Sys2Proof.Machine.execVmin h f s
  | .vmax h f => Sys2Proof.Machine.execVmax h f s
  | .vminu h f => Sys2Proof.Machine.execVminu h f s
  | .vmaxu h f => Sys2Proof.Machine.execVmaxu h f s
  | .vand h f => Sys2Proof.Machine.execVand h f s
  | .vor h f => Sys2Proof.Machine.execVor h f s
  | .vxor h f => Sys2Proof.Machine.execVxor h f s
  | .vabsd h f => Sys2Proof.Machine.execVabsd h f s
  | .vshl h f => Sys2Proof.Machine.execVshl h f s
  | .vshr h f => Sys2Proof.Machine.execVshr h f s
  | .vsar h f => Sys2Proof.Machine.execVsar h f s
  | .vfshl h f => Sys2Proof.Machine.execVfshl h f s
  | .vfshr h f => Sys2Proof.Machine.execVfshr h f s
  | .vclz h f => Sys2Proof.Machine.execVclz h f s
  | .vpopc h f => Sys2Proof.Machine.execVpopc h f s
  | .vcmpEq h f => Sys2Proof.Machine.execVcmpEq h f s
  | .vcmpNe h f => Sys2Proof.Machine.execVcmpNe h f s
  | .vcmpLt h f => Sys2Proof.Machine.execVcmpLt h f s
  | .vcmpLe h f => Sys2Proof.Machine.execVcmpLe h f s
  | .vcmpLtu h f => Sys2Proof.Machine.execVcmpLtu h f s
  | .vcmpLeu h f => Sys2Proof.Machine.execVcmpLeu h f s
  | .vsel h f => Sys2Proof.Machine.execVsel h f s
  | .mand h f => Sys2Proof.Machine.execMand h f s
  | .mor h f => Sys2Proof.Machine.execMor h f s
  | .mnot h f => Sys2Proof.Machine.execMnot h f s
  | .mpopc h f => Sys2Proof.Machine.execMpopc h f s
  | .vfadd h f => Sys2Proof.Machine.execVfadd h f s
  | .vfsub h f => Sys2Proof.Machine.execVfsub h f s
  | .vfmul h f => Sys2Proof.Machine.execVfmul h f s
  | .vfma h f => Sys2Proof.Machine.execVfma h f s
  | .vfms h f => Sys2Proof.Machine.execVfms h f s
  | .vfmin h f => Sys2Proof.Machine.execVfmin h f s
  | .vfmax h f => Sys2Proof.Machine.execVfmax h f s
  | .vfabs h f => Sys2Proof.Machine.execVfabs h f s
  | .vfneg h f => Sys2Proof.Machine.execVfneg h f s
  | .vfrcp h f => Sys2Proof.Machine.execVfrcp h f s
  | .vfrsq h f => Sys2Proof.Machine.execVfrsq h f s
  | .vfexp2 h f => Sys2Proof.Machine.execVfexp2 h f s
  | .vflog2 h f => Sys2Proof.Machine.execVflog2 h f s
  | .vfsqrt h f => Sys2Proof.Machine.execVfsqrt h f s
  | .vfdiv h f => Sys2Proof.Machine.execVfdiv h f s
  | .vcvt h f => Sys2Proof.Machine.execVcvt h f s
  | .vsrnd h f => Sys2Proof.Machine.execVsrnd h f s
  | .vquant h f => Sys2Proof.Machine.execVquant h f s
  | .vdeq h f => Sys2Proof.Machine.execVdeq h f s
  | .vplane h f => Sys2Proof.Machine.execVplane h f s
  | .vunplane h f => Sys2Proof.Machine.execVunplane h f s
  | .vrsum h f => Sys2Proof.Machine.execVrsum h f s
  | .vrmax h f => Sys2Proof.Machine.execVrmax h f s
  | .vrmin h f => Sys2Proof.Machine.execVrmin h f s
  | .vrmaxi h f => Sys2Proof.Machine.execVrmaxi h f s
  | .vpsum h f => Sys2Proof.Machine.execVpsum h f s
  | .vgmax h f => Sys2Proof.Machine.execVgmax h f s
  | .vgsum h f => Sys2Proof.Machine.execVgsum h f s
  | .vperm h f => Sys2Proof.Machine.execVperm h f s
  | .vbcast h f => Sys2Proof.Machine.execVbcast h f s
  | .vslide h f => Sys2Proof.Machine.execVslide h f s
  | .vcomp h f => Sys2Proof.Machine.execVcomp h f s
  | .vexp h f => Sys2Proof.Machine.execVexp h f s
  | .vmovi h f => Sys2Proof.Machine.execVmovi h f s
  | .qpop h f => Sys2Proof.Machine.execQpop h f s
  | .qpopm h f => Sys2Proof.Machine.execQpopm h f s
  | .qpush h f => Sys2Proof.Machine.execQpush h f s
  | .qpushm h f => Sys2Proof.Machine.execQpushm h f s
  | .qcnt h f => Sys2Proof.Machine.execQcnt h f s
  | .vldb h f => Sys2Proof.Machine.execVldb h f s
  | .vstb h f => Sys2Proof.Machine.execVstb h f s
  | .vstbm h f => Sys2Proof.Machine.execVstbm h f s
  | .loop h f => Sys2Proof.Machine.execLoop h f s
  | .lbrk h f => Sys2Proof.Machine.execLbrk h f s
  | .oset h f => Sys2Proof.Machine.execOset h f s
  | .oadd h f => Sys2Proof.Machine.execOadd h f s
  | .defer h f => Sys2Proof.Machine.execDefer h f s
  | .defcnt h f => Sys2Proof.Machine.execDefcnt h f s
  | .deftake h f => Sys2Proof.Machine.execDeftake h f s
  | .xpose h f => Sys2Proof.Machine.execXpose h f s
  | .xposeP h f => Sys2Proof.Machine.execXposeP h f s
  | .spill h f => Sys2Proof.Machine.execSpill h f s
  | .xpFill h f => Sys2Proof.Machine.execXpFill h f s
  | .view h f => Sys2Proof.Machine.execView h f s
  | .xpWaitAny h f => Sys2Proof.Machine.execXpWaitAny h f s
  | .xpWaitAll h f => Sys2Proof.Machine.execXpWaitAll h f s
  | .claim h f => Sys2Proof.Machine.execClaim h f s
  | .release h f => Sys2Proof.Machine.execRelease h f s
  | .tpri h f => Sys2Proof.Machine.execTpri h f s
  | .wload h f => Sys2Proof.Machine.execWload h f s
  | .wloadp h f => Sys2Proof.Machine.execWloadp h f s
  | .mstream h f => Sys2Proof.Machine.execMstream h f s
  | .mstreamp h f => Sys2Proof.Machine.execMstreamp h f s
  | .mvstream h f => Sys2Proof.Machine.execMvstream h f s
  | .teob h f => Sys2Proof.Machine.execTeob h f s
  | .tdrain h f => Sys2Proof.Machine.execTdrain h f s
  | .tacs h f => Sys2Proof.Machine.execTacs h f s
  | .tacsClr h f => Sys2Proof.Machine.execTacsClr h f s
  | .tchk h f => Sys2Proof.Machine.execTchk h f s
  | .tchkClr h f => Sys2Proof.Machine.execTchkClr h f s
  | .swap h f => Sys2Proof.Machine.execSwap h f s
  | .commit h f => Sys2Proof.Machine.execCommit h f s
  | .halt h f => Sys2Proof.Machine.execHalt h f s
  | .slip h f => Sys2Proof.Machine.execSlip h f s
  | .mark h f => Sys2Proof.Machine.execMark h f s

end Sys2Proof.Machine
end

