-- ==== Sys2Proof/Machine/Cycle.lean ====
section
/-! DEFINITION. The acts of a cycle: fetching a word and running it, a processor's turn to issue, what a core and the device look at in
every cycle, and the acts of the next cycle (R16, R29, R32, R33, R53, R54, R96, R102, R150, R158, R222, R369 to R371, R378). -/

namespace Sys2Proof.Machine

noncomputable section

/-! ## Words (R28, R53, R64, R94) -/

/-- The 64-bit word at an address of a processor: of a task's text, of a context's text section, of the monitor's firmware. -/
def wordFor (s : State) (p : Proc) (a : Nat) : Option Word :=
  match p with
  | .cc d =>
    let c := ctlOf s d
    if c.monitor then some (wordAt c.firmware a)
    else match launchOf s (c.ctxOf c.ctx).launch with
      | none => none
      | some l => (peekWords s l.asid (l.image + l.textOff + a) 1).map (fun ws => wordOf ws 0)
  | .courier _ _ => none
  | _ =>
    let x := coreOf s (procAt p).1 (procAt p).2
    match x.task with
    | none => none
    | some t => (peekWords s t.asid a 1).map (fun ws => wordOf ws 0)

/-- The core that a processor belongs to, as the focus names it. -/
def focusOn (s : State) (p : Proc) (a : Nat) : State :=
  { s with focus := { die := (procAt p).1, core := (match p with | .cc _ => 0 | _ => (procAt p).2), pc := a } }

/-- What runs at an address of a processor: the instruction the word is, or the event that it is none (R53 to R55, R64). -/
def instrFor (s : State) (p : Proc) (a : Nat) : Option Instr :=
  match p with
  | .courier d c => (courierWordAt s d c a).map (fun w =>
      match checkCourier w with
      | .ok i => i
      | .error .illegalOp => .courierIllegalWord w
      | .error e => .encodingNotInstruction p e)
  | .cc _ => (wordFor s p a).map (fun w => match checkWord true w with
      | .ok i => i
      | .error e => .encodingNotInstruction p e)
  | _ => (wordFor s p a).map (fun w => match checkWord false w with
      | .ok i => i
      | .error e => .encodingNotInstruction p e)

/-- Whether a core's processor has trapped in this cycle: the words after the one that trapped take no effect (R54). -/
def trappedNow (s : State) (p : Proc) : Bool :=
  match p with
  | .ap d c => (coreOf s d c).traps.any (fun t => t.1 = 0)
  | .xp d c => (coreOf s d c).traps.any (fun t => t.1 = 1)
  | _ => false

/-- A word whose address is not mapped: its processor traps PROT there (R54, R64, R101); a core that has lost its task fetches nothing. -/
def noWordAt (s : State) (p : Proc) (a : Nat) : State :=
  let t := focusOn s p a
  match p with
  | .cc d => ccTrap t d a .prot (BitVec.ofNat 64 a)
  | .courier _ _ => stopCourier t .prot
  | .ap d c => if (coreOf s d c).task.isSome then apTrap t (trapAt .prot a) else s
  | .xp d c => if (coreOf s d c).task.isSome then xpTrap t (trapAt .prot a) else s

/-- Whether a word takes an entry of an aq, an xq, bq or the pigeonhole. -/
def takesEntry : Instr → Bool
  | .qpop _ _ | .qpopm _ _ | .stq _ _ | .stqM _ _ | .gathq _ _ | .scatq _ _ | .brb _ _ | .deftake _ _ => true
  | _ => false

/-- The soft error that a word meets in its processor's registers, or in a queue that it takes from (R408). -/
def strikeOf (s : State) (p : Proc) (a : Nat) : Option Strike :=
  s.strikes.find? (fun x => match x with
    | .regs q => q == p
    | .queues d c => (p == .ap d c || p == .xp d c) && (match instrFor s p a with | some i => takesEntry i | none => false)
    | _ => false)

/-- A word that meets a soft error traps UNCORRECTABLE: the core is charged, and a control core's error is recorded (R408). -/
def struckWord (s : State) (p : Proc) (a : Nat) (x : Strike) : State :=
  let s := focusOn (unstrike s x) p a
  let at_ := physOf s (procAt p).1 (procAt p).2
  let charged := foundUncorrectable s (.core at_.1 at_.2) 0
  match p with
  | .cc d => ccTrap (logError s d 0x4002 0x40 (errUnitOf (.pair (pairOf s d))) 0 0) d a .uncorrectable 0
  | .courier _ _ => stopCourier charged .uncorrectable
  | .ap _ _ => apTrap charged (trapOf .uncorrectable)
  | .xp _ _ => xpTrap charged (trapOf .uncorrectable)

/-- A wait in which a word has not issued and is tried again. -/
def ProcWait.again : ProcWait → Bool
  | .stalled _ => true
  | .page _ _ _ => true
  | .cell _ => true
  | _ => false

/-- The predicates of a processor. -/
def predsOf (s : State) : Proc → BitVec 8
  | .ap d c => (coreOf s d c).apPreds
  | .xp d c => (coreOf s d c).xpPreds
  | .cc d => ((ctlOf s d).ctxOf (ctlOf s d).set).regs.p
  | .courier _ _ => 0

/-- Whether the word at an address reads what it names: an instruction whose predicate holds; another raises no fault of its operands (R31). -/
def readsOperands (s : State) (p : Proc) (a : Nat) : Bool :=
  match p with
  | .courier _ _ => true
  | _ => match wordFor s p a with
    | none => false
    | some w => holdsOn (hdrOf w) (predsOf s p) && (match checkWord (match p with | .cc _ => true | _ => false) w with | .ok _ => true | .error _ => false)

/-- A word fetched, decoded and run; one that meets a soft error once it issues traps in place of its effect (R408). -/
def runWord (s : State) (p : Proc) (a : Nat) : Out :=
  match (if s.strikes.isEmpty || !readsOperands s p a then none else strikeOf s p a), instrFor s p a with
  | _, none => .next (noWordAt s p a)
  | none, some i => exec i (focusOn s p a)
  | some x, some i => match exec i (focusOn s p a) with
    | .next t => if (procOf t p).wait.again then .next t else .next (struckWord s p a x)
    | o => o

/-! ## The access and execute processors (R32, R33, R54, R166, R369, R370) -/

/-- The first of some words that cannot issue now, and the wait it meets, each tried after those before it. -/
def firstStall (s : State) (p : Proc) : List Nat → Option (Nat × ProcWait)
  | [] => none
  | a :: rest =>
    match runWord s p a with
    | .next t => if (procOf t p).wait.again then some (a, (procOf t p).wait) else firstStall t p rest
    | _ => none

/-- Acts put before those of this cycle that remain. -/
def soonest (s : State) (as : List Act) : State := { s with agenda := as ++ s.agenda }

/-- The other processor of a core. -/
def otherProc : Proc → Proc
  | .ap d c => .xp d c
  | .xp d c => .ap d c
  | p => p

/-- Whether a word at an address is a WAIT of a core's processor. -/
def isWaitAt (s : State) (p : Proc) (a : Nat) : Bool := match wordFor s p a with | some w => waitWord w | none => false

/-- A group's own words issue: none does while one of them cannot; a WAIT goes first, and the others follow when it ends (R33, R166,
R378). -/
def runGroup (s : State) (p : Proc) (words : List Nat) : State :=
  let waits := words.filter (isWaitAt s p)
  let rest := words.filter (fun a => !isWaitAt s p a)
  let s := onProc s p (fun q => { q with wait := .none, retry := [], held := true })
  match firstStall s p rest with
  | some (a, w) =>
    let t := match w with
      | .stalled _ => onProc s p (fun q => { q with wait := w, word := a })
      | _ => (match runWord s p a with | .next t => t | _ => s)
    onProc t p (fun q => { q with retry := words })
  | none =>
    let s := onProc s p (fun q => { q with ready := s.cycle + 1, issued := s.cycle + 1 })
    match waits with
    | [] => soonest s (rest.map (Act.word p) ++ [.passed p])
    | w :: more => soonest (onProc s p (fun q => { q with retry := more ++ rest })) [.word p w, .issue p]

/-- The end of a group's passage: the processor's position, its loop, and its next group; the other processor may be held no longer. -/
def passGroup (s : State) (p : Proc) (d c : Nat) (t : Running) (isAp : Bool) : State :=
  let q := procOf s p
  let suppressed := suppressedHere q
  let ws := match fetchWords s t (t.textSize / 8 + 1) q.group with | .group ws _ => ws | _ => []
  let s := onCore s d c (fun x => passCore s t isAp ws (suppressed && !q.held) x)
  let s := onProc s p (fun q => { q with held := false })
  soonest (later s (.issue (otherProc p))) [.issue p]

/-- The offsets raised at the start of a pass of the XP (R189): now, where its first group issues in this cycle; where that group is passed
earlier, in the cycle in which the pass's first group would issue, with what lands there (R192, entry 139). -/
def raisePass (s : State) (d c : Nat) (due : Bool) : State :=
  let x := coreOf s d c
  match x.xp.loop with
  | some l =>
    if !l.fresh then s
    else if due then onCore s d c raiseFresh
    else land (onCore s d c (fun x => { x with xp := { x.xp with loop := some { l with fresh := false } } })) (.core d c) x.xp.ready l.raises
  | none => s

/-- A group begins: the processor's PC goes to the group after it. -/
def beginGroup (s : State) (p : Proc) (d c pc next : Nat) (isAp due : Bool) : State :=
  let s := onProc s p (fun q => { q with group := pc, pc := next, jumped := false, retry := [] })
  if isAp then s else raisePass s d c due

/-- A processor reaches a joint word: it waits there, or the two meet, and the word runs (R222). -/
def reachJoint (s : State) (p : Proc) (d c pc next : Nat) (w : Word) (t : Running) : State :=
  match (procOf s (otherProc p)).wait with
  | .joint a _ =>
    if a ≠ pc then onProc s p (fun q => { q with wait := .joint pc s.cycle, retry := [] })
    else
      let x := coreOf s d c
      let pos := max x.ap.pos x.xp.pos + 1
      let meet (q : ProcState) : ProcState :=
        afterGroup s t { q with group := pc, pc := next, pos := pos, wait := .none, retry := [], held := false, jumped := false,
                                ready := s.cycle + 1, issued := 0 }
      let s := onCore s d c (fun x => let y := raiseFresh x; { y with ap := meet y.ap, xp := meet y.xp })
      soonest s [.word (.xp d c) pc]
  | _ =>
    let s := onProc s p (fun q => { q with wait := .joint pc s.cycle, retry := [] })
    let halts := majOf w = 0 && minOf w = 2
    later (onCore s d c (fun x => { x with soon := x.soon || halts })) (.issue (otherProc p))

/-- Whether a processor has issued a word that lets no later group issue until it ends; the group is passed all the same (R147, R204,
R369). -/
def ProcWait.passed : ProcWait → Bool
  | .seal _ => true
  | .landing _ => true
  | _ => false

/-- The next group of a processor of a task. Groups without a word for it are passed as soon as the one before them is, whatever still
holds its next issue (R369). One that is no group of instructions traps in the processor's own next issue cycle, whether or
not the processor would have had a word in it (R54, entry 133). -/
def nextGroup (s : State) (p : Proc) (d c : Nat) (t : Running) (isAp : Bool) : State :=
  let x := coreOf s d c
  let q := procOf s p
  let due := decide (q.ready ≤ s.cycle) && !q.wait.passed
  let free := due || (q.issued != 0 && !q.jumped)
  let stay (w : Stall) : State := if q.wait.passed then s else onProc s p (fun q => { q with wait := .stalled w, word := q.pc, retry := [] })
  if !free then s
  else match fetchGroup s t q.pc with
    | .absent l =>
      if !due then s
      else if isAp then
        onProc (requestPage s t.asid 0 false l (some (.ap d c))) p (fun q => { q with wait := .page t.asid 0 l.va, word := q.pc, retry := [] })
      else if pageFailed s t.asid l.va (.xp d c) then
        xpTrap (focusOn (onProc (tookFailure s t.asid l.va (.xp d c)) p (fun q => { q with ready := s.cycle + 1 })) p q.pc) (trapAt .prot l.va)
      else onProc (requestPage s t.asid 0 false l (some (.xp d c))) p (fun q => { q with wait := .stalled .other, word := q.pc, retry := [] })
    | .bad pc w =>
      if !due then s
      else match heldBy x isAp with
        | some h => stay h
        | none =>
          let why := match checkWord false w with | .error e => e | .ok _ => .reservedField
          soonest (focusOn (onProc s p (fun q => { q with ready := s.cycle + 1 })) p pc) [.ev (.encodingNotInstruction p why)]
    | .trap pc info =>
      if !due then s
      else match heldBy x isAp with
        | some h => stay h
        | none =>
          let s := onProc s p (fun q => { q with ready := s.cycle + 1 })
          if isAp then apTrap (focusOn s p pc) info else xpTrap (focusOn s p pc) info
    | .group ws next =>
      let found := if due then textErrors s t.asid q.pc (8 * ws.length) else (.clean, s)
      let s := found.2
      if found.1 == .uncorrectable then
        let s := focusOn (onProc s p (fun q => { q with ready := s.cycle + 1 })) p q.pc
        if isAp then apTrap s (trapAt .uncorrectable q.pc) else xpTrap s (trapAt .uncorrectable q.pc)
      else if found.1 == .rebuilt then onProc s p (fun q => { q with ready := s.cycle + rebuildDelay })
      else
      let own := (ws.filter (fun w => ownWord isAp w.2)).map (fun w => w.1)
      if suppressedHere q || (own.isEmpty && !jointGroup ws) then
        match heldBy x isAp with
        | some h => stay h
        | none => passGroup (beginGroup s p d c q.pc next isAp due) p d c t isAp
      else if !due then s
      else if jointGroup ws then reachJoint s p d c q.pc next (ws.headD (0, 0)).2 t
      else match heldBy x isAp with
        | some h => stay h
        | none => runGroup (beginGroup s p d c q.pc next isAp true) p own

/-- A processor of a core has its turn in a cycle. -/
def issueProc (s : State) (p : Proc) (d c : Nat) (isAp : Bool) : State :=
  let x := coreOf s d c
  match x.task with
  | none => s
  | some t =>
    let q := procOf s p
    if q.stopped || x.discardAt.isSome || trappedNow s p then s
    else match q.wait, q.held, q.retry with
      | .none, true, [] => soonest s [.passed p]
      | .none, true, ws => runGroup s p ws
      | .stalled _, true, w :: ws => runGroup s p (w :: ws)
      | .none, false, _ => nextGroup s p d c t isAp
      | .seal _, false, _ => nextGroup s p d c t isAp
      | .landing _, false, _ => nextGroup s p d c t isAp
      | .stalled _, false, _ => nextGroup (onProc s p (fun q => { q with wait := .none, retry := [] })) p d c t isAp
      | _, _, _ => s

/-- A processor has run a group's words: it has passed the group, unless one of them holds it (R369). -/
def passedAct (s : State) (p : Proc) (d c : Nat) (isAp : Bool) : State :=
  match (coreOf s d c).task with
  | none => s
  | some t =>
    let q := procOf s p
    if trappedNow s p || !(q.wait == .none || q.wait.passed) || !q.retry.isEmpty then s
    else passGroup (onProc s p (fun q => { q with ready := max q.ready (s.cycle + 1), issued := s.cycle + 1 })) p d c t isAp

/-! ## The control core (R94 to R97, R102) -/

/-- The next word of the set that runs. -/
def issueCtl (s : State) (d : Nat) : State :=
  let c := ctlOf s d
  let x := c.ctxOf c.set
  let s := onCtl s d (fun c =>
    let c := c.onCtx c.set (fun x => { x with regs := { x.regs with pc := x.regs.pc + 8 }, ready := s.cycle + 1, issued := x.issued + 1 })
    { c with lastIssue := s.cycle })
  soonest s [.word (.cc d) x.regs.pc]

/-- The text of a context at its PC: it can be read, or its page has to be waited for, or it is outside the text. -/
def ctlFetch (s : State) (d : Nat) : State :=
  let c := ctlOf s d
  let pc := (c.ctxOf c.set).regs.pc
  if c.monitor then issueCtl s d
  else match launchOf s (c.ctxOf c.ctx).launch with
    | none => s
    | some l =>
      let va := l.image + l.textOff + pc
      if l.textSize ≤ pc then ccTrap s d pc .prot (BitVec.ofNat 64 pc)
      else match peek s l.asid va 1 with
        | .words _ =>
          let found := textErrors s l.asid va 8
          if found.1 == .uncorrectable then ccTrap found.2 d pc .uncorrectable (BitVec.ofNat 64 va)
          else if found.1 == .rebuilt then onCtl found.2 d (fun c => c.onCtx c.ctx (fun x => { x with ready := s.cycle + rebuildDelay }))
          else issueCtl found.2 d
        | .absent leaf =>
          let who : Waiter := .ctx d c.ctx
          if pageFailed s l.asid leaf.va who then ccTrap (tookFailure s l.asid leaf.va who) d pc .prot (BitVec.ofNat 64 pc)
          else onCtl (requestPage s l.asid 0 false leaf (some who)) d (fun c => c.onCtx c.ctx (fun x =>
            { x with wait := .page l.asid va, state := .waiting }))
        | .trap cause _ _ => ccTrap s d pc cause (BitVec.ofNat 64 pc)

/-- A fence of a set ends once its earlier actions have matched and its earlier writes are visible (R113). -/
def ctlFence (s : State) (d : Nat) : State :=
  let set := (ctlOf s d).set
  match ((ctlOf s d).ctxOf set).wait with
  | .fence scope => (match ccFenceEnd s d set scope with
    | some t => onCtl s d (fun c => c.onCtx set (fun x => { x with wait := .none, ready := max x.ready t }))
    | none => s)
  | _ => s

/-- Whether a context that waits gives way to another (R96): one that waits for a page does not, and a VFOLD that waits for the window does as a
POST (R123, entry 136). -/
def CtxWait.givesWay : CtxWait → Bool
  | .page _ _ => false
  | _ => true

/-- A control core has its turn in a cycle, where its pair runs its die in it: the monitor runs, or the loaded context; one that cannot gives way
to another in the cases of R96. -/
def issueCc (s : State) (d : Nat) : State :=
  let s := ctlFence s d
  let c := ctlOf s d
  let x := c.ctxOf c.set
  if !pairTurn s d then s
  else if c.monitor then (if x.wait == .none && decide (x.ready ≤ s.cycle) then ctlFetch s d else s)
  else if x.state == .runnable then
    if x.wait != .none || decide (s.cycle < x.ready) then s
    else if 65536 ≤ x.issued && c.nextCtx.isSome then soonest s [.ev (.contextQuantumSwitch d), .issue (.cc d)]
    else ctlFetch s d
  else if c.nextCtx.isSome && x.wait.givesWay then soonest (switchCtx s d) [.issue (.cc d)]
  else s

/-! ## What a core and the device look at in every cycle -/

/-- The heads of a core's queues that have not started: they start when they can (R150, R206, R377). -/
def queueHeads (x : Core) (d c : Nat) (spill : Bool) : List Act :=
  ((x.cmds.filter (fun m => m.started.isNone && (m.queue == .spill) == spill
      && (x.queued m.queue).head?.map (fun y => y.id) == some m.id)).map (fun m =>
    match m.queue with
    | .claim _ => Act.ev (.trellisCommandStart d c m.id)
    | _ => Act.ev (.engineCommandStart d c m.id)))

/-- The courier of a core runs its next word, or writes its last flag (R158). -/
def courierTurn (s : State) (d c : Nat) : State :=
  let x := coreOf s d c
  if !x.courier.running then s
  else if x.courier.ended then finishCourier s d c
  else match x.cmdOf x.courier.cmd with
    | none => s
    | some m =>
      if s.cycle < tget x.grants 9 0 then s
      else match engineRead s d c m x.vt x.courier.pc 4 false true with
      | (.ok _, s) => soonest s [.word (.courier d c) x.courier.pc]
      | (.wait t, s) => courierHold s d c (t.getD 64)
      | (.trap cause e va, s) => haltCourier s d c m cause e va

/-- A core looks at its queues, its courier, its waits and its phase. -/
def pollCore (s : State) (d c : Nat) : State :=
  let s := tryWait (tryWait s (.ap d c)) (.xp d c)
  let x := coreOf s d c
  let joint := if x.xp.wait == .commit && !x.xp.retry.isEmpty then [Act.word (.xp d c) x.xp.group] else []
  let phase := if x.restart == some 0 && x.cmds.isEmpty then [Act.ev (.phaseRestart d c)] else []
  let s := if joint.isEmpty then s else onCore s d c (fun x => { x with xp := { x.xp with retry := [] } })
  soonest s (queueHeads x d c false ++ [.issue (.courier d c)] ++ phase ++ joint)

/-- The device looks at its boot, its checkpoint, the writers that wait for cells, and the units that wait for a test. -/
def pollDevice (s : State) : State :=
  let s := ckptPoll (bootPoll s)
  let s := if s.cellWaits.isEmpty then s else serveCells s
  let s := if s.withdrawn.isEmpty then s else dropHolds s
  (testsDue s).foldl (fun s u => later s (.ev (.targetedTestStart u))) s

/-- The end of a core's cycle comes after every other act of the cycle. -/
def settleAct (s : State) (d c : Nat) : State :=
  if s.agenda.all (fun a => match a with | .settle _ _ => true | _ => false) then settleCore s d c else later s (.settle d c)

/-! ## The next cycle -/

/-- The place of an event among those of one cycle (entry 5): a COMMIT is recorded before what lands in its cycle, so that a mismatch or an
error found there comes after it (R347). -/
def eventRank : Instr → Nat
  | .windowRecordsCommitted _ _ _ => 0
  | .writePerformedAtHome _ => 1
  | .streamRowLand _ _ _ => 2
  | .mvstreamColumnLand _ _ _ => 2
  | .resultLand _ => 3
  | .aqEntryLand _ _ _ _ => 3
  | .waitTimeout _ => 5
  | .boundOverrun _ _ _ => 5
  | _ => 4

/-- The cores that hold a task or a command, by die and core. -/
def busyCores (s : State) : List (Nat × Nat) :=
  (s.cores.filter (fun p => p.2.task.isSome || !p.2.cmds.isEmpty)).map (fun p => (p.1 / 32, p.1 % 32))

/-- The acts of a cycle, from the events due in it. -/
def cycleActs (s : State) (due : List Instr) : List Act :=
  let cores := busyCores s
  let spills := cores.flatMap (fun p => queueHeads (coreOf s p.1 p.2) p.1 p.2 true)
  let events := (List.range 6).flatMap (fun r => (due.filter (fun i => eventRank i = r)).map Act.ev)
  let halve := if s.cycle % 2 ^ 30 = 0 then [Act.ev .scoreHalve] else []
  spills ++ events ++ halve ++ cores.map (fun p => Act.poll p.1 p.2) ++ [.device]
    ++ (List.range 8).map (fun d => Act.ev (.dispatchPlace d)) ++ (List.range 8).map (fun d => Act.ev (.steal d))
    ++ (List.range 8).map (fun d => Act.issue (.cc d))
    ++ cores.flatMap (fun p => [Act.issue (.ap p.1 p.2), Act.issue (.xp p.1 p.2)])
    ++ cores.map (fun p => Act.settle p.1 p.2)

/-- The start of a cycle for the injections of the dies: one that a row has consumed reads ARM 0 from now on, and a write of INJ or INJMEM that
matched in the cycle before is in force (R403, R416). -/
def settleInjections (s : State) : State :=
  (List.range 8).foldl (fun s d =>
    let s := if (dieOf s d).injUsed then onDie s d (fun x => { x with injUsed := false, inj := x.inj &&& ~~~(fieldAt 1 31) }) else s
    match readyOutward s.cycle [] ((ctlOf s d).outward.filter (fun o => o.set = 8)) with
    | some o => (match o.act with
      | .sysw n _ => if n = 0x220000 || n = 0x220001 then matchOutward s d o else s
      | _ => s)
    | none => s) s

/-- A soft error that is found as the cycle begins (R408): a struck record that is in its window ends FAULTED, a struck cell's piece is poisoned,
a struck translation is dropped and counted as corrected, and a corrected error raises its unit's score. -/
def settleStrike (s : State) (x : Strike) : State :=
  match x with
  | .record d n =>
    (match entryOf s d n with
    | some _ => faultTask (logError (unstrike s x) d 0x4002 0x40 { kind := 10, place := physDie s d, index := 0, sub := 0 } (BitVec.ofNat 64 n) 0) d n
        (trapOf .uncorrectable) 0 0 0
    | none => if (dieOf s d).letterbox.any (fun l => l.serial = n) then s else unstrike s x)
  | .cell asid vint va =>
    (match cellOf s asid vint va with
    | some c => (List.range (ceilDiv c.size 16)).foldl (fun s i => poisonAt s (c.frame + 16 * i))
        (logError (unstrike s x) 0 0x4002 0x40 (noUnit 0) (BitVec.ofNat 64 va) 0)
    | none => unstrike s x)
  | .tlb d c asid va =>
    let held (e : TlbEntry) : Bool := e.asid == asid && e.va ≤ va && va < e.va + e.size
    let s := unstrike s x
    if c < 32 then
      let p := physOf s d c
      foundCorrected (onCore s d c (fun y => { y with tlb := y.tlb.filter (fun e => !held e) })) (.core p.1 p.2) 0
    else recordCorrected (onDie s d (fun y => { y with tlb := y.tlb.filter (fun e => !held e) })) d (noUnit (physDie s d)) 0 0
  | .walker h pa =>
    let s := unstrike s x
    recordCorrected { s with walkers := tput s.walkers h ((tget s.walkers h []).filter (fun p => p != pa)) } (2 * h) (noUnit (physDie s (2 * h))) 0 0
  | .corrected u => foundCorrected (unstrike s x) u 0
  | _ => s

/-- The unit of n that a sweep of all of them in a period of cycles reads in this cycle, in address order, if it reads one. -/
def sweepAt (n period cycle : Nat) : Option Nat :=
  let t := cycle % period
  if t = 0 || t * n / period ≠ (t - 1) * n / period then some (t * n / period) else none

/-- The words that the patrol scrubber reads in this cycle: each pool's words in 2^32 cycles, the DRAM's bursts in 2^38 (R409, entry 144); without an
armed injection there is nothing for it to find. -/
def scrubDue (s : State) : List Instr :=
  if s.injPool.isEmpty && s.injHub.isEmpty then []
  else
    (match sweepAt (poolSize / 16) (2 ^ 32) s.cycle with
      | some i => (List.range 8).map (fun d => Instr.patrolScrub (poolBase d + 16 * i) .clean)
      | none => []) ++
    (match sweepAt 12000000000 (2 ^ 38) s.cycle with | some i => [.patrolScrub (64 * i) .clean] | none => [])

/-- The next cycle: its events are those due in it, the inputs that have come and the scrubber's. -/
def nextCycle (s : State) : State :=
  let now := s.cycle + 1
  let due := (s.timers.filter (fun t => decide (t.1 ≤ now))).map (fun t => t.2)
  let t := settleInjections { s with cycle := now, timers := s.timers.filter (fun t => decide (now < t.1)), inbox := [] }
  let t := t.strikes.foldl settleStrike t
  { t with agenda := cycleActs t (due ++ s.inbox ++ scrubDue t) }

/-- What happens in a module without power: nothing, until power comes (R421). -/
def unpowered (s : State) : Out :=
  if s.inbox.contains .powerOn then exec .powerOn { s with inbox := s.inbox.filter (fun i => i != .powerOn) } else .fault .poweredOff

/-- A processor's turn, the word's processor named. -/
def issueAct (s : State) (p : Proc) : State :=
  match p with
  | .cc d => issueCc s d
  | .ap d c => issueProc s p d c true
  | .xp d c => issueProc s p d c false
  | .courier d c => courierTurn s d c

/-- A processor's passage of a group. -/
def passAct (s : State) (p : Proc) : State :=
  match p with
  | .ap d c => passedAct s p d c true
  | .xp d c => passedAct s p d c false
  | _ => s

/-- One act of a cycle. -/
def runAct (s : State) (a : Act) : Out :=
  match a with
  | .ev i => exec i s
  | .word p addr => if trappedNow s p then .next s else runWord s p addr
  | .issue p => .next (issueAct s p)
  | .passed p => .next (passAct s p)
  | .poll d c => .next (pollCore s d c)
  | .device => .next (pollDevice s)
  | .settle d c => .next (settleAct s d c)

/-! ## One instruction placed where the next step fetches (entry 9) -/

/-- The page of code: its address in address space 0, and its frame. -/
def codeVa : Nat := 0x200000

/-- The frame of the page of code. -/
def codeFrame : Nat := 0x400000

/-- The page table of the page of code: its first entry leads to itself, its second is a 2 MiB page. -/
def codeTable : Nat := 0x1000

/-- Memory with n bytes of code, reached through a page table. -/
def placeCode (s : State) (n w : Nat) : State :=
  let table : List Word :=
    [fieldAt 1 63 ||| fieldAt (codeTable / 4096) 0, 0,
     fieldAt 1 63 ||| fieldAt 1 62 ||| fieldAt 1 61 ||| fieldAt 1 53 ||| fieldAt 2 43 ||| fieldAt (codeFrame / 4096) 0, 0]
  { s with
    mem := writeBytes (writeBytes s.mem codeTable (wordsBytes table)) codeFrame (leBytes n w)
    spaces := tput s.spaces 0 { spaceOf s 0 with root := codeTable } }

/-- A task whose text is the page of code. -/
def codeTask : Running :=
  { wdie := 0, serial := 0, shard := 0, shards := 1, asid := 0, vt := 0, image := codeVa, textOff := 0, textSize := 4096, loopOff := 0,
    loopCnt := 0, seed := 0, strict := false, committed := false, desc := [], launch := 0, phys := 0 }

/-- A processor that has fetched the first group of the page of code. -/
def codeProc (now : Nat) : ProcState :=
  { ProcState.idle with pc := codeVa + 8, ready := now + 1, stopped := false, group := codeVa }

/-- The state with core 0 of die 0 at the first group of the page of code. -/
def placeTask (s : State) : State :=
  onCore s 0 0 (fun x => { x with task := some codeTask, ap := codeProc s.cycle, xp := codeProc s.cycle })

/-- The state with that core's courier at the first word of the page of code. -/
def placeCourier (s : State) : State :=
  let n := nextSeq (placeTask s)
  onCore n.2 0 0 (fun x => { x with
    cmds := x.cmds ++ [{ Cmd.blank n.1 .courier .courier s.cycle with params := [BitVec.ofNat 64 codeVa, 0, 0], started := some s.cycle }]
    courier := { Courier.idle with running := true, cmd := n.1, prog := codeVa, pc := codeVa, wb := List.replicate 8 0 } })

/-- The state whose next step runs one instruction: a courier word of 32 bits, or a word of 64 bits on the processor that its engine
tag names. -/
def placeWord (s : State) (nbits w : Nat) : State :=
  if nbits ≤ 32 then { placeCourier (placeCode s 4 w) with agenda := [.word (.courier 0 0) codeVa] }
  else
    let e := engOf (BitVec.ofNat 64 w)
    if e = 7 then
      { onCtl s 0 (fun c => { c with
          firmware := writeBytes c.firmware 0 (leBytes 8 w), monitor := true
          mon := { c.mon with state := .runnable, wait := .none, ready := s.cycle + 1, regs := { c.mon.regs with pc := 8 } } }) with
        agenda := [.word (.cc 0) 0] }
    else
      { placeTask (placeCode s 8 w) with agenda := [.word (if e = 0 || e = 4 then .ap 0 0 else .xp 0 0) codeVa] }

end

end Sys2Proof.Machine
end

