-- ==== Sys2Proof/Machine/Step.lean ====
section
/-! DEFINITION. One step: the next act of the cycle, or the next cycle. -/

namespace Sys2Proof.Machine

noncomputable section

/-- One step: the first act of the agenda; when there is none, the next cycle begins, unless the module has no power. -/
def step (s : State) : Host.Outcome State Fault Refusal :=
  match s.agenda with
  | [] => if s.boot.step == .off then unpowered s else .next (nextCycle s)
  | a :: rest => runAct { s with agenda := rest } a

end

/-- The state in which step fetches and runs one instruction. -/
def State.withFetchWord (s : State) (nbits w : Nat) : State := placeWord s nbits w

end Sys2Proof.Machine
end

