-- ==== Sys2Proof/Safety.lean ====
section
/-! DEFINITION. What a safe step is, in the terms the statements use. -/

namespace Sys2Proof.Machine

/-- A step that answers a next state. -/
def Completes (o : Out) : Prop := ∃ t, o = .next t

end Sys2Proof.Machine
end

