-- ==== Sys2Proof/Certificates/Slice0/Obligations.lean ====
section
/-! DEFINITION. The statements for the provers. The tables that they range over come first, each written from the rule it names; then
the statements, in the order of the manual's chapters. -/

namespace Sys2Proof.Statements

open Sys2Proof.Machine

/-! ## Values of the integer words (R106, R107, R132, R167), by exact arithmetic -/

/-- A + B modulo 2^64. -/
def addW (a b : Word) : Word := BitVec.ofNat 64 (a.toNat + b.toNat)

/-- A − B modulo 2^64. -/
def subW (a b : Word) : Word := BitVec.ofInt 64 ((a.toNat : Int) - b.toNat)

/-- The low 64 bits of A·B. -/
def mulW (a b : Word) : Word := BitVec.ofNat 64 (a.toNat * b.toNat)

/-- A shifted left by n places. -/
def shlW (a : Word) (n : Nat) : Word := BitVec.ofNat 64 (a.toNat * 2 ^ n)

/-- A shifted right by n places, zero fill. -/
def shrW (a : Word) (n : Nat) : Word := BitVec.ofNat 64 (a.toNat / 2 ^ n)

/-- A shifted right by n places, sign fill: the quotient of the signed value rounded down. -/
def sarW (a : Word) (n : Nat) : Word := BitVec.ofInt 64 (Int.fdiv a.toInt (2 ^ n))

/-- The signed minimum. -/
def minW (a b : Word) : Word := BitVec.ofInt 64 (min a.toInt b.toInt)

/-- The signed maximum. -/
def maxW (a b : Word) : Word := BitVec.ofInt 64 (max a.toInt b.toInt)

/-- The unsigned minimum. -/
def minuW (a b : Word) : Word := BitVec.ofNat 64 (min a.toNat b.toNat)

/-- The unsigned maximum. -/
def maxuW (a b : Word) : Word := BitVec.ofNat 64 (max a.toNat b.toNat)

/-- The signed immediate of 25 bits as a word. -/
def simm (i : BitVec 25) : Word := BitVec.ofInt 64 i.toInt

/-- The unsigned immediate of 25 bits as a word. -/
def uimm (i : BitVec 25) : Word := BitVec.ofNat 64 i.toNat

/-! ## The control core's words (R106 to R109) -/

/-- R106, but for SEL: the words, their latency (R102) and their result. -/
def ccInt3 : List ((Hdr → F3 → Instr) × Nat × (Word → Word → Word)) :=
  [(.ccAdd, 1, addW), (.ccSub, 1, subW), (.ccAnd, 1, fun a b => a &&& b), (.ccOr, 1, fun a b => a ||| b),
   (.ccXor, 1, fun a b => a ^^^ b), (.ccShl, 1, fun a b => shlW a (b.toNat % 64)), (.ccShr, 1, fun a b => shrW a (b.toNat % 64)),
   (.ccSar, 1, fun a b => sarW a (b.toNat % 64)), (.ccMul, 3, mulW),
   (.ccMulh, 3, fun a b => BitVec.ofInt 64 (Int.fdiv (a.toInt * b.toInt) (2 ^ 64))),
   (.ccMin, 1, minW), (.ccMax, 1, maxW), (.ccMinu, 1, minuW), (.ccMaxu, 1, maxuW)]

/-- The divisions of R106: signed or not, quotient or remainder. -/
def ccDivisions : List ((Hdr → F3 → Instr) × Bool × Bool) :=
  [(.ccDiv, true, true), (.ccDivu, false, true), (.ccRem, true, false), (.ccRemu, false, false)]

/-- Divide of R106: quotient and remainder as integers, before they are narrowed to 64 bits. -/
def quotRem (signed : Bool) (a b : Word) : Int × Int :=
  if b = 0 then (-1, a.toInt)
  else if signed then (Int.tdiv a.toInt b.toInt, Int.tmod a.toInt b.toInt)
  else ((a.toNat / b.toNat : Nat), (a.toNat % b.toNat : Nat))

/-- R107: the words, their latency and their result. -/
def ccIntI : List ((Hdr → FI → Instr) × Nat × (Word → BitVec 25 → Word)) :=
  [(.ccAddi, 1, fun a i => addW a (simm i)), (.ccAndi, 1, fun a i => a &&& uimm i), (.ccOri, 1, fun a i => a ||| uimm i),
   (.ccXori, 1, fun a i => a ^^^ uimm i), (.ccShli, 1, fun a i => shlW a (i.toNat % 64)),
   (.ccShri, 1, fun a i => shrW a (i.toNat % 64)), (.ccSari, 1, fun a i => sarW a (i.toNat % 64)),
   (.ccMuli, 3, fun a i => mulW a (simm i)), (.ccLui, 1, fun _ i => shlW (simm i) 25)]

/-- The relations of R108 in the order of their minors. -/
def relations : List (Word → Word → Bool) :=
  [fun a b => decide (a = b), fun a b => decide (a ≠ b), fun a b => decide (a.toInt < b.toInt), fun a b => decide (a.toInt ≤ b.toInt),
   fun a b => decide (a.toNat < b.toNat), fun a b => decide (a.toNat ≤ b.toNat)]

/-- The compares of R108 of two registers. -/
def ccCmp : List ((Hdr → F3 → Instr) × (Word → Word → Bool)) :=
  [Instr.ccCmpEq, .ccCmpNe, .ccCmpLt, .ccCmpLe, .ccCmpLtu, .ccCmpLeu].zip relations

/-- The compares of R108 with an immediate. -/
def ccCmpi : List ((Hdr → FI → Instr) × (Word → Word → Bool)) :=
  [Instr.ccCmpiEq, .ccCmpiNe, .ccCmpiLt, .ccCmpiLe, .ccCmpiLtu, .ccCmpiLeu].zip relations

/-- The predicate words of R108. -/
def ccPreds : List ((Hdr → F3 → Instr) × (Bool → Bool → Bool)) :=
  [(.ccPand, fun a b => a && b), (.ccPor, fun a b => a || b), (.ccPxor, fun a b => xor a b), (.ccPnot, fun a _ => !a)]

/-- Predicate n of the set that runs. -/
def ccPred (s : State) (n : BitVec 10) : Bool := predGet (ccRegs s).p n.toNat

end Sys2Proof.Statements

section Statements

open Sys2Proof Sys2Proof.Machine Sys2Proof.Statements

/-! ## Encoding (R28, R34 to R38, R53 to R64) -/

/-- DECODE AND ENCODE AGREE: the bytes of every well-formed instruction that has a word decode to that instruction, every operand
at every value that its encoding admits. -/
def Obligations.EncodedInstructionDecodes : Prop :=
  ∀ (i : Instr) (bs : List Byte), i.wf = true → encode i = some bs → decode bs = some i

/-- Every word that decodes is the word of the instruction it decodes to, bit for bit, and that instruction is well formed. -/
def Obligations.DecodedWordEncodes : Prop :=
  ∀ (bs : List Byte) (i : Instr), decode bs = some i → i.wf = true ∧ encode i = some bs

/-- Some words written out from the opcode map, a family each, and what they decode to. -/
def Obligations.WordsOfTheMapDecode : Prop :=
  decodeTableWord 64 0x1000000000000000 = some (.apAdd ⟨true, false, 0⟩ ⟨0, 0, 0, 0, 0, 0⟩) ∧
  decodeTableWord 64 0x3386006006020198 = some (.vfma ⟨true, false, 0⟩ ⟨12, 3, 4, 12, 6, 0⟩) ∧
  decodeTableWord 64 0xF380002810000009 = some (.post ⟨true, false, 0⟩ ⟨5, 8, 9⟩) ∧
  decodeTableWord 64 0x90000286200A6042 = some (.ecCopy ⟨true, false, 0⟩ ⟨5, 3, 4, 0, 0x53, 8, 2⟩) ∧
  decodeTableWord 64 0xB080000000000008 = some (.slip ⟨true, false, 0⟩ ⟨0, 0, 8⟩) ∧
  decodeTableWord 32 0x50000000 = some .cwEnd

/-- The fates of encodings that are not instructions (R55): the reserved tag on every processor, the control core's tag on a task core,
every other tag on the control core, an opcode that is not assigned, and an assigned one with a field that its instruction forbids. -/
def Obligations.NotInstructions : Prop :=
  ∀ w : Word,
    (engOf w = 6 → ∀ cc, checkWord cc w = .error .illegalEng) ∧
    (engOf w = 7 → checkWord false w = .error .illegalEng) ∧
    (engOf w ≠ 7 → checkWord true w = .error .illegalEng) ∧
    (engOf w = 7 → w.getLsbD 60 = false → checkWord true w = .error .reservedField) ∧
    (engOf w = 7 → w.getLsbD 60 = true → decodeOp w = none → checkWord true w = .error .illegalOp) ∧
    (engOf w = 7 → w.getLsbD 60 = true → ∀ i, decodeOp w = some i → i.wf = false → checkWord true w = .error .reservedField) ∧
    (engOf w < 6 → decodeOp w = none → checkWord false w = .error .illegalOp) ∧
    (engOf w < 6 → ∀ i, decodeOp w = some i → i.wf = false → checkWord false w = .error .reservedField) ∧
    (∀ cc i, checkWord cc w = .ok i → i.wf = true)

end Statements

namespace Sys2Proof.Statements

open Sys2Proof.Machine

/-! ## Where the control core goes (R97, R109) -/

/-- The address PC + 8·SExt(OFF25). -/
def ccLabel (s : State) (off : BitVec 25) : Word := BitVec.ofInt 64 ((s.focus.pc : Int) + 8 * off.toInt)

/-- A jump taken: ALIGN for a target that is not a multiple of 8, PROT for one outside the text, the target in EINFO; else the next
word is the target's, two cycles on. -/
def ccGoes (s : State) (target : Word) : State :=
  if target.toNat % 8 ≠ 0 then ccTrapHere s .align target
  else if target.toNat ≥ ccTextSize s then ccTrapHere s .prot target
  else ccOn s (fun x => { x with regs := { x.regs with pc := target.toNat }, ready := s.cycle + 2 })

/-- Whether a target may be jumped to. -/
def ccMayGo (s : State) (target : Word) : Bool := target.toNat % 8 = 0 && target.toNat < ccTextSize s

/-- A call: the jump, and the address of the word after the call in c31 one cycle later. -/
def ccCalls (s : State) (target : Word) : State :=
  if ccMayGo s target then ccLand (ccGoes s target) 1 [.cc (ccSet s) 31 (BitVec.ofNat 64 (s.focus.pc + 8))] else ccGoes s target

/-! ## The control core's window, vintage and system words -/

/-- R118: WINQ's selectors and the value each reads. -/
def winqValues : List ((Hdr → FS → Instr) × (Die → Word → Nat)) :=
  [(.winqLiveEntries, fun x _ => x.entries.length), (.winqFreeEntries, fun x _ => 2 ^ x.wlog2 - x.entries.length),
   (.winqLetterbox, fun x _ => x.letterbox.length), (.winqNextSerial, fun x _ => x.nextSerial),
   (.winqLowestLive, fun x _ => lowestLive x),
   (.winqFreeRename, fun x _ => x.renameMib * 256 - (x.renameUsed.map (fun u => u.2)).sum),
   (.winqTaskState, fun x a => serialCode x (a.toNat % 2 ^ 48))]

/-- R117: WINCFG's selectors, and whether graph mode may use them. -/
def wincfgWords : List ((Hdr → FS → Instr) × Nat × Bool) :=
  [(.wincfgDispatchHold, 0, false), (.wincfgLetterboxAccept, 1, false), (.wincfgPriorityCeiling, 2, true)]

/-- R113: the fences and their scopes. -/
def ccFences : List ((Hdr → FS → Instr) × Nat) := [(.ccFenceCore, 0), (.ccFenceDie, 1), (.ccFenceDev, 2), (.ccFenceDom, 3)]

/-- R112: the atomics. -/
def ccAmos : List ((Hdr → FM → Instr) × AmoOp) :=
  [(.ccAmoAdd, .add), (.ccAmoAnd, .and), (.ccAmoOr, .or), (.ccAmoXor, .xor), (.ccAmoMin, .min), (.ccAmoMax, .max), (.ccAmoMinu, .minu),
   (.ccAmoMaxu, .maxu), (.ccAmoSwap, .swap), (.ccAmoCas, .cas)]

/-- R110: the loads, whether each extends the sign and whether it is an acquire. -/
def ccLoads : List ((Hdr → FM → Instr) × Bool × Bool) := [(.ccLd, false, false), (.ccLds, true, false), (.ccLda, false, true)]

/-- R110: the stores, and whether each is a release. -/
def ccStores : List ((Hdr → FM → Instr) × Bool) := [(.ccSt, false), (.ccStl, true)]

/-- What the parts of an access of the control core come to. -/
def ccPieces (s : State) (write ordered : Bool) (va len : Nat) : List Part × Option Stop × State :=
  ccSplit s { write := write, raw := true, ordered := ordered, hostTrap := true } va len

/-- The context that runs, or that the monitor has interrupted. -/
def contextOf (c : Ctl) : Nat := if c.monitor then c.pctx else c.ctx

/-- The system registers that a plain SYSR reads in both modes, and what each holds on a die (R99, R100; VLIM in monitor mode is that of MSTAT.MAS: entry
124). -/
def sysValues : List (Nat × (State → Nat → Ctl → Word)) :=
  [(0, fun _ _ c => BitVec.ofNat 64 (c.mas * 2 ^ 32) ||| BitVec.ofNat 64 (c.pctx * 2 ^ 12) ||| BitVec.ofNat 64 (c.pmode.toNat * 2 ^ 11)
      ||| BitVec.ofNat 64 (c.ctx * 2 ^ 8) ||| BitVec.ofNat 64 c.monitor.toNat),
   (0x10, fun _ d c => BitVec.ofNat 64 (d * 2 ^ 8) ||| BitVec.ofNat 64 (contextOf c)),
   (0x11, fun s _ _ => BitVec.ofNat 64 s.cycle), (0x12, fun s _ _ => BitVec.ofNat 64 (s.cycle / 25)),
   (0x13, fun s _ c => ((s.launches.find? (fun l => l.number == (c.ctxOf (contextOf c)).launch)).map (fun l => l.seed)).getD 0),
   (0x14, fun s _ _ => BitVec.ofNat 64 (s.devid.getD 0)), (0x15, fun s d c => BitVec.ofNat 64 (spaceOf s (setAsid s d c.set)).vlim),
   (0x20, fun _ _ c => BitVec.ofNat 64 ((List.range 8).foldl (fun n i =>
      n + (match (c.ctxOf i).state with | .free => 0 | .runnable => 1 | .waiting => 2 | .done => 3) * 4 ^ i) 0))]

/-- The system registers that a plain SYSR reads in monitor mode alone, and what each holds (R99 to R101, R402, R415). -/
def sysHeld : List (Nat × (Die → Word)) :=
  [(1, fun x => x.ctl.tvec), (2, fun x => x.ctl.epc), (3, fun x => x.ctl.ecause), (4, fun x => x.ctl.einfo), (5, fun x => x.ctl.escratch),
   (0x210000, fun x => BitVec.ofNat 64 x.thresh), (0x220000, fun x => x.inj), (0x220001, fun x => x.injmem), (0x230000, fun x => x.testrec),
   (0x240000, fun x => BitVec.ofNat 64 x.errcnt), (0x270000, fun _ => 0xB1AE5E0000)]

/-- The scores that a control core reads: the first number of each kind, how many there are, and each's score on its die (R402, R415). -/
def sysScores : List (Nat × Nat × (State → Die → Nat → Nat)) :=
  [(0x200000, 512, fun _ x n => tget x.pscore n 0), (0x250000, 32, fun _ x n => tget x.cscore n 0), (0x250100, 16, fun _ x n => tget x.gscore n 0),
   (0x250200, 4, fun _ x n => tget x.lscore n 0), (0x260000, 2048, fun s _ n => tget s.hscore n 0), (0x261000, 16, fun s _ n => tget s.fscore n 0)]

/-- The registers of the core that a monitor's SYSW writes, the value each keeps of what is written (R99 to R101). -/
def sysWrites : List (Nat × (Ctl → Word → Ctl)) :=
  [(0, fun c v => { c with mas := v.toNat / 2 ^ 32 % 2 ^ 8, pctx := v.toNat / 2 ^ 12 % 2 ^ 3, pmode := v.getLsbD 11 }),
   (1, fun c v => { c with tvec := v &&& ~~~7 }), (2, fun c v => { c with epc := v }),
   (3, fun c v => { c with ecause := BitVec.ofNat 64 (v.toNat / 2 ^ 32 * 2 ^ 32 + v.toNat % 2 ^ 9) }),
   (4, fun c v => { c with einfo := v }), (5, fun c v => { c with escratch := v })]

/-- Whether a launch is over: each of its contexts is DONE or FREE, and every window is empty, with all that waits for it (R126). -/
def launchOver (s : State) (l : Launch) : Prop :=
  ∀ x ∈ s.dies, (∀ k ∈ x.2.ctl.ctxs, k.2.launch = l.number → k.2.state = .done ∨ k.2.state = .free) ∧
    x.2.entries = [] ∧ x.2.letterbox = [] ∧ x.2.childQueue = [] ∧ x.2.stalled = []

/-- The cycle in which a write is visible at a scope: its core, its die, or the device and beyond. -/
def visibleAt (scope : Nat) (w : Pending) : Nat := match scope with | 0 => w.reach.core | 1 => w.reach.die | _ => w.due

/-- A write under way: nothing of the state t changes but the order marks, the next number and the writes under way, of which it is the
last; its act is due at its home no earlier than a cycle. -/
def HandsOver (t u : State) (agent : AgentId) (kind : PageKind) (release : Bool) (act : WriteAct) (earliest : Nat) : Prop :=
  ∃ w order, u = at' { t with seq := t.seq + 1, order := order, writes := t.writes ++ [w] } w.due (.writePerformedAtHome w.id) ∧
    w.id = t.seq ∧ w.agent = agent ∧ w.kind = kind ∧ w.release = release ∧ w.act = act ∧ earliest ≤ w.due

/-- What an act does at each of some groups of its parts, the first of them at a place. -/
def shares (ps : List Part) (act : WriteAct) : List (List Part) → Nat → List (List Part × WriteAct)
  | [], _ => []
  | g :: rest, first => (g, act.slice ps first g.length) :: shares ps act rest (first + g.length)

/-- Writes under way one after another, each of a group of parts, of the kind of their pages: none is due before the paths and the translations of its parts
allow, nor before the one handed over before it. -/
def HandsOverRuns (agent : AgentId) (release : Bool) : List (List Part × WriteAct) → Nat → State → State → Prop
  | [], _, t, u => u = t
  | (g, act) :: rest, earliest, t, u => ∃ v, HandsOver t v agent (kindOf g) release act (max earliest (t.cycle + partsLat t t.focus.die g)) ∧
      HandsOverRuns agent release rest ((v.writes.getLast?.map (fun w => w.due)).getD 0) v u

end Sys2Proof.Statements

section Statements

open Sys2Proof Sys2Proof.Machine Sys2Proof.Statements

/-! ## The control core: integer and predicate words, branches (R102, R106 to R109) -/

/-- INT3 but for SEL and the divisions: the result of the table lands in D after the table's latency when the predicate holds, and a
word whose predicate is false does nothing. -/
def Sys2Proof.Statements.CcInt3Results : Prop :=
  ∀ e ∈ ccInt3, ∀ (h : Hdr) (f : F3) (s : State),
    exec (e.1 h f) s = .next (if ccHolds h s
      then ccLand s e.2.1 [.cc (ccSet s) f.d.toNat (e.2.2 (ccGet s f.a) (ccGet s f.b))] else s)

/-- DIV, DIVU, REM, REMU: the quotient or the remainder of Divide lands after 18 cycles, on every operand; and SEL. -/
def Sys2Proof.Statements.CcDivisionResults : Prop :=
  (∀ e ∈ ccDivisions, ∀ (h : Hdr) (f : F3) (s : State),
    exec (e.1 h f) s = .next (if ccHolds h s
      then ccLand s 18 [.cc (ccSet s) f.d.toNat (BitVec.ofInt 64
        (if e.2.2 then (quotRem e.2.1 (ccGet s f.a) (ccGet s f.b)).1 else (quotRem e.2.1 (ccGet s f.a) (ccGet s f.b)).2))] else s)) ∧
  (∀ (h : Hdr) (f : F3) (s : State),
    exec (.ccSel h f) s = .next (if ccHolds h s
      then ccLand s 1 [.cc (ccSet s) f.d.toNat (if ccPred s f.c then ccGet s f.a else ccGet s f.b)] else s))

/-- INTI: the result of the table lands in D after the table's latency. -/
def Sys2Proof.Statements.CcIntIResults : Prop :=
  ∀ e ∈ ccIntI, ∀ (h : Hdr) (f : FI) (s : State),
    exec (e.1 h f) s = .next (if ccHolds h s then ccLand s e.2.1 [.cc (ccSet s) f.d.toNat (e.2.2 (ccGet s f.a) f.imm)] else s)

/-- The integer words of the control core: INT3, the divisions, SEL and INTI. -/
def Obligations.CcIntegerResults : Prop := CcInt3Results ∧ CcDivisionResults ∧ CcIntIResults

/-- CMP and the predicate words: p[D] gets the relation, or the operation on predicates, one cycle later. -/
def Sys2Proof.Statements.CcPredicateResults : Prop :=
  (∀ e ∈ ccCmp, ∀ (h : Hdr) (f : F3) (s : State),
    exec (e.1 h f) s = .next (if ccHolds h s
      then ccLand s 1 [.ccPred (ccSet s) f.d.toNat (e.2 (ccGet s f.a) (ccGet s f.b))] else s)) ∧
  (∀ e ∈ ccCmpi, ∀ (h : Hdr) (f : FI) (s : State),
    exec (e.1 h f) s = .next (if ccHolds h s
      then ccLand s 1 [.ccPred (ccSet s) f.d.toNat (e.2 (ccGet s f.a) (simm f.imm))] else s)) ∧
  (∀ e ∈ ccPreds, ∀ (h : Hdr) (f : F3) (s : State),
    exec (e.1 h f) s = .next (if ccHolds h s
      then ccLand s 1 [.ccPred (ccSet s) f.d.toNat (e.2 (ccPred s f.a) (ccPred s f.b))] else s))

/-- BRANCH: where each of its words goes, what it links, and its traps. -/
def Sys2Proof.Statements.CcBranches : Prop :=
  ∀ (h : Hdr) (f : FB) (s : State),
    exec (.ccBr h f) s = .next (if ccHolds h s then ccGoes s (ccLabel s f.off) else s) ∧
    exec (.ccJmp h f) s = .next (ccGoes s (ccLabel s f.off)) ∧
    exec (.ccJmpr h f) s = .next (ccGoes s (ccGet s f.d)) ∧
    exec (.ccCall h f) s = .next (ccCalls s (ccLabel s f.off)) ∧
    exec (.ccCallr h f) s = .next (ccCalls s (ccGet s f.d)) ∧
    exec (.ccRet h f) s = .next (ccGoes s (ccGet s 31))

/-- The predicate words and the branches of the control core. -/
def Obligations.CcPredicatesAndBranches : Prop := CcPredicateResults ∧ CcBranches

/-! ## The control core: memory (R110 to R113) -/

/-- Loads: at an aligned address whose parts can all be accessed, the value of the bytes at c[A] + c[B] + SExt(OFF12)·size is set to
land in D when the access is performed, and the next word waits for it; a misaligned address traps ALIGN with the address in EINFO. -/
def Obligations.CcLoadsComplete : Prop :=
  ∀ e ∈ ccLoads, ∀ (h : Hdr) (f : FM) (s t : State) (ps : List Part), ccHolds h s = true →
    let size : Nat := 2 ^ f.sz.toNat
    let va := (BitVec.ofInt 64 ((ccGet s f.a).toNat + (ccGet s f.b).toNat + f.off.toInt * (size : Int))).toNat
    (va % size ≠ 0 → exec (e.1 h f) s = .next (ccTrapHere s .align (BitVec.ofNat 64 va))) ∧
    (va % size = 0 → ccPieces s false e.2.2 va size = (ps, none, t) →
      ∃ due order, t.cycle + partsLat t s.focus.die ps ≤ due ∧
        exec (e.1 h f) s = .next (ccHold (land { t with seq := t.seq + 1, order := order } (.ctl s.focus.die) due
          [.load (.cc (ccSet s) f.d.toNat) e.2.1 (runsOf ps) (ccAgent t) t.seq s.focus.pc]) due))

/-- Stores: at an aligned address whose parts can all be written, the low bytes of c[D] leave for them as one outward action that
the checker matches 8 cycles on, and no byte of memory changes before that. -/
def Sys2Proof.Statements.CcStoresComplete : Prop :=
  ∀ e ∈ ccStores, ∀ (h : Hdr) (f : FM) (s t : State) (p : Part) (ps : List Part), ccHolds h s = true →
    let size : Nat := 2 ^ f.sz.toNat
    let va := (BitVec.ofInt 64 ((ccGet s f.a).toNat + (ccGet s f.b).toNat + f.off.toInt * (size : Int))).toNat
    va % size = 0 → ccPieces s true e.2 va size = (p :: ps, none, t) →
      ∃ u plan, exec (e.1 h f) s = .next u ∧ u.mem = t.mem ∧ u.writes = t.writes ∧
        (ctlOf u t.focus.die).outward = (ctlOf t t.focus.die).outward ++
          [{ due := t.cycle + 8, set := ccSet t, snap := (ctlOf t t.focus.die).snap (ccSet t), whole := true,
             act := .store (ccAsid t) va (dealBytes (p :: ps) (leBytes size (ccGet s f.d).toNat)) (kindOf (p :: ps)) e.2 plan }]

/-- Atomics: at an aligned address that can be written, the operation leaves as an outward action with c[B] as its operand and c[D]
as what CAS compares; the set is blocked until the old value lands. -/
def Sys2Proof.Statements.CcAtomicsComplete : Prop :=
  ∀ e ∈ ccAmos, ∀ (h : Hdr) (f : FM) (s t : State) (p : Part) (ps : List Part), ccHolds h s = true →
    (ccGet s f.a).toNat % 2 ^ f.sz.toNat = 0 →
    ccPieces s true false (ccGet s f.a).toNat (2 ^ f.sz.toNat) = (p :: ps, none, t) →
    exec (e.1 h f) s = .next (ccBlock (outward t 8
      (.amo e.2 (ccAsid s) (ccGet s f.a).toNat (2 ^ f.sz.toNat) (ccGet s f.b) (ccGet s f.d) f.d.toNat)))

/-- The stores and the atomics of the control core leave as outward actions. -/
def Obligations.CcWritesLeave : Prop := CcStoresComplete ∧ CcAtomicsComplete

/-- Fences: the set waits at the scope, its next word issues no earlier than nine cycles on, and no later access of the set is
performed before its earlier ones; no byte of memory changes. That a fence ends no earlier than its count is the model's choice: entry 35. -/
def Sys2Proof.Statements.CcFencesComplete : Prop :=
  ∀ e ∈ ccFences, ∀ (h : Hdr) (f : FS) (s : State),
    exec (e.1 h f) s = .next (if ccHolds h s
      then ccHold (ccOn (fenceMark s (ccAgent s) (e.2 = 3)) (fun x => { x with wait := .fence e.2 })) (s.cycle + 9) else s)

/-! ## The control core: posting, the window, vintages (R114 to R125) -/

/-- POST, POST.NB, POST.G and RPOST in graph mode, with an aligned record that can be read and an aligned slot: the set is blocked, and the
record's post is on its way to the checker, which reads and checks the record when the path's latency has passed; in monitor mode each traps
PROT. EINFO 0 of that PROT is the model's choice: entry 150. -/
def Obligations.CcPostsComplete : Prop :=
  ∀ (h : Hdr) (f : FS) (s t : State) (ps : List Part) (va slot : Nat), ccHolds h s = true →
    let d := s.focus.die
    let named := f.num.toNat % 64
    let q (nb : Option Nat) : PostReq := postReq s f.d.toNat nb
    let read (n : Nat) := splitAccess d none (ccAsid s) 0 { write := false, raw := true, ordered := false, hostTrap := true } va (256 * n) s
    let leaves (a : OutAct) : Out := .next (ccBlock (outPost t (partsLat t d ps) a))
    va = (ccGet s f.a).toNat → va % 64 = 0 →
    (slot = if named = 0 then 0 else ((ccRegs s).get named).toNat + 1) → (slot = 0 ∨ (slot - 1) % 64 = 0) →
    ((ctlOf s d).monitor = true → ∀ i ∈ [Instr.post h f, .postNb h f, .postG h f, .rpost h f],
      exec i s = .next (ccTrapHere s .prot 0)) ∧
    ((ctlOf s d).monitor = false →
      (read 1 = (ps, none, t) →
        exec (.post h f) s = leaves (.post (q none) va slot 1) ∧
        exec (.postNb h f) s = leaves (.post (q (some (f.num.toNat / 64 % 8))) va slot 1) ∧
        exec (.rpost h f) s = leaves (.rpost (q none) va (((ccRegs s).get named).toNat % 2 ^ 12) (((ccRegs s).get named).toNat / 2 ^ 12 % 8))) ∧
      (∀ n, n = f.num.toNat / 512 % 4 + 2 → read n = (ps, none, t) →
        exec (.postG h f) s = leaves (.post (q none) va slot n)))

/-- CANCEL, VALLOC, VALLOC.NB and VRET leave as outward actions that the checker matches 8 cycles on; the first three block their set.
VALLOC traps PROT in monitor mode; VRET traps VINTAGE_STATE for a vintage that is not LIVE, which vintage 0 is for it. EINFO 0 of that PROT is the model's choice: entry 150. -/
def Sys2Proof.Statements.CcOutwardWords : Prop :=
  ∀ (h : Hdr) (f : FS) (s : State), ccHolds h s = true →
    let v := (ccGet s f.a).toNat
    let there := ((ccRegs s).get (f.num.toNat % 64)).toNat
    exec (.cancel h f) s = .next (ccBlock (outward s 8 (.cancel (v % 2 ^ 48)
      (if f.num.toNat % 64 = 0 then 4096 else there % 2 ^ 12) (if f.num.toNat % 64 = 0 then s.focus.die else there / 2 ^ 12 % 8) f.d.toNat))) ∧
    ((ctlOf s s.focus.die).monitor = false →
      exec (.valloc h f) s = .next (ccBlock (outward s 8 (.valloc f.d.toNat none))) ∧
      exec (.vallocNb h f) s = .next (ccBlock (outward s 8 (.valloc f.d.toNat (some (f.num.toNat % 8)))))) ∧
    ((ctlOf s s.focus.die).monitor = true →
      exec (.valloc h f) s = .next (ccTrapHere s .prot 0) ∧ exec (.vallocNb h f) s = .next (ccTrapHere s .prot 0)) ∧
    (1 ≤ v → v ≤ 4095 → tget (spaceOf s (ccAsid s)).vints v .free = .live → exec (.vret h f) s = .next (outward s 8 (.vret (ccAsid s) v))) ∧
    (v = 0 ∨ 4095 < v ∨ tget (spaceOf s (ccAsid s)).vints v .free ≠ .live →
      exec (.vret h f) s = .next (ccTrapHere s .vintageState (BitVec.ofNat 64 v)))

/-- VFOLD of a LIVE vintage is the post of a fold record to the own window, with its completion slot if it names one; it traps PROT in monitor mode (EINFO 0:
the model's choice, entry 150), VINTAGE_STATE for a vintage that is not LIVE, ALIGN and PROT for its slot; that it is checked at the word, and not again, is the
model's choice: entries 40 and 122. VQUERY reads a vintage's state and cells, or the vintages that VALLOC could take, 40 cycles later, as they stand at issue (the
model's choice: entry 152). -/
def Sys2Proof.Statements.CcVintageWords : Prop :=
  ∀ (h : Hdr) (f : FS) (s : State), ccHolds h s = true →
    let v := (ccGet s f.a).toNat
    let a := spaceOf s (ccAsid s)
    let c := ctlOf s s.focus.die
    let live := (a.vints.filter (fun x => x.1 ≠ 0 && x.2 != .free)).length
    let named := f.num.toNat % 64
    let there := ((ccRegs s).get named).toNat
    let posts (slot : Nat) : Out := .next (ccBlock (outPost s 0 (.post
        { postReq s f.d.toNat none with recs := [foldRecord (ccAsid s) v (c.ctxOf c.set).ceiling], slots := [slot], foldOf := some v } 0 slot 1)))
    let written := ∃ l, walk s (ccAsid s) there = .ok l ∧ l.home = 0 ∧ l.wr = true
    (c.monitor = true → exec (.vfold h f) s = .next (ccTrapHere s .prot 0)) ∧
    (c.monitor = false → v = 0 ∨ 4095 < v ∨ tget a.vints v .free ≠ .live →
      exec (.vfold h f) s = .next (ccTrapHere s .vintageState (BitVec.ofNat 64 v))) ∧
    (1 ≤ v → v ≤ 4095 → tget a.vints v .free = .live → c.monitor = false →
      (named = 0 → exec (.vfold h f) s = posts 0) ∧
      (named ≠ 0 → there % 64 ≠ 0 → exec (.vfold h f) s = .next (ccTrapHere s .align (BitVec.ofNat 64 there))) ∧
      (named ≠ 0 → there % 64 = 0 → written → exec (.vfold h f) s = posts (there + 1)) ∧
      (named ≠ 0 → there % 64 = 0 → ¬ written → exec (.vfold h f) s = .next (ccTrapHere s .prot (BitVec.ofNat 64 there)))) ∧
    (1 ≤ v → v ≤ 4095 →
      exec (.vqueryState h f) s = .next (ccHold (ccLand s 40 [.cc (ccSet s) f.d.toNat
        (BitVec.ofNat 64 (match tget a.vints v .free with | .free => 0 | .live => 1 | .retiring => 2 | .folding => 3) |||
          BitVec.ofNat 64 (cellCount s (ccAsid s) v * 2 ^ 16))]) (s.cycle + 40))) ∧
    (v = 0 ∨ 4095 < v → exec (.vqueryState h f) s = .next (ccTrapHere s .vintageState (BitVec.ofNat 64 v))) ∧
    exec (.vqueryAvailable h f) s = .next (ccHold (ccLand s 40 [.cc (ccSet s) f.d.toNat
      (BitVec.ofNat 64 (min (4095 - live) (a.vlim - live)))]) (s.cycle + 40))

/-- CANCEL, the words of the vintages, and their traps. -/
def Obligations.CcVintages : Prop := CcOutwardWords ∧ CcVintageWords

/-- WINQ: the value is sampled in the issue cycle and lands in the next, for every selector. -/
def Sys2Proof.Statements.WinqValues : Prop :=
  ∀ e ∈ winqValues, ∀ (h : Hdr) (f : FS) (s : State),
    exec (e.1 h f) s = .next (if ccHolds h s
      then ccHold (ccLand s 1 [.cc (ccSet s) f.d.toNat (BitVec.ofNat 64 (e.2 (dieOf s s.focus.die) (ccGet s f.a)))]) (s.cycle + 1)
      else s)

/-- WINCFG leaves as an outward action in the modes that R117 allows it, and traps PROT in the others; letterbox accept cannot be set on a
die whose launch has no letterbox. EINFO 0 of the PROT is the model's choice: entry 150. -/
def Sys2Proof.Statements.WincfgModes : Prop :=
  ∀ e ∈ wincfgWords, ∀ (h : Hdr) (f : FS) (s : State), ccHolds h s = true →
    let c := ctlOf s s.focus.die
    let v := ccGet s f.a
    let fits := e.2.1 = 1 → v.getLsbD 0 = true → (dieOf s s.focus.die).letterboxBit = true
    (c.monitor = true ∨ e.2.2 = true → fits →
      exec (e.1 h f) s = .next (ccHold (outward s 8 (.wincfg e.2.1 v (if c.monitor then c.pctx else c.ctx))) (s.cycle + 8))) ∧
    (c.monitor = false → e.2.2 = false → exec (e.1 h f) s = .next (ccTrapHere s .prot 0)) ∧
    (c.monitor = true → ¬ fits → exec (e.1 h f) s = .next (ccTrapHere s .prot 0))

/-- WINQ reads the window and WINCFG sets it. -/
def Obligations.WindowRegisters : Prop := WinqValues ∧ WincfgModes

/-- TWAIT in graph mode: 0 at once for a serial never accepted, 1 at t + 2 for a final one unless a release of the context's is performed later,
else a wait with its deadline in ticks, which TWAIT_TIMEOUT ends with 0, in the cycle after it (the model's choice: entry 121). -/
def Sys2Proof.Statements.TwaitOutcomes : Prop :=
  (∀ (h : Hdr) (f : FS) (s : State), ccHolds h s = true → (ctlOf s s.focus.die).monitor = false →
    let n := (ccGet s f.a).toNat % 2 ^ 48
    let code := serialCode (dieOf s s.focus.die) n
    let ticks := f.num.toNat % 2 ^ 20
    (code = 15 → exec (.twait h f) s = .next (ccHold (ccLand s 1 [.ccPred (ccSet s) f.d.toNat false]) (s.cycle + 1))) ∧
    (7 ≤ code → code ≤ 9 → ∃ due, (due = s.cycle + 2 ∨ s.cycle + 2 < due ∧ due = (markOf s (ccAgent s)).rel) ∧
      exec (.twait h f) s = .next (ccHold (ccLand (noteAcquire s (ccAgent s) due) (due - s.cycle) [.ccPred (ccSet s) f.d.toNat true]) due)) ∧
    (code < 7 ∨ code = 10 → ticks = 0 → exec (.twait h f) s = .next (ccWait s (.serial n f.d.toNat none))) ∧
    (code < 7 ∨ code = 10 → 0 < ticks → exec (.twait h f) s = .next
      (at' (ccWait s (.serial n f.d.toNat (some (s.cycle + 25 * ticks)))) (s.cycle + 25 * ticks) (.twaitTimeout s.focus.die (ccSet s))))) ∧
  (∀ (d set n pd due : Nat) (s : State), ((ctlOf s d).ctxOf set).wait = .serial n pd (some due) → due ≤ s.cycle →
    exec (.twaitTimeout d set) s = .next (ccOutcome s d set (s.cycle + 1) [.ccPred set pd false]))

/-- WAIT of a context: the conditions that WMASK selects from w0 to w3 are waited for, with a deadline of 25 cycles a tick, and read at once
and every 64 cycles; one of kind 1 or 2 traps RESERVED_FIELD, and WAIT in monitor mode traps PROT. EINFO 0 of that PROT is the model's choice: entry 150. -/
def Sys2Proof.Statements.CcWaits : Prop :=
  ∀ (h : Hdr) (f : FW) (s : State), ccHolds h s = true →
    let ws := selected f.wmask ((List.range 4).map (fun i => (ccRegs s).get (32 + i)))
    ∀ i ∈ [Instr.ccWaitAny h f, .ccWaitAll h f],
      ((ctlOf s s.focus.die).monitor = true → exec i s = .next (ccTrapHere s .prot 0)) ∧
      ((ctlOf s s.focus.die).monitor = false →
        ((∃ w ∈ ws, w.toNat / 2 ^ 60 = 1 ∨ w.toNat / 2 ^ 60 = 2) → exec i s = .next (ccTrapHere s .reservedField 0)) ∧
        (ccCondTrap ws = none → f.timeout = 0 →
          exec i s = .next (nextReread (ccReread (ccWait s (.conds (f.all = 1) ws f.pd.toNat none)) s.focus.die (ccSet s) 1) s.focus.die)) ∧
        (ccCondTrap ws = none → 0 < f.timeout.toNat →
          exec i s = .next (nextReread (ccReread
            (at' (ccWait s (.conds (f.all = 1) ws f.pd.toNat (some (s.cycle + 25 * f.timeout.toNat)))) (s.cycle + 25 * f.timeout.toNat)
              (.waitTimeout (.cc s.focus.die))) s.focus.die (ccSet s) 1) s.focus.die)))

/-- The two waits of a context: for a task and for conditions on words. -/
def Obligations.CcWaitsForTasksAndWords : Prop := TwaitOutcomes ∧ CcWaits

/-! ## The control core: traps, events and the system (R96 to R104, R126) -/

/-- The move to monitor mode that every trap of a control core makes: EPC, ECAUSE and EINFO are written, PMODE and PCTX record what was
interrupted and the context that is loaded, the mode is the monitor's and its PC is TVEC, whichever mode was interrupted; its first word issues two cycles
later (the model's choice: entry 120), and while no outward action of the monitor is still to match, its shadow is the state at its start (the model's choice: entry
52); nothing else of the control core and of the device changes. TRAP makes it with cause 0, EINFO = NUM and EPC = its address + 8. -/
def Obligations.CcTrapEntry : Prop :=
  (∀ (s : State) (d epc : Nat) (k : Cause) (info : Word),
    let c := ctlOf s d
    let t := ccTrap s d epc k info
    let e := ctlOf t d
    let started : RegSet := { c.mon.regs with pc := c.tvec.toNat }
    e = { c with
      epc := BitVec.ofNat 64 epc, ecause := BitVec.ofNat 64 k.code, einfo := info, pmode := c.monitor, pctx := c.ctx, monitor := true, acted := false,
      mon := { c.mon with regs := started, state := .runnable, wait := .none, ready := s.cycle + 2 }
      shadows := e.shadows } ∧
    ((∀ o ∈ c.outward, o.set ≠ 8) → e.shadows = tput c.shadows 8
      { regs := started, landings := c.landings.filter (fun l => l.writes.any (RegWrite.ofSet 8)), misses := 0, awaits := false }) ∧
    ((∃ o ∈ c.outward, o.set = 8) → e.shadows = c.shadows) ∧
    dieOf t d = { dieOf s d with ctl := e } ∧ { t with dies := s.dies } = s ∧ (∀ d', d' ≠ d → dieOf t d' = dieOf s d')) ∧
  (∀ (h : Hdr) (f : FS) (s : State),
    exec (.trap h f) s = .next (if ccHolds h s
      then ccTrap s s.focus.die (s.focus.pc + 8) .none (BitVec.ofNat 64 f.num.toNat) else s))

/-- ERET: PROT in graph mode; in monitor mode, with no event held, it resumes the mode of PMODE at EPC, or the context of PCTX at EPC with
its saved registers, and in place of one that is DONE the next RUNNABLE one. EINFO 0 of that PROT, that an EPC is taken as it stands, and that the count of R96 starts anew, are the model's choices: entries 150, 148 and 171. -/
def Sys2Proof.Statements.EretResumes : Prop :=
  ∀ (h : Hdr) (f : FS) (s : State), ccHolds h s = true →
    let d := s.focus.die
    let c := ctlOf s d
    (c.monitor = false → exec (.eret h f) s = .next (ccTrapHere s .prot 0)) ∧
    (c.monitor = true → c.events = [] →
      ∃ t, exec (.eret h f) s = .next t ∧ t.mem = s.mem ∧
        (c.pmode = true → (ctlOf t d).monitor = true ∧ (ctlOf t d).mon.regs = { c.mon.regs with pc := c.epc.toNat }) ∧
        (c.pmode = false → c.pctx < 8 → (c.ctxOf c.pctx).state ≠ .done →
          (ctlOf t d).monitor = false ∧ (ctlOf t d).ctx = c.pctx ∧
          ((ctlOf t d).ctxOf c.pctx).regs = { (c.ctxOf c.pctx).regs with pc := c.epc.toNat } ∧ ((ctlOf t d).ctxOf c.pctx).issued = 0) ∧
        (∀ n, c.pmode = false → (c.ctxOf c.pctx).state = .done → ({ c with ctx := c.pctx } : Ctl).nextCtx = some n →
          (ctlOf t d).monitor = false ∧ (ctlOf t d).ctx = n ∧ ((ctlOf t d).ctxOf n).regs = (c.ctxOf n).regs) ∧
        (ctlOf t d).epc = c.epc ∧ (ctlOf t d).ecause = c.ecause ∧ (ctlOf t d).einfo = c.einfo)

/-- A monitor event: in graph mode it is taken at once, with EPC at the next word of the context, ECAUSE with EVENT and the code, EINFO 0;
in a monitor that runs it is held behind those before it. -/
def Sys2Proof.Statements.MonitorEvents : Prop :=
  ∀ (d code : Nat) (s : State),
    ∃ t, exec (.monitorEvent d code) s = .next t ∧ t.mem = s.mem ∧
      ((ctlOf s d).monitor = false → (ctlOf s d).events = [] →
        (ctlOf t d).monitor = true ∧ (ctlOf t d).pmode = false ∧ (ctlOf t d).pctx = (ctlOf s d).ctx ∧
        (ctlOf t d).epc = BitVec.ofNat 64 ((ctlOf s d).ctxOf (ctlOf s d).ctx).regs.pc ∧
        (ctlOf t d).ecause = BitVec.ofNat 64 (code * 2 ^ 32) ||| 0x100 ∧ (ctlOf t d).einfo = 0 ∧
        (ctlOf t d).mon.regs.pc = (ctlOf s d).tvec.toNat ∧ (ctlOf t d).events = []) ∧
      ((ctlOf s d).monitor = true → (ctlOf s d).mon.wait ≠ .idle →
        ctlOf t d = { ctlOf s d with events := (ctlOf s d).events ++ [code] })

/-- A monitor event enters the monitor and ERET leaves it. -/
def Obligations.MonitorEntryAndReturn : Prop := EretResumes ∧ MonitorEvents

/-- SYSR: the value of a system register lands one cycle later, in the modes that may read it; graph mode may not read those of the monitor (EINFO 0: the model's
choice, entry 150). A hotness counter is what the shard on its logical core has counted, in its earlier runs too, up to 2^56 − 1. A read of CHKCNT clears it
(at its issue: the model's choice, entry 39). VLIM in monitor mode is that of the address space in MSTAT.MAS (the model's choice: entry 124). -/
def Sys2Proof.Statements.SysrReads : Prop :=
  (∀ e ∈ sysValues, ∀ (h : Hdr) (f : FS) (s : State), ccHolds h s = true → f.num.toNat = e.1 →
    exec (.sysr h f) s = .next (ccLand s 1 [.cc (ccSet s) f.d.toNat (e.2 s s.focus.die (ctlOf s s.focus.die))])) ∧
  (∀ (h : Hdr) (f : FS) (s : State), ccHolds h s = true →
    let n := f.num.toNat
    let x := dieOf s s.focus.die
    let reads (v : Word) : Prop := (x.ctl.monitor = true → exec (.sysr h f) s = .next (ccLand s 1 [.cc (ccSet s) f.d.toNat v])) ∧
      (x.ctl.monitor = false → exec (.sysr h f) s = .next (ccTrapHere s .prot 0))
    (∀ e ∈ sysHeld, n = e.1 → reads (e.2 x)) ∧
    (∀ i, i < 64 → ∀ r, r = tget x.errors i { w0 := 0, w1 := 0, w2 := 0, w3 := 0 } →
      (n = 0x240100 + 4 * i → reads r.w0) ∧ (n = 0x240101 + 4 * i → reads r.w1) ∧ (n = 0x240102 + 4 * i → reads r.w2) ∧
      (n = 0x240103 + 4 * i → reads r.w3)) ∧
    (∀ e ∈ sysScores, ∀ i, i < e.2.1 → n = e.1 + i → reads (BitVec.ofNat 64 (e.2.2 s x i)))) ∧
  (∀ (h : Hdr) (f : FS) (s : State), ccHolds h s = true →
    let n := f.num.toNat
    let k := coreOf s s.focus.die (n / 512 % 32)
    let count (bytes stall : Table Nat) : Nat := tget (if n % 2 = 1 then stall else bytes) (n / 2 % 256) 0
    let own := count k.hotBytes k.hotStall
    let lands (v : Nat) : Prop := exec (.sysr h f) s = .next (ccLand s 1 [.cc (ccSet s) f.d.toNat (BitVec.ofNat 64 v)])
    0x100000 ≤ n → n < 0x104000 →
      (k.task = none → lands own) ∧
      (∀ t e y, k.task = some t → entryOf s t.wdie t.serial = some e → e.shards[t.shard]? = some y →
        lands (min (2 ^ 56 - 1) (own + count y.hotBytes y.hotStall)))) ∧
  (∀ (h : Hdr) (f : FS) (s : State), ccHolds h s = true →
    let c := ctlOf s s.focus.die
    (c.monitor = false → exec (.sysrChkcnt h f) s = .next (ccTrapHere s .prot 0)) ∧
    (c.monitor = true → exec (.sysrChkcnt h f) s = .next (onCtl
      (ccLand s 1 [.cc (ccSet s) f.d.toNat (BitVec.ofNat 64 c.chkcnt)]) s.focus.die (fun c => { c with chkcnt := 0 }))))

/-- SYSW in monitor mode leaves as an outward action, as VLIM from 1 to 4,095 does in both modes, INJ and INJMEM, which are in force a cycle
later, and CTXST, which sets the contexts' states when the checker matches it; graph mode may not write those of the monitor. That each takes effect at the match, EINFO 0 of the PROT, and which VLIM the monitor writes, are the model's choices: entries 39, 150 and 124. -/
def Sys2Proof.Statements.SyswWrites : Prop :=
  (∀ e ∈ sysWrites, ∀ (h : Hdr) (f : FS) (s : State), ccHolds h s = true → f.num.toNat = e.1 →
    let v := ccGet s f.a
    ((ctlOf s s.focus.die).monitor = true → exec (.sysw h f) s = .next (outward s 8 (.sysw e.1 v))) ∧
    ((ctlOf s s.focus.die).monitor = false → 1 ≤ e.1 → exec (.sysw h f) s = .next (ccTrapHere s .prot 0))) ∧
  (∀ (h : Hdr) (f : FS) (s : State), ccHolds h s = true →
    let v := ccGet s f.a
    let m := (ctlOf s s.focus.die).monitor
    (1 ≤ v.toNat → v.toNat ≤ 4095 → exec (.syswVlim h f) s = .next (outward s 8 (.sysw 0x15 v))) ∧
    (v.toNat = 0 ∨ 4095 < v.toNat → exec (.syswVlim h f) s = .next (ccTrapHere s .reservedField 0)) ∧
    (m = true → v.toNat / 2 ^ 29 % 4 < 2 → v.toNat / 2 ^ 15 % 16 < 12 → exec (.syswInj h f) s = .next (outward s 9 (.sysw 0x220000 v))) ∧
    (m = true → v.toNat / 2 ^ 29 % 4 < 3 → v.toNat / 2 ^ 24 % 16 < 6 → exec (.syswInjmem h f) s = .next (outward s 9 (.sysw 0x220001 v))) ∧
    (m = false → exec (.syswInj h f) s = .next (ccTrapHere s .prot 0) ∧ exec (.syswInjmem h f) s = .next (ccTrapHere s .prot 0) ∧
      exec (.syswCtxst h f) s = .next (ccTrapHere s .reservedField 0)) ∧
    (m = true → exec (.syswCtxst h f) s = .next (outward s 8 (.sysw 0x20 v))))

/-- SYSR reads the system registers and SYSW writes them. -/
def Obligations.SystemRegisters : Prop := SysrReads ∧ SyswWrites

/-- HALT, NOP, CTXSW, CKPT and the end of a context's quantum. A context that halts is DONE, and a launch whose contexts are all DONE and whose windows are all empty is then
complete: the host is told and each die gets monitor event 3. CTXSW in monitor mode traps PROT (EINFO 0: the model's choice, entry 150). -/
def Obligations.CcSystemWords : Prop :=
  ∀ (h : Hdr) (f : FS) (s : State), ccHolds h s = true →
    let d := s.focus.die
    let c := ctlOf s d
    exec (.nop h f) s = .next s ∧
    (c.monitor = true → c.events = [] → exec (.ccHalt h f) s = .next
      (onCtl s d (fun c => { c with mon := { c.mon with state := .waiting, wait := .idle } }))) ∧
    (c.monitor = false →
      let t := ccOn s (fun x => { x with state := .done })
      ((∀ l ∈ s.launches, l.done = true ∨ ¬ launchOver t l) → exec (.ccHalt h f) s = .next t) ∧
      (∀ l, s.launches = [l] → l.done = false → launchOver t l →
        exec (.ccHalt h f) s = .next ((List.range 8).foldl (fun v d => later v (.ev (.monitorEvent d 3)))
          (hostEvent { t with launches := [{ l with done := true }] } (.complete l.number))))) ∧
    (c.monitor = true → exec (.ctxsw h f) s = .next (ccTrapHere s .prot 0)) ∧
    (c.monitor = false → ∀ n, c.nextCtx = some n →
      let switched := onCtl s d (fun c =>
        ({ c with ctx := n }).onCtx n (fun x => { x with ready := max x.ready (c.lastIssue + 12), issued := 0 }))
      exec (.ctxsw h f) s = .next switched ∧
      (65536 ≤ (c.ctxOf c.ctx).issued → exec (.contextQuantumSwitch d) s = .next switched)) ∧
    exec (.ckpt h f) s = .next (ccWait (outward s 8 (.ckpt (ccGet s f.a) f.d.toNat)) .ckpt)

/-- CHECKER_MATCH of the oldest action due: it leaves the list, the state after its word becomes its set's shadow, and it takes effect: a store or an
atomic whose bytes are then mapped is handed over through the translation as it then stands, a post is on its way to the window, a cancel and a VALLOC answer their set, a VRET, a window setting and a write of a system
register are made; a checkpoint holds a context's action; with nothing due the control core stays as it is. That a store takes its translation at the match, when a SYSW takes effect, that a VRET traps at the match, and that a context stands still while a checkpoint holds its action, are the model's choices: entries 160, 39, 33 and 167. -/
def Sys2Proof.Statements.CheckerPerforms : Prop :=
  ∀ (d : Nat) (s : State),
    let c := ctlOf s d
    let goes (t : State) : Prop := exec (.checkerMatch d true) s = .next
      (if (readyOutward t.cycle [] (ctlOf t d).outward).isSome then later t (.ev (.checkerMatch d true)) else t)
    (∀ p ∈ c.outward, p.whole = false → s.cycle < p.due) → (∀ p ∈ c.handed, s.cycle < p.1) →
    (readyOutward s.cycle [] c.outward = none → ∃ t, exec (.checkerMatch d true) s = .next t ∧ ctlOf t d = c ∧ t.mem = s.mem) ∧
    (∀ o, readyOutward s.cycle [] c.outward = some o →
      let u := onCtl s d (fun c => { c with
        outward := c.outward.erase o, shadows := tput c.shadows o.set { o.snap with awaits := o.act.awaited },
        acted := c.acted || decide (o.set = 8) })
      let agent : AgentId := .ctx d o.set
      let answer (t : State) (n : Nat) (ws : List RegWrite) : Prop := goes (ccDeliver t d o.set (s.cycle + n) ws)
      (s.ckpt.isSome = true → o.set ≠ 8 → (∀ i r, o.act ≠ .ckpt i r) →
        ∃ t, exec (.checkerMatch d true) s = .next t ∧ t.mem = s.mem ∧
          (ctlOf t d).outward = c.outward.map (fun y => if y.set = o.set then y.putOff s.cycle else y) ∧
          ((ctlOf t d).ctxOf o.set).ready = max (c.ctxOf o.set).ready s.cycle + 1) ∧
      (s.ckpt = none →
        (∀ asid va parts kind release plan ps t, o.act = .store asid va parts kind release plan →
          splitAccess d none asid 0 { write := true, raw := true, ordered := release, hostTrap := true } va (parts.flatMap (fun p => p.2)).length u = (ps, none, t) →
          ∃ v, HandsOver t v agent kind release (.bytes (dealBytes ps (parts.flatMap (fun p => p.2))))
            (ps.foldl (fun m p => max m (t.cycle + pathLat t d p.pa)) t.cycle) ∧ goes v) ∧
        (∀ op asid va size b k dst p ps t, o.act = .amo op asid va size b k dst →
          splitAccess d none asid 0 { write := true, raw := true, ordered := false, hostTrap := true } va size u = (p :: ps, none, t) →
          ∃ v, HandsOver t v agent p.leaf.kind false (.amo op p.pa size b k (.ctl d) (.cc o.set dst) 0) (t.cycle + pathLat t d p.pa) ∧ goes v) ∧
        (∀ q va slot n, o.act = .post q va slot n →
          goes (at' (onCtl u d (fun c => { c with handed := c.handed ++ [(s.cycle + 4, q)] })) (s.cycle + 4) (.checkerMatch d true))) ∧
        (∀ q va dev die, o.act = .rpost q va dev die → s.devid ≠ some dev → routeUp u dev = false →
          goes (ccDeliver u d q.set s.cycle [.cc q.set q.dst (remoteAnswer (0x52, 0))])) ∧
        (∀ serial die dst, o.act = .cancel serial 4096 die dst →
          let r := cancelTask u die serial
          goes (ccDeliver r.2 d o.set (s.cycle + 16) [.cc o.set dst (BitVec.ofNat 64 r.1)])) ∧
        (∀ dst nb v, o.act = .valloc dst nb → (spaceOf s (setAsid u d o.set)).next = some v →
          answer (onSpace u (setAsid u d o.set) (fun a => { a with vints := tput a.vints v .live })) 40
            ([.cc o.set dst (BitVec.ofNat 64 v)] ++ (match nb with | some p => [.ccPred o.set p true] | none => []))) ∧
        (∀ dst p, o.act = .valloc dst (some p) → (spaceOf s (setAsid u d o.set)).next = none →
          answer u 40 [.cc o.set dst 0, .ccPred o.set p false]) ∧
        (∀ asid v, o.act = .vret asid v → (spaceOf s asid).stateOf v = .live →
          goes (settleCounts (onSpace u asid (fun a => { a with vints := tput a.vints v .retiring })))) ∧
        (∀ v ctx, o.act = .wincfg 0 v ctx → goes (onDie u d (fun x => { x with holdDispatch := v.getLsbD 0 }))) ∧
        (∀ v ctx, o.act = .wincfg 1 v ctx → goes (onDie u d (fun x => { x with acceptPosts := v.getLsbD 0 }))) ∧
        (∀ v ctx, o.act = .wincfg 2 v ctx → goes (onCtl u d (fun c => c.onCtx ctx (fun x => { x with ceiling := v.toNat % 8 })))) ∧
        (∀ v, ∀ e ∈ sysWrites, o.act = .sysw e.1 v → goes (onCtl u d (fun c => e.2 c v))) ∧
        (∀ v, o.act = .sysw 0x20 v → goes (settleLaunches (onCtl u d (fun c => c.setStates v)))) ∧
        (∀ v, o.act = .sysw 0x210000 v → goes (onDie u d (fun x => { x with thresh := v.toNat }))) ∧
        (∀ ident dst, o.act = .ckpt ident dst →
          goes { u with ckpt := some { step := 1, ident := ident, joiners := [(d, o.set, dst)], since := s.cycle - 8, slot := 0 } })))

/-- CHECKER_MATCH of a post on its way: its records are read and checked once; it is then matched 8 cycles after its context's earlier writes are
visible, and handed to the window four cycles later; a trap of its records is taken at its word. The cycles of the read and of the match, that the trap is at the post's own word, and where FORMAT of a handle's page stands among the checks, are the model's choices: entries 116, 33 and 165. -/
def Sys2Proof.Statements.CheckerReadsPosts : Prop :=
  ∀ (d : Nat) (s : State),
    let c := ctlOf s d
    (∀ o q va slot n, c.outward = [o] → c.handed = [] → o.whole = false → o.due ≤ s.cycle → o.act = .post q va slot n → q.recs = [] →
      (∀ rs t, readRecords d o q va slot (decide (1 < n)) true (List.range n) s = .recs rs t → (ctlOf t d).outward = [o] → (ctlOf t d).handed = [] →
        let seen := releasedBy t (.ctx d o.set) 2
        let recs := rs.map (fun r => lowerPri r ((ctlOf t d).ctxOf o.set).ceiling)
        let slots := (List.range n).map (fun i => if slot = 0 then 0 else slot + 64 * i)
        ∃ v p, exec (.checkerMatch d true) s = .next v ∧ (ctlOf v d).outward = [p] ∧ p.set = o.set ∧ p.snap = o.snap ∧
          p.act = .post { q with recs := recs, slots := slots } va slot n ∧ v.mem = t.mem ∧
          (t.cycle < seen → p.whole = false ∧ p.due = seen) ∧ (seen ≤ t.cycle → p.whole = true ∧ p.due = t.cycle + 8)) ∧
      (∀ k info t, readRecords d o q va slot (decide (1 < n)) true (List.range n) s = .trap k info t → (ctlOf t d).outward = [o] →
        (ctlOf t d).handed = [] → (ctlOf t d).set = o.set →
        ∃ v, exec (.checkerMatch d true) s = .next v ∧ (ctlOf v d).outward = [] ∧ (ctlOf v d).monitor = true ∧
          (ctlOf v d).ecause = BitVec.ofNat 64 k.code ∧ (ctlOf v d).einfo = info ∧
          (ctlOf v d).epc = BitVec.ofNat 64 (((ctlOf t d).ctxOf o.set).regs.pc - 8))) ∧
    (∀ due q, c.outward = [] → c.handed = [(due, q)] → due ≤ s.cycle →
      let t := handPost (onCtl s d (fun c => { c with handed := [] })) d q
      (ctlOf t d).outward = [] → exec (.checkerMatch d true) s = .next t)

/-- CHECKER_MATCH of an action that does not match: it counts in CHKCNT, the actions of its set are dropped, and the set has its shadow's registers; a
second mismatch from one shadow fences the control pair. -/
def Sys2Proof.Statements.CheckerMismatches : Prop :=
  ∀ (d : Nat) (s : State),
    ((∀ p ∈ (ctlOf s d).outward, p.whole = false) → exec (.checkerMatch d false) s = .next s) ∧
    (∀ o sh, (ctlOf s d).outward.find? (fun o => o.whole) = some o → tfind (ctlOf s d).shadows o.set = some sh →
      ∃ t, exec (.checkerMatch d false) s = .next t ∧ (ctlOf t d).chkcnt = (ctlOf s d).chkcnt + 1 ∧ t.mem = s.mem ∧
        (∀ p ∈ (ctlOf t d).outward, p.set ≠ o.set) ∧ (sh.awaits = false → ((ctlOf t d).ctxOf o.set).regs = sh.regs) ∧
        t.fencedPairs = if sh.misses = 0 then s.fencedPairs else s.fencedPairs ++ [pairOf s d])

/-- What the checker does with an outward action: one that matches, a post on its way, one that does not match. -/
def Obligations.CheckerMatches : Prop := CheckerPerforms ∧ CheckerReadsPosts ∧ CheckerMismatches

end Statements

namespace Sys2Proof.Statements

open Sys2Proof.Machine

noncomputable section

/-! ## The access processor's words (R132 to R149) -/

/-- R132, two registers: the words, their latency and their result. -/
def apInt3 : List ((Hdr → F3 → Instr) × Nat × (Word → Word → Word)) :=
  [(.apAdd, 1, addW), (.apSub, 1, subW), (.apAnd, 1, fun a b => a &&& b), (.apOr, 1, fun a b => a ||| b),
   (.apXor, 1, fun a b => a ^^^ b), (.apShl, 1, fun a b => shlW a (b.toNat % 64)), (.apShr, 1, fun a b => shrW a (b.toNat % 64)),
   (.apMul, 3, mulW), (.apMin, 1, minW), (.apMax, 1, maxW)]

/-- R132, a register and an immediate. -/
def apIntI : List ((Hdr → FI → Instr) × Nat × (Word → BitVec 25 → Word)) :=
  [(.apAddi, 1, fun a i => addW a (simm i)), (.apAndi, 1, fun a i => a &&& uimm i), (.apOri, 1, fun a i => a ||| uimm i),
   (.apShli, 1, fun a i => shlW a (i.toNat % 64)), (.apShri, 1, fun a i => shrW a (i.toNat % 64)),
   (.apMuli, 3, fun a i => mulW a (simm i)), (.apLui, 1, fun _ i => shlW (simm i) 25)]

/-- The compares of R133 of two registers. -/
def apCmp : List ((Hdr → F3 → Instr) × (Word → Word → Bool)) :=
  [Instr.apCmpEq, .apCmpNe, .apCmpLt, .apCmpLe, .apCmpLtu, .apCmpLeu].zip relations

/-- The compares of R133 with an immediate. -/
def apCmpi : List ((Hdr → FI → Instr) × (Word → Word → Bool)) :=
  [Instr.apCmpiEq, .apCmpiNe, .apCmpiLt, .apCmpiLe, .apCmpiLtu, .apCmpiLeu].zip relations

/-- The predicate words of R133. -/
def apPreds : List ((Hdr → F3 → Instr) × (Bool → Bool → Bool)) :=
  [(.apPand, fun a b => a && b), (.apPor, fun a b => a || b), (.apPnot, fun a _ => !a)]

/-- Predicate n of the AP in focus. -/
def apPred (s : State) (n : BitVec 10) : Bool := predGet s.core.apPreds n.toNat

/-- The address PC + 8·SExt(OFF25) of a word of a core. -/
def coreLabel (s : State) (off : BitVec 25) : Nat := (BitVec.ofInt 64 ((s.focus.pc : Int) + 8 * off.toInt)).toNat

/-- The first bytes and the size of the text of the task in focus, if there is a task. -/
def textOf (s : State) : Option (Nat × Nat) := s.core.task.map (fun t => (t.image + t.textOff, t.textSize))

/-- Whether a target may be branched to: a multiple of 8, and inside the text. -/
def mayBranch (s : State) (target : Nat) : Bool :=
  target % 8 = 0 && (match textOf s with | none => true | some r => r.1 ≤ target && target < r.1 + r.2)

/-- The cause of a branch that may not be taken: ALIGN before PROT. -/
def branchCause (target : Nat) : Cause := if target % 8 ≠ 0 then .align else .prot

/-- Where the AP goes (R134). -/
def apGoes (s : State) (target : Nat) : State :=
  if mayBranch s target then
    onCore s s.focus.die s.focus.core (fun c => { c with ap := { c.ap with pc := target, ready := s.cycle + 2, jumped := true } })
  else apTrap s (trapAt (branchCause target) target)

/-- The address of an access of format FM: base, index and the scaled offset; with V the base and the offset alone (R35). -/
def apAddress (s : State) (f : FM) : Nat :=
  (BitVec.ofInt 64 ((apGet s f.a).toNat + (if f.v = 1 then 0 else (apGet s f.b).toNat) + f.off.toInt * ((2 ^ f.sz.toNat : Nat) : Int))).toNat

/-- The vintage of an access: the low 12 bits of a[B] with V, else the task's. -/
def apVintage (s : State) (f : FM) : Nat := if f.v = 1 then (apGet s f.b).toNat % 4096 else s.core.vt

/-- The parts of a scalar access of the AP, or where it stops. -/
def apPieces (s : State) (write ordered : Bool) (vint va len : Nat) : List Part × Option Stop × State :=
  splitAccess s.focus.die (some s.focus.core) s.core.asid vint { write := write, raw := true, ordered := ordered, hostTrap := false }
    va len s

/-- R135, R143: the loads, whether each extends the sign, and whether it is an acquire. -/
def apLoads : List ((Hdr → FM → Instr) × Bool × Bool) := [(.apLds, true, false), (.apLdsV, true, false), (.apLda, false, true)]

/-- R136: the queue loads. -/
def apQueueLoads : List (Hdr → FM → Instr) := [.ldq, .ldqV]

/-- R139, R143: the stores of a register, and whether each is a release. -/
def apStores : List ((Hdr → FM → Instr) × Bool) := [(.sts, false), (.apStl, true)]

/-- R142: the atomics. -/
def apAmos : List ((Hdr → FM → Instr) × AmoOp) :=
  [(.apAmoAdd, .add), (.apAmoAnd, .and), (.apAmoOr, .or), (.apAmoXor, .xor), (.apAmoMin, .min), (.apAmoMax, .max), (.apAmoMinu, .minu),
   (.apAmoMaxu, .maxu), (.apAmoSwap, .swap), (.apAmoCas, .cas), (.fadd, .fadd)]

/-- R143: the fences, their scopes and their unloaded waits. -/
def apFences : List ((Hdr → FS → Instr) × Nat × Nat) :=
  [(.apFenceCore, 0, 1), (.apFenceDie, 1, 24), (.apFenceDev, 2, 420), (.apFenceDom, 3, 4800)]

/-- An entry reserved at the tail of an aq, not landed, with the pieces of memory that it will hold; it lands when it is due. -/
def reservesEntry (t : State) (order : List OrderMark) (q due : Nat) (pieces : List Piece) (form : EntryForm) (absent : Word) : State :=
  at' (onCore { t with seq := t.seq + 1, order := order } t.focus.die t.focus.core (fun c =>
    { c with aq := tput c.aq q (tget c.aq q [] ++
      [{ id := t.seq, data := 0, landed := false, due := due, pieces := pieces, form := form, absent := absent, seq := t.seq,
         pc := t.focus.pc, gone := none }]) })) due (.aqEntryLand t.focus.die t.focus.core q t.seq)

/-- The address of element i of a gather or a scatter: the base, the offset and the i-th signed index, in elements. -/
def elementAddress (base : Word) (size : Nat) (off : BitVec 12) (ix : Vec) (i : Nat) : Nat :=
  (BitVec.ofInt 64 (base.toNat + ((BitVec.ofNat 32 (ix.toNat / 2 ^ (32 * i))).toInt + off.toInt) * (size : Int))).toNat

end

end Sys2Proof.Statements

section Statements

open Sys2Proof Sys2Proof.Machine Sys2Proof.Statements

/-! ## The access processor: integer and predicate words, branches (R132 to R134) -/

/-- INT3 and INTI of the AP: the result of the table lands in D after the table's latency; MADD and SEL. -/
def Sys2Proof.Statements.ApIntResults : Prop :=
  (∀ e ∈ apInt3, ∀ (h : Hdr) (f : F3) (s : State),
    exec (e.1 h f) s = .next (if apHolds h s then coreLand s e.2.1 [.ap f.d.toNat (e.2.2 (apGet s f.a) (apGet s f.b))] else s)) ∧
  (∀ e ∈ apIntI, ∀ (h : Hdr) (f : FI) (s : State),
    exec (e.1 h f) s = .next (if apHolds h s then coreLand s e.2.1 [.ap f.d.toNat (e.2.2 (apGet s f.a) f.imm)] else s)) ∧
  (∀ (h : Hdr) (f : F3) (s : State),
    exec (.apMadd h f) s = .next (if apHolds h s
      then coreLand s 3 [.ap f.d.toNat (addW (mulW (apGet s f.a) (apGet s f.b)) (apGet s f.c))] else s) ∧
    exec (.apSel h f) s = .next (if apHolds h s
      then coreLand s 1 [.ap f.d.toNat (if apPred s f.c then apGet s f.a else apGet s f.b)] else s))

/-- CMP and the predicate words of the AP: p[D] gets the relation or the operation one cycle later. -/
def Sys2Proof.Statements.ApPredicateResults : Prop :=
  (∀ e ∈ apCmp, ∀ (h : Hdr) (f : F3) (s : State),
    exec (e.1 h f) s = .next (if apHolds h s then coreLand s 1 [.apPred f.d.toNat (e.2 (apGet s f.a) (apGet s f.b))] else s)) ∧
  (∀ e ∈ apCmpi, ∀ (h : Hdr) (f : FI) (s : State),
    exec (e.1 h f) s = .next (if apHolds h s then coreLand s 1 [.apPred f.d.toNat (e.2 (apGet s f.a) (simm f.imm))] else s)) ∧
  (∀ e ∈ apPreds, ∀ (h : Hdr) (f : F3) (s : State),
    exec (e.1 h f) s = .next (if apHolds h s then coreLand s 1 [.apPred f.d.toNat (e.2 (apPred s f.a) (apPred s f.b))] else s))

/-- The integer and the predicate words of the access processor. -/
def Obligations.ApScalarResults : Prop := ApIntResults ∧ ApPredicateResults

/-- BRANCH of the AP: a branch taken when its predicate holds, a jump, and BRQ, which pushes the predicate into bq and branches on it, or
stalls on a full bq. -/
def Obligations.ApBranches : Prop :=
  ∀ (h : Hdr) (f : FB) (s : State),
    exec (.apBr h f) s = .next (if apHolds h s then apGoes s (coreLabel s f.off) else s) ∧
    exec (.apJmp h f) s = .next (apGoes s (coreLabel s f.off)) ∧
    (s.core.bqUsed s.cycle < 256 →
      let t := onCore s s.focus.die s.focus.core (fun c =>
        { c with bq := c.bq ++ [{ bit := apHolds h s, at_ := s.cycle + 1, gone := none }], bqKept := c.bqKept ++ [apHolds h s] })
      exec (.brq h f) s = .next (if apHolds h s then apGoes t (coreLabel s f.off) else t)) ∧
    (256 ≤ s.core.bqUsed s.cycle → exec (.brq h f) s = .next (apStall s (.stalled .bqFull)))

/-! ## The access processor: memory (R130 to R146) -/

/-- Scalar loads of the AP: a misaligned address traps ALIGN; at an aligned one whose parts can be read, in no vintage that is FREE, the
bytes are set to land in D when the access is performed, after the path's latency; an acquire holds the next group until then. -/
def Obligations.ApLoadsComplete : Prop :=
  ∀ e ∈ apLoads, ∀ (h : Hdr) (f : FM) (s t : State) (ps : List Part), apHolds h s = true →
    let size : Nat := 2 ^ f.sz.toNat
    let va := apAddress s f
    (va % size ≠ 0 → exec (e.1 h f) s = .next (apTrap s (trapAt .align va))) ∧
    (va % size = 0 → apPieces s false e.2.2 (apVintage s f) va size = (ps, none, t) →
      (f.v = 1 → namesFree s s.core.asid (apVintage s f) (ps.map (fun p => p.leaf)) = false) →
      ∃ due order, t.cycle + partsLat t t.focus.die ps ≤ due ∧
        let u := land { t with seq := t.seq + 1, order := order } (.core t.focus.die t.focus.core) due
          [.load (.ap f.d.toNat) e.2.1 (runsOf ps) (apAgent t) t.seq t.focus.pc]
        exec (e.1 h f) s = .next (if e.2.2
          then onCore u t.focus.die t.focus.core (fun c => { c with ap := { c.ap with ready := max c.ap.ready due } }) else u))

/-- Queue loads: a full aq stalls the AP; on pages of codes 0 to 9 an entry of 256 bytes is reserved, on block-scaled pages one of 256/size
elements with their scales, at an address that is a multiple of 32; into aq0 no mask of absent bytes is kept. Before the data is performed the entry
holds nothing and memory does not change. -/
def Sys2Proof.Statements.ApQueueLoads : Prop :=
  ∀ e ∈ apQueueLoads, ∀ (h : Hdr) (f : FM) (s t u : State) (l : Leaf) (r : QueueRead), apHolds h s = true →
    let size : Nat := 2 ^ f.sz.toNat
    let va := apAddress s f
    let vint := apVintage s f
    let q := f.d.toNat
    let page := pageAt s vint { write := false, raw := false, ordered := false, hostTrap := false } va
    let stale := staleVint t (decide (f.v = 1)) t.core.asid vint
    (va % size ≠ 0 → exec (e h f) s = .next (apTrap s (trapAt .align va))) ∧
    (va % size = 0 → 64 ≤ s.core.aqUsed q s.cycle → exec (e h f) s = .next (apStall s (.stalled (.aqFull q)))) ∧
    (va % size = 0 → s.core.aqUsed q s.cycle < 64 → (∃ x, walk s s.core.asid va = .ok x ∧ 11 ≤ x.fmt) → va % 32 ≠ 0 →
      exec (e h f) s = .next (apTrap s (trapAt .align va))) ∧
    (va % size = 0 → s.core.aqUsed q s.cycle < 64 → (∀ x, walk s s.core.asid va = .ok x → x.fmt < 11 ∨ va % 32 = 0) → page = (.ok l, t) →
      l.fmt = 10 ∨ (10 < l.fmt ∧ (f.sz = 0 ∨ f.sz = 3)) → exec (e h f) s = .next (apTrap t (trapAt .format va))) ∧
    (va % size = 0 → s.core.aqUsed q s.cycle < 64 → (∀ x, walk s s.core.asid va = .ok x → x.fmt < 11 ∨ va % 32 = 0) → page = (.ok l, t) →
      (l.fmt < 10 → mixesCodes (spanLeaves t false 64 va (va + 256)) = false → queueRead t vint stale (q != 0) 128 0 va 256 t = (r, none, u) →
        ∃ due order, u.cycle + partsLat u u.focus.die r.parts ≤ due ∧
          exec (e h f) s = .next (reservesEntry u order q due r.pieces { fmt := 0, geom := 0, sz := f.sz.toNat, scale := 256 }
            (if q = 0 then 0 else granules 4 r.absent))) ∧
      (10 < l.fmt → f.sz = 1 ∨ f.sz = 2 → va % 32 = 0 → mixesCodes (spanLeaves t false 64 va (va + 256 / size)) = false →
        queueRead t vint stale (q != 0) 128 0 va (256 / size) t = (r, none, u) →
        ∃ due order, u.cycle + partsLat u u.focus.die r.parts ≤ due ∧
          exec (e h f) s = .next (reservesEntry u order q due (r.pieces ++ r.scales)
            { fmt := l.fmt, geom := 0, sz := f.sz.toNat, scale := 256 / size }
            (if q = 0 then 0 else granules (if f.sz = 1 then 2 else 1) r.absent))))

/-- Gathers: with room in the aq and an entry of indices in the xq, at an aligned base, every element is translated; the indices are popped and
an entry is reserved whose bytes are the elements' in order. -/
def Sys2Proof.Statements.ApGathers : Prop :=
  ∀ (h : Hdr) (f : FM) (s t : State) (ix : XqEntry) (r : QueueRead), apHolds h s = true →
    let size : Nat := 2 ^ f.sz.toNat
    let q := f.d.toNat
    let x := f.b.toNat
    (64 ≤ s.core.aqUsed q s.cycle → exec (.gathq h f) s = .next (apStall s (.stalled (.aqFull q)))) ∧
    (s.core.aqUsed q s.cycle < 64 → s.core.xqHead x s.cycle = none → exec (.gathq h f) s = .next (apStall s (.stalled (.xqEmpty x)))) ∧
    (s.core.aqUsed q s.cycle < 64 → s.core.xqHead x s.cycle = some ix →
      ((BitVec.ofInt 64 ((apGet s f.a).toNat + f.off.toInt * (size : Int))).toNat % size = 0) →
      gatherElements s s.core.vt size (q != 0) (elementAddress (apGet s f.a) size f.off ix.data) (List.range (if f.sz = 3 then 32 else 64)) s
        = (r, none, t) →
      (∀ l ∈ r.leaves, l.fmt < 10) →
      ∃ due order, t.cycle + partsLat t t.focus.die r.parts ≤ due ∧
        exec (.gathq h f) s = .next (reservesEntry (onCore t t.focus.die t.focus.core (fun c => c.xqPop x t.cycle)) order q due r.pieces
          { fmt := 0, geom := 0, sz := f.sz.toNat, scale := 0 } (if q = 0 then 0 else granules 1 r.absent)))

/-- The words that reserve an entry of an aq: LDQ and GATHQ. -/
def Obligations.ApQueueFills : Prop := ApQueueLoads ∧ ApGathers

/-- Stores of the AP: the low bytes of a[D], the 256 bytes of an xq entry, its masked bytes, or its masked elements at the indices of a second
entry, are handed over for the parts they fall on, but for those that the word has performed before it waited for a cell; the entries are popped. Masked bytes or elements that fall
on pages of codes 10 to 13 and on others trap FORMAT. No byte of memory changes before the write is performed. -/
def Obligations.ApStoresComplete : Prop :=
  ∀ (h : Hdr) (f : FM) (s t u : State) (p : Part) (ps qs : List Part) (e ix : XqEntry) (rs : List (Part × List Byte)), apHolds h s = true →
    let size : Nat := 2 ^ f.sz.toNat
    let va := apAddress s f
    let x := f.d.toNat
    let y := f.b.toNat
    let n := if f.sz = 3 then 32 else 64
    let base := (BitVec.ofInt 64 ((apGet s f.a).toNat + f.off.toInt * (size : Int))).toNat
    let popped (v : State) : State := onCore v v.focus.die v.focus.core (fun c => c.xqPop x v.cycle)
    let rested (v : State) : State := onCore v v.focus.die v.focus.core (fun c => { c with ap := { c.ap with past := 0 } })
    let placed (all : List Part) : Prop := cellParts t t.core.asid s.core.vt (all.drop t.core.ap.past) = .ok (p :: qs, u)
    let leavesAfter (before : List Part) (release : Bool) (deal : List Part → WriteAct) (v : State) : Prop :=
      let act := (deal (before ++ p :: qs)).slice (before ++ p :: qs) before.length (p :: qs).length
      HandsOverRuns (apAgent u) release (shares (p :: qs) act (kindRuns (p :: qs)) 0) 0 u v
    let leaves (all : List Part) := leavesAfter (all.take t.core.ap.past)
    let asks (v : State) : State := apAwaitCells v (apAgent u) u.core.asid u.core.vt (p :: qs)
    let placedWhole (all : List Part) : Prop := cellParts t t.core.asid s.core.vt all = .ok (p :: qs, u)
    let dealt (all : List Part) : WriteAct := .bytes (List.zipWith (fun (a : Part) (b : Part × List Byte) => (a.pa, b.2)) all rs)
    let masked := (maskRuns e.mask (vecBytes e.data)).map (fun r => ((va + r.1) % 2 ^ 64, r.2))
    let scattered := ((List.range n).filter (fun i => e.mask.getLsbD (i * size))).map (fun i =>
      (elementAddress (apGet s f.a) size f.off ix.data i, leBytes size (e.data.toNat / 2 ^ (8 * size * i) % 2 ^ (8 * size))))
    (va % size ≠ 0 → ∀ k ∈ apStores, exec (k.1 h f) s = .next (apTrap s (trapAt .align va))) ∧
    (∀ k ∈ apStores, va % size = 0 → apPieces s true k.2 s.core.vt va size = (ps, none, t) → placed ps →
      ∃ v, leaves ps k.2 (fun all => .bytes (dealBytes all (leBytes size (apGet s f.d).toNat))) v ∧ exec (k.1 h f) s = .next (rested (asks v))) ∧
    (s.core.xqHead x s.cycle = none → ∀ i ∈ [Instr.stq h f, .stqM h f, .scatq h f], exec i s = .next (apStall s (.stalled (.xqEmpty x)))) ∧
    (s.core.xqHead x s.cycle = some e → va % size ≠ 0 ∨ (va % 32 ≠ 0 ∧ ∃ l, walk s s.core.asid va = .ok l ∧ 11 ≤ l.fmt) →
      exec (.stq h f) s = .next (apTrap s (trapAt .align va))) ∧
    (s.core.xqHead x s.cycle = some e → va % size = 0 → (∀ l, walk s s.core.asid va = .ok l → l.fmt < 11 ∨ va % 32 = 0) →
      ∀ l s', pageAt s s.core.vt { write := false, raw := false, ordered := false, hostTrap := false } va = (.ok l, s') →
      (l.wr = false → exec (.stq h f) s = .next (apTrap s' (trapAt .prot va))) ∧
      (l.wr = true → l.fmt = 10 ∨ (10 < l.fmt ∧ (f.sz = 0 ∨ f.sz = 3)) → exec (.stq h f) s = .next (apTrap s' (trapAt .format va))) ∧
      (l.wr = true → l.fmt < 10 → mixesCodes (spanLeaves s' true 64 va (va + 256)) = false →
        apPieces s' true false s.core.vt va 256 = (ps, none, t) → placed ps →
        ∃ v, leaves ps false (fun all => .bytes (dealBytes all (vecBytes e.data))) v ∧ exec (.stq h f) s = .next (popped (rested (asks v)))) ∧
      (l.wr = true → 10 < l.fmt → f.sz = 1 ∨ f.sz = 2 → mixesCodes (spanLeaves s' true 64 va (va + 256 / size)) = false →
        splitAccess s'.focus.die (some s'.focus.core) s'.core.asid s.core.vt { write := true, raw := false, ordered := false, hostTrap := false }
          va (256 / size) s' = (ps, none, t) → placed ps →
        ∃ v, leaves ps false (fun all => .blocks l.fmt (blockPuts all va (entryValues l.fmt f.sz.toNat e.data))) v ∧
          exec (.stq h f) s = .next (popped (rested (asks v))))) ∧
    (s.core.xqHead x s.cycle = some e → e.mask = 0 → exec (.stqM h f) s = .next (popped (rested s))) ∧
    (s.core.xqHead x s.cycle = some e → s.core.xqHead y s.cycle = none → exec (.scatq h f) s = .next (apStall s (.stalled (.xqEmpty y)))) ∧
    (s.core.xqHead x s.cycle = some e → s.core.xqHead y s.cycle = some ix → (∀ i, i < n → e.mask.getLsbD (i * size) = false) →
      exec (.scatq h f) s = .next (onCore s s.focus.die s.focus.core (fun c => (c.xqPop x s.cycle).xqPop y s.cycle))) ∧
    (s.core.xqHead x s.cycle = some e → s.core.xqHead y s.cycle = some ix → (∃ i, i < n ∧ e.mask.getLsbD (i * size) = true) →
      base % size ≠ 0 → exec (.scatq h f) s = .next (apTrap s (trapAt .align base))) ∧
    (∀ stop, s.core.xqHead x s.cycle = some e → splitRuns s s.core.vt masked s = (rs, stop, t) →
      (mixedRuns s masked = true → exec (.stqM h f) s = .next (apTrap t (trapAt .format va))) ∧
      (mixedRuns s masked = false → stop = none → placed (rs.map (fun r => r.1)) →
        ∃ v, leaves (rs.map (fun r => r.1)) false dealt v ∧ exec (.stqM h f) s = .next (popped (rested (asks v))))) ∧
    (∀ stop, s.core.xqHead x s.cycle = some e → s.core.xqHead y s.cycle = some ix → base % size = 0 → splitRuns s s.core.vt scattered s = (rs, stop, t) →
      (mixedRuns s scattered = true → exec (.scatq h f) s = .next (apTrap t (trapAt .format base))) ∧
      (mixedRuns s scattered = false → stop = none → placedWhole (rs.map (fun r => r.1)) →
        ∃ v, leavesAfter [] false dealt v ∧
          exec (.scatq h f) s = .next (onCore (asks v) v.focus.die v.focus.core (fun c => (c.xqPop x v.cycle).xqPop y v.cycle))))

/-- Atomics of the AP: FADD under the strict rules traps NONDETERMINISTIC, before COMMIT every one traps NOT_COMMITTED, a misaligned address
traps ALIGN; else the operation on a[B] (and a[D] for CAS) is handed over, whose old value lands in D. -/
def Obligations.ApAtomicsComplete : Prop :=
  ∀ k ∈ apAmos, ∀ (h : Hdr) (f : FM) (s t u : State) (p : Part) (ps qs : List Part), apHolds h s = true →
    let size : Nat := 2 ^ f.sz.toNat
    let va := (apGet s f.a).toNat
    (k.2 = .fadd → s.core.strict = true → exec (k.1 h f) s = .next (apTrap s (trapAt .nondeterministic va))) ∧
    (k.2 ≠ .fadd ∨ s.core.strict = false →
      (s.core.committed = false → exec (k.1 h f) s = .next (apTrap s (trapAt .notCommitted va))) ∧
      (s.core.committed = true → va % size ≠ 0 → exec (k.1 h f) s = .next (apTrap s (trapAt .align va))) ∧
      (s.core.committed = true → va % size = 0 → apPieces s true false s.core.vt va size = (ps, none, t) →
        cellParts t s.core.asid s.core.vt ps = .ok (p :: qs, u) →
        ∃ v, HandsOver u v (apAgent u) p.leaf.kind false
          (.amo k.2 p.pa size (apGet s f.b) (apGet s f.d) (.core s.focus.die s.focus.core) (.ap f.d.toNat) s.focus.pc)
          (u.cycle + partsLat u u.focus.die [p]) ∧ exec (k.1 h f) s = .next (apAwaitCells v (apAgent u) u.core.asid u.core.vt [p])))

/-- Fences of the AP: its next group issues no earlier than the scope's unloaded wait and than the cycle in which each of its writes is visible at the
scope (writes to UN pages count for the domain alone); nothing else changes but the order marks, and no byte of memory. That a fence ends no earlier than its count is the model's choice: entry 35. -/
def Sys2Proof.Statements.ApFencesComplete : Prop :=
  ∀ k ∈ apFences, ∀ (h : Hdr) (f : FS) (s : State), apHolds h s = true →
    ∃ till order, s.cycle + k.2.2 ≤ till ∧
      (∀ w ∈ s.writes, w.agent = apAgent s → k.2.1 = 3 ∨ w.kind ≠ .un → visibleAt k.2.1 w ≤ till) ∧
      exec (k.1 h f) s = .next (onCore { s with order := order } s.focus.die s.focus.core
        (fun c => { c with ap := { c.ap with ready := max c.ap.ready till } }))

/-- The fences of the control core and of the access processor. -/
def Obligations.FencesComplete : Prop := CcFencesComplete ∧ ApFencesComplete

/-- Barrier words: an object that is not aligned to 32 bytes traps ALIGN; at an object that can be accessed, BARINIT, BAREXP and BARARR hand over their update
of the object, BARARR as a release, and BARQ sets its first word to land as an acquire. -/
def Obligations.ApBarriers : Prop :=
  ∀ (h : Hdr) (f : FM) (s t u : State) (p q : Part) (qs : List Part), apHolds h s = true →
    let va := (BitVec.ofInt 64 ((apGet s f.a).toNat + 8 * f.off.toInt)).toNat
    let earliest := u.cycle + partsLat u u.focus.die [q]
    let asks (v : State) : State := apAwaitCells v (apAgent u) u.core.asid u.core.vt [q]
    let cells := cellParts t s.core.asid s.core.vt [p] = .ok (q :: qs, u)
    (va % 32 ≠ 0 → ∀ i ∈ [Instr.barinit h f, .barexp h f, .bararr h f, .barq h f], exec i s = .next (apTrap s (trapAt .align va))) ∧
    (barPart s f true true = .ok (p, t) → cells →
      (∃ v, HandsOver u v (apAgent u) q.leaf.kind false (.barrier .init q.pa (apGet s f.b) s.focus.pc) earliest ∧ exec (.barinit h f) s = .next (asks v)) ∧
      (∃ v, HandsOver u v (apAgent u) q.leaf.kind true
        (.barrier .arr q.pa (if f.b = 0 then 1 else BitVec.ofNat 64 ((apGet s f.b).toNat % 2 ^ 16)) s.focus.pc) earliest ∧
        exec (.bararr h f) s = .next (asks v))) ∧
    (barPart s f true false = .ok (p, t) → cells →
      ∃ v, HandsOver u v (apAgent u) q.leaf.kind false (.barrier .exp q.pa (apGet s f.b) s.focus.pc) earliest ∧ exec (.barexp h f) s = .next (asks v)) ∧
    (barPart s f false true = .ok (p, t) →
      ∃ due order, t.cycle + partsLat t t.focus.die [{ p with len := 8 }] ≤ due ∧
        exec (.barq h f) s = .next (onCore (land { t with seq := t.seq + 1, order := order } (.core t.focus.die t.focus.core) due
          [.load (.ap f.d.toNat) false (runsOf [{ p with len := 8 }]) (apAgent t) t.seq t.focus.pc]) t.focus.die t.focus.core
          (fun c => { c with ap := { c.ap with ready := max c.ap.ready due } })))

/-! ## Waits of the two processors (R44, R148, R200, R378) -/

/-- WAIT of the AP and of the XP on tokens and write pointers: a selected condition of a reserved kind traps; a WAIT whose conditions hold ends at once, its
predicate set to land in the next cycle; else the processor waits, with its deadline of 25 cycles a tick. The XP takes the copy of w0 to w3 that the AP
handed over. -/
def Obligations.CoreWaits : Prop :=
  ∀ (h : Hdr) (f : FW) (s : State),
    let d := s.focus.die
    let c := s.focus.core
    let till : Option Nat := if f.timeout = 0 then none else some (s.cycle + 25 * f.timeout.toNat)
    let timed (p : Proc) (u : State) : State := if f.timeout = 0 then u else at' u (s.cycle + 25 * f.timeout.toNat) (.waitTimeout p)
    let plain (ws : List Word) : Prop := condTrap 5 ws = none ∧ ∀ w ∈ ws, w.toNat / 2 ^ 60 ≠ 3 ∧ w.toNat / 2 ^ 60 ≠ 4
    (apHolds h s = true → ∀ i ∈ [Instr.apWaitAny h f, .apWaitAll h f],
      let ws := selected f.wmask ((List.range 4).map (fun k => tget s.core.w k 0))
      (∀ k, condTrap 5 ws = some k → exec i s = .next (apTrap s (trapOf k))) ∧
      (plain ws → waitHolds s.core s.cycle (f.all = 1) ws [] = true →
        exec i s = .next (later (land (timed (.ap d c) (onCore s d c (fun x => { x with ap := { x.ap with wait := .none, word := s.focus.pc } })))
          (.core d c) (s.cycle + 1) [.apPred f.pd.toNat true]) (.issue (.ap d c)))) ∧
      (plain ws → waitHolds s.core s.cycle (f.all = 1) ws [] = false →
        exec i s = .next (timed (.ap d c) (onCore s d c (fun x =>
          { x with ap := { x.ap with wait := .conds (f.all = 1) ws f.pd.toNat till [] s.cycle, word := s.focus.pc } }))))) ∧
    (xpHolds h s = true → ∀ i ∈ [Instr.xpWaitAny h f, .xpWaitAll h f],
      let ws := selected f.wmask (s.core.wCopies.headD [])
      let t := onCore s d c (fun x => { x with wCopies := x.wCopies.tail })
      (∀ k, condTrap 5 ws = some k → exec i s = .next (xpTrap t (trapOf k))) ∧
      (plain ws → waitHolds s.core s.cycle (f.all = 1) ws [] = true →
        exec i s = .next (later (land (timed (.xp d c) (onCore t d c (fun x => { x with xp := { x.xp with wait := .none, word := s.focus.pc } })))
          (.core d c) (s.cycle + 1) [.xpPred f.pd.toNat true]) (.issue (.xp d c)))) ∧
      (plain ws → waitHolds s.core s.cycle (f.all = 1) ws [] = false →
        exec i s = .next (timed (.xp d c) (onCore t d c (fun x =>
          { x with xp := { x.xp with wait := .conds (f.all = 1) ws f.pd.toNat till [] s.cycle, word := s.focus.pc } })))))

/-! ## Residency, sealing, pointers and tokens (R141, R147 to R149) -/

/-- MTEST, PGREQ, PGQUERY, WPRD, TKCLR and TKTEST: the test of a mask, which CLR clears with it; a request for a page that is not resident, reported to
the host's pager; the state code of a page, which lands after four cycles; a write pointer; a token satisfied at once; and whether a token is satisfied. That a page on its way from the host answers 1 and one on its way to the host 3, and a page of another device 4, are the model's choices: entries 153 and 134. -/
def Obligations.ApPageWords : Prop :=
  ∀ (h : Hdr) (f : FS) (s : State), apHolds h s = true →
    let d := s.focus.die
    let c := s.focus.core
    let va := (apGet s f.a).toNat
    let asid := s.core.asid
    let m := s.core.amGet f.a.toNat
    let code (n : Nat) : Out := .next (coreLand s 4 [.ap f.d.toNat (BitVec.ofNat 64 n)])
    let mode := f.num.toNat % 4
    (mode < 3 → exec (.mtest h f) s = .next (coreLand s 1
      (RegWrite.apPred f.d.toNat (if mode = 0 then decide (m ≠ 0) else if mode = 1 then decide (m.toNat = 2 ^ 64 - 1) else decide (m = 0)) ::
        (if f.num.getLsbD 2 then [.apMaskClear f.a.toNat] else [])))) ∧
    (2 ^ 56 ≤ va → exec (.pgreq h f) s = .next (apTrap s (trapAt .prot va)) ∧ exec (.pgquery h f) s = code 4) ∧
    (va < 2 ^ 56 → ∀ l, walk s asid va = .ok l →
      let here := l.res = true ∧ l.home = 0
      let asked := ∃ g, faultOf s asid l.va = some g ∧ (g.toHost = false ∨ g.again = true)
      (l.home = 2 → exec (.pgreq h f) s = .next (apTrap s (trapAt .prot va))) ∧
      (l.home ≠ 2 → (here ∧ faultOf s asid l.va = none) ∨ asked → exec (.pgreq h f) s = .next s) ∧
      (l.home ≠ 2 → (¬ here ∧ faultOf s asid l.va = none) ∨ (∃ g, faultOf s asid l.va = some g ∧ g.toHost = true ∧ g.again = false) →
        16 ≤ s.core.pageReqs.length → exec (.pgreq h f) s = .next (apStall s (.stalled .other))) ∧
      (l.home ≠ 2 → ¬ here → s.core.pageReqs.length < 16 → faultOf s asid l.va = none →
        exec (.pgreq h f) s = .next { hostEvent (onCore s d c (fun x => { x with pageReqs := x.pageReqs ++ [(asid, l.va, s.core.vt)] }))
            (.fault asid l.va l.size s.core.vt false (hubOf l.va)) with
          faults := s.faults ++ [{ asid := asid, va := l.va, size := l.size, vint := s.core.vt, write := false, event := s.nextEvent,
                                   toHost := false, again := false, waiters := [] }] }) ∧
      (l.home = 2 → exec (.pgquery h f) s = code 4) ∧ -- the model's choice: entry 134
      (l.home ≠ 2 → ∀ g, faultOf s asid l.va = some g → exec (.pgquery h f) s = code (if g.toHost then 3 else 1)) ∧
      (l.home ≠ 2 → faultOf s asid l.va = none → here → exec (.pgquery h f) s = code 0) ∧
      (l.home ≠ 2 → faultOf s asid l.va = none → ¬ here → exec (.pgquery h f) s = code 2)) ∧
    exec (.wprd h f) s = .next (coreLand s 1 [.ap f.d.toNat (BitVec.ofNat 64 (tget s.core.wp (f.num.toNat % 8) 0))]) ∧
    exec (.tkclr h f) s = .next (onCore s d c (fun x => { x with tokens := tdel x.tokens (f.num.toNat % 64) })) ∧
    exec (.tktest h f) s = .next (coreLand s 1 [.apPred f.d.toNat (s.core.tokenOk (f.num.toNat % 64) s.cycle)])

/-- SEAL and UNSEAL: before COMMIT they trap NOT_COMMITTED, a length of 0 changes nothing, a range that does not begin and end with a page traps ALIGN, a range
outside the task's written regions or on a vintaged page traps PROT, pages that are as asked change nothing; else the seal bit of each page that differs is written, in each of
the 16 entries of a page of 64 KiB, no other byte of memory changes, and the AP waits for the shootdown. -/
def Sys2Proof.Statements.SealsRange : Prop :=
  ∀ k ∈ [(Instr.seal, true), (Instr.unseal, false)], ∀ (h : Hdr) (f : FS) (s : State) (l : Leaf) (ls : List Leaf), apHolds h s = true →
    let va := (apGet s f.a).toNat
    let len := (apGet s f.d).toNat
    let inside := (∃ x, walk s s.core.asid va = .ok x ∧ x.va ≠ va) ∨ (∃ x, walk s s.core.asid (va + len - 1) = .ok x ∧ x.va + x.size ≠ va + len)
    let change := (l :: ls).filter (fun x => x.seal != k.2)
    let free := (∀ x ∈ l :: ls, x.home ≠ 2 ∧ x.vintaged = false) ∧ inWrittenRegion (taskRecord s) va len = true
    (s.core.committed = false → exec (k.1 h f) s = .next (apTrap s (trapAt .notCommitted va))) ∧
    (s.core.committed = true → len = 0 → exec (k.1 h f) s = .next s) ∧
    (s.core.committed = true → 0 < len → inside → exec (k.1 h f) s = .next (apTrap s (trapAt .align va))) ∧
    (s.core.committed = true → 0 < len → ¬ inside → 2 ^ 56 < va + len → exec (k.1 h f) s = .next (apTrap s (trapAt .prot va))) ∧
    (s.core.committed = true → 0 < len → ¬ inside → va + len ≤ 2 ^ 56 → leavesFrom s s.core.asid (len / 4096 + 2) va (va + len) = .ok (l :: ls) →
      (¬ free → exec (k.1 h f) s = .next (apTrap s (trapAt .prot va))) ∧
      (free → change = [] → exec (k.1 h f) s = .next s) ∧
      (free → change ≠ [] →
        ∃ t, exec (k.1 h f) s = .next t ∧ t.core = { s.core with tlb := t.core.tlb, ap := { s.core.ap with wait := .seal s.seq } } ∧
          t.mem = ((change.filter (fun x => x.pte ≠ 0)).flatMap (fun x => (List.range (if x.size = 65536 then 16 else 1)).map (fun i =>
            (x.pte + 16 * i, if k.2 then x.word ||| BitVec.ofNat 64 (2 ^ 57) else x.word &&& ~~~(BitVec.ofNat 64 (2 ^ 57)))))).foldl
              (fun m p => writeBytes m p.1 (wordBytes p.2)) s.mem ∧
          t.shoots = s.shoots ++ [{ id := s.seq, asid := s.core.asid, vint := none, va := va, len := len, held := some ((l :: ls).map (fun x => (x.frame, x.size))), done := .seal s.focus.die s.focus.core }] ∧
          (∀ a, (∀ x ∈ change, ∀ i, i < (if x.size = 65536 then 16 else 1) → a < x.pte + 16 * i ∨ x.pte + 16 * i + 8 ≤ a) → byteAt t.mem a = byteAt s.mem a)))

/-- SEAL and UNSEAL of one page of the running task's written region, committed: a page that is as asked stays as it is; else each of its entries holds the seal bit as asked, and the AP waits for the shootdown. -/
def Sys2Proof.Statements.SealsPage : Prop :=
  ∀ (h : Hdr) (f : FS) (s : State) (l : Leaf), apHolds h s = true → s.core.committed = true →
    let va := (apGet s f.a).toNat
    let len := (apGet s f.d).toNat
    walk s s.core.asid va = .ok l → walk s s.core.asid (va + len - 1) = .ok l → l.va = va → l.size = len → 0 < len → va + len ≤ 2 ^ 56 →
    l.home ≠ 2 → l.vintaged = false → inWrittenRegion (taskRecord s) va len = true →
    (l.seal = true → exec (.seal h f) s = .next s) ∧
    (l.seal = false → exec (.unseal h f) s = .next s) ∧
    (l.seal = false → l.pte ≠ 0 → ∃ t, exec (.seal h f) s = .next t ∧ t.core.ap.wait = .seal s.seq ∧
      ∀ i, i < (if l.size = 65536 then 16 else 1) → natAt t.mem (l.pte + 16 * i) 8 = (l.word ||| BitVec.ofNat 64 (2 ^ 57)).toNat) ∧
    (l.seal = true → l.pte ≠ 0 → ∃ t, exec (.unseal h f) s = .next t ∧ t.core.ap.wait = .seal s.seq ∧
      ∀ i, i < (if l.size = 65536 then 16 else 1) → natAt t.mem (l.pte + 16 * i) 8 = (l.word &&& ~~~(BitVec.ofNat 64 (2 ^ 57))).toNat)

/-- SEAL and UNSEAL: the traps of a range, and the page-table bits that they change. -/
def Obligations.ApSeals : Prop := SealsRange ∧ SealsPage

end Statements

namespace Sys2Proof.Statements

open Sys2Proof.Machine

noncomputable section

/-! ## The execute processor's words (R163 to R221) -/

/-- A word of the XP that reads the register space runs: its predicate holds, and no error is armed for the next read of the register space. -/
def xpReady (h : Hdr) (s : State) : Prop :=
  xpHolds h s = true ∧ armedOn s s.focus.die s.focus.core 0 = none

/-- Whether a destination of a class can be written: a latch alone (the model's choice: entry 132), or a register below its view's COUNT. -/
def canWrite (c : Core) (v : Nat) (d : BitVec 10) : Bool := d.getLsbD 9 || decide (d.toNat % 512 < (c.view v).toNat / 2 ^ 34 % 2 ^ 10)

/-- The outcome of a word with a vector result: some 256 bytes, of which something holds, land in D. -/
def VecResult (s : State) (lat : Nat) (d : BitVec 10) (out : Out) (what : Vec → Prop) : Prop :=
  ∃ v ws, what v ∧ vResult s.core d v = some ws ∧ out = .next (coreLand s lat ws)

/-- The outcome of a word with a scalar result. -/
def ScalarResult (s : State) (lat : Nat) (d : BitVec 10) (out : Out) (v : Word) : Prop :=
  ∃ ws, sResult s.core d v = some ws ∧ out = .next (coreLand s lat ws)

/-- Element i of z bytes of an operand. -/
def elemAt (z : Nat) (v : Vec) (i : Nat) : Nat := v.toNat / 2 ^ (8 * z * i) % 2 ^ (8 * z)

/-- Whether a mask selects lane i of z bytes: the bit of its first byte. -/
def laneOn (m : Mask) (z i : Nat) : Bool := m.getLsbD (z * i)

/-- The element type of a word of the XP in focus. -/
def tyOf (s : State) (ty : BitVec 3) : Elem := elemOf ty ((s.core.view 1).getLsbD 48)

/-- R167, two sources. -/
def xpScalar : List ((Hdr → F3 → Instr) × Nat × (Word → Word → Word)) :=
  [(.xpAdd, 1, addW), (.xpSub, 1, subW), (.xpMul, 3, mulW), (.xpAnd, 1, fun a b => a &&& b), (.xpOr, 1, fun a b => a ||| b),
   (.xpXor, 1, fun a b => a ^^^ b), (.xpShl, 1, fun a b => shlW a (b.toNat % 64)), (.xpShr, 1, fun a b => shrW a (b.toNat % 64))]

/-- R168, the compares. -/
def xpCmp : List ((Hdr → F3 → Instr) × (Word → Word → Bool)) :=
  [Instr.xpCmpEq, .xpCmpNe, .xpCmpLt, .xpCmpLe, .xpCmpLtu, .xpCmpLeu].zip relations

/-- R168, the predicate words. -/
def xpPreds : List ((Hdr → F3 → Instr) × (Bool → Bool → Bool)) :=
  [(.xpPand, fun a b => a && b), (.xpPor, fun a b => a || b), (.xpPnot, fun a _ => !a)]

/-- Predicate n of the XP in focus. -/
def xpPred (s : State) (n : BitVec 10) : Bool := predGet s.core.xpPreds n.toNat

/-- An exact integer under an integer rounding mode (R73): modulo 2^w, clamped to the signed range, clamped to the unsigned range. -/
def narrowed (w : Nat) (rm : BitVec 2) (y : Int) : Nat :=
  if rm = 1 then (BitVec.ofInt w (max (-(2 ^ (w - 1))) (min (2 ^ (w - 1) - 1) y))).toNat
  else if rm = 2 then (max 0 (min (2 ^ w - 1) y)).toNat
  else (BitVec.ofInt w y).toNat

/-- A lane's signed value. -/
def sgn (w a : Nat) : Int := (BitVec.ofNat w a).toInt

/-- A lane's value as R170 reads it: unsigned under .satu. -/
def readAs (w : Nat) (rm : BitVec 2) (a : Nat) : Int := if rm = 2 then (a : Int) else sgn w a

/-- R170 and R171: the words, their latency, the number of their sources, and the value of a lane from the width, RM and the sources' lanes. -/
def vintWords : List ((Hdr → F3 → Instr) × Nat × Nat × (Nat → BitVec 2 → Nat → Nat → Nat → Nat)) :=
  [(.vadd, 2, 2, fun w rm a b _ => narrowed w rm (readAs w rm a + readAs w rm b)),
   (.vsub, 2, 2, fun w rm a b _ => narrowed w rm (readAs w rm a - readAs w rm b)),
   (.vmul, 4, 2, fun w rm a b _ => narrowed w rm (readAs w rm a * readAs w rm b)),
   (.vmulh, 4, 2, fun w _ a b _ => (BitVec.ofInt w (Int.fdiv (sgn w a * sgn w b) (2 ^ w))).toNat),
   (.vmin, 2, 2, fun w _ a b _ => (BitVec.ofInt w (min (sgn w a) (sgn w b))).toNat),
   (.vmax, 2, 2, fun w _ a b _ => (BitVec.ofInt w (max (sgn w a) (sgn w b))).toNat),
   (.vminu, 2, 2, fun _ _ a b _ => min a b), (.vmaxu, 2, 2, fun _ _ a b _ => max a b),
   (.vand, 2, 2, fun _ _ a b _ => a &&& b), (.vor, 2, 2, fun _ _ a b _ => a ||| b), (.vxor, 2, 2, fun _ _ a b _ => a ^^^ b),
   (.vabsd, 2, 2, fun w rm a b _ => narrowed w rm ((readAs w rm a - readAs w rm b).natAbs : Int)),
   (.vshl, 2, 2, fun w rm a n _ => narrowed w rm (readAs w rm a * 2 ^ n)), (.vshr, 2, 2, fun _ _ a n _ => a / 2 ^ n),
   (.vsar, 2, 2, fun w _ a n _ => (BitVec.ofInt w (Int.fdiv (sgn w a) (2 ^ n))).toNat),
   (.vfshl, 2, 3, fun w _ a b n => (a * 2 ^ min n w ||| b / 2 ^ (w - min n w)) % 2 ^ w),
   (.vfshr, 2, 3, fun w _ a b n => (b / 2 ^ min n w ||| a * 2 ^ (w - min n w)) % 2 ^ w),
   (.vclz, 2, 1, fun w _ a _ _ => ((List.range w).filter (fun n => decide (a < 2 ^ n))).length),
   (.vpopc, 2, 1, fun w _ a _ _ => ((List.range w).filter (fun n => a.testBit n)).length)]

/-- R174 and R175: the words, their latency, the number of their sources, and a lane from the element type, RM, its random word and the sources' lanes:
the exact result of the lanes' values, rounded once. -/
def vfltWords : List ((Hdr → F3 → Instr) × Nat × Nat × (Elem → BitVec 2 → Nat → Nat → Nat → Nat → Nat)) :=
  let val (e : Elem) (x : Nat) : FVal := e.value false x
  [(.vfadd, 4, 2, fun e rm r a b _ => e.pack rm r (addV (val e a) (val e b))),
   (.vfsub, 4, 2, fun e rm r a b _ => e.pack rm r (addV (val e a) (negV (val e b)))),
   (.vfmul, 4, 2, fun e rm r a b _ => e.pack rm r (mulV (val e a) (val e b))),
   (.vfma, 5, 3, fun e rm r a b k => e.pack rm r (addV (mulV (val e a) (val e b)) (val e k))),
   (.vfms, 5, 3, fun e rm r a b k => e.pack rm r (addV (mulV (val e a) (val e b)) (negV (val e k)))),
   (.vfmin, 2, 2, fun e rm r a b _ => e.pack rm r (minV (val e a) (val e b))),
   (.vfmax, 2, 2, fun e rm r a b _ => e.pack rm r (maxV (val e a) (val e b))),
   (.vfabs, 2, 1, fun e _ _ a _ _ => e.pack 0 0 (absV (val e a))), (.vfneg, 2, 1, fun e _ _ a _ _ => e.pack 0 0 (negV (val e a))),
   (.vfrcp, 8, 1, fun _ _ _ a _ _ => divF .f32 .rne 0 (.fin false 1 0) (decodeF .f32 a)),
   (.vfrsq, 8, 1, fun _ _ _ a _ _ => rsqrtF .f32 (decodeF .f32 a)), (.vfexp2, 10, 1, fun _ _ _ a _ _ => exp2F .f32 (decodeF .f32 a)),
   (.vflog2, 10, 1, fun _ _ _ a _ _ => log2F .f32 (decodeF .f32 a)), (.vfsqrt, 12, 1, fun _ _ _ a _ _ => sqrtF .f32 (decodeF .f32 a)),
   (.vfdiv, 14, 2, fun _ _ _ a b _ => divF .f32 .rne 0 (decodeF .f32 a) (decodeF .f32 b))]

/-- R172: the compares into a mask. -/
def vcmpWords : List ((Hdr → F3 → Instr) × Rel) :=
  [(.vcmpEq, .eq), (.vcmpNe, .ne), (.vcmpLt, .lt), (.vcmpLe, .le), (.vcmpLtu, .ltu), (.vcmpLeu, .leu)]

/-- The relation of two lanes: of integers by their values, of floating-point lanes by the order of R76. -/
def lanesRelate (e : Elem) (r : Rel) (a b : Nat) : Bool :=
  match e with
  | .flt t => r.holdsV (decodeF t a) (decodeF t b)
  | .int w => match r with
    | .eq => decide (a = b)
    | .ne => decide (a ≠ b)
    | .lt => decide (sgn w a < sgn w b)
    | .le => decide (sgn w a ≤ sgn w b)
    | .ltu => decide (a < b)
    | .leu => decide (a ≤ b)

/-- R91: the node of the fixed tree over the 2^k lanes from lane lo on; a step is given the lowest lane of its right operand. -/
def treeNode (step : Nat → Nat → Nat → Nat) (lane : Nat → Nat) : Nat → Nat → Nat
  | 0, lo => lane lo
  | k + 1, lo => step (lo + 2 ^ k) (treeNode step lane k lo) (treeNode step lane k (lo + 2 ^ k))

/-- R92: lane i after k steps of a prefix sum. -/
def prefixNode (step : Nat → Nat → Nat → Nat → Nat) (lane : Nat → Nat) : Nat → Nat → Nat
  | 0, i => lane i
  | k + 1, i => if i < 2 ^ k then prefixNode step lane k i
      else step i k (prefixNode step lane k (i - 2 ^ k)) (prefixNode step lane k i)

/-- The reductions. -/
def reductions : List ((Hdr → F3 → Instr) × Reduce) := [(.vrsum, .sum), (.vrmax, .max), (.vrmin, .min)]

/-- The reductions of groups. -/
def groupReductions : List ((Hdr → F3 → Instr) × Reduce) := [(.vgmax, .max), (.vgsum, .sum)]

/-- A command placed at the tail of its queue: its parameters, its tokens, and the producers that it waits for; nothing else changes but the token that
it produces. -/
def Queued (s : State) (q : QueueId) (k : CmdKind) (ps : List Word) (f : FE) (out : Out) : Prop :=
  ∃ m : Cmd, m.id = s.seq ∧ m.queue = q ∧ m.kind = k ∧ m.params = ps ∧ m.kp = f.kp.toNat ∧ m.started = none ∧ m.doneAt = none ∧
    (∀ n ∈ [f.kc1, f.kc2, f.kc3], n ≠ 0 → (n.toNat, s.core.producers n.toNat s.cycle) ∈ m.waits) ∧
    out = .next (onCore { s with seq := s.seq + 1 } s.focus.die s.focus.core (fun x =>
      { x.addProducer f.kp.toNat s.seq s.cycle with cmds := x.cmds ++ [m] }))

/-- The words of the XP that start a unit: queue, kind, number of scalars, checks at issue. -/
def xlWords (s : State) (f : FE) : List ((Hdr → FE → Instr) × QueueId × CmdKind × Nat × (Core → List Word → Option (Cause × Nat))) :=
  let n := f.ch.toNat
  [(.xpose, .xpose, .xpose, 5, turnCheck false), (.xposeP, .xpose, .xposeP, 5, turnCheck true), (.spill, .spill, .spill, 4, spillCheck s true),
   (.xpFill, .spill, .fillRs, 4, spillCheck s false), (.wload, .claim n, .wload, 3, wloadCheck n), (.wloadp, .claim n, .wloadp, 3, wloadCheck n),
   (.mstream, .claim n, .mstream, 4, mstreamCheck false n), (.mstreamp, .claim n, .mstreamp, 4, mstreamCheck true n),
   (.mvstream, .claim n, .mvstream, 4, mvstreamCheck n)]

/-- The n scalars from s[X] on are these. -/
def scalarsFrom (s : State) (f : FE) (n : Nat) (ps : List Word) : Prop :=
  ps.length = n ∧ ∀ i, i < n → sSrcOf s.core (f.x + BitVec.ofNat 10 i) = ps[i]?

/-- Where the XP goes (R169). -/
def xpGoes (s : State) (target : Nat) : State :=
  if mayBranch s target then
    onCore s s.focus.die s.focus.core (fun c => { c with xp := { c.xp with pc := target, ready := s.cycle + 2, jumped := true } })
  else xpTrap s (trapAt (branchCause target) target)

end

end Sys2Proof.Statements

section Statements

open Sys2Proof Sys2Proof.Machine Sys2Proof.Statements

/-! ## The execute processor: operands (R34, R42, R43, R163) -/

/-- A register of the scalar, vector, tile or accumulator class is the bytes at BASE + n·2^STRIDE of the register space for n below its view's COUNT, and is not
readable at COUNT and beyond; a latch is itself. A scalar or vector result writes the register's bytes and the latch of its low four bits, or with WS the latch alone, whose index
is not held to the COUNT (the model's choice: entry 132). -/
def Obligations.XpOperands : Prop :=
  ∀ (c : Core) (x : BitVec 10),
    let n := x.toNat % 512
    let w (v : Nat) := (c.view v).toNat
    let place (v : Nat) := w v % 2 ^ 17 + n * 2 ^ (w v / 2 ^ 44 % 2 ^ 4)
    let size (v : Nat) := [8, 256, 1024, 4096].getD v 4096
    let count (v : Nat) := w v / 2 ^ 34 % 2 ^ 10
    (∀ v, v < 4 → x.getLsbD 9 = false → n < count v → srcOf c v x = some (natAt c.space (place v) (size v))) ∧
    (∀ v, v < 4 → x.getLsbD 9 = false → count v ≤ n → srcOf c v x = none) ∧
    (x.getLsbD 9 = true → vSrcOf c x = some (c.latch (x.toNat % 16)) ∧
      sSrcOf c x = some (BitVec.ofNat 64 (c.latch (x.toNat % 16)).toNat)) ∧
    (∀ r : Vec, (x.getLsbD 9 = true → vResult c x r = some [.latch (x.toNat % 16) r]) ∧
      (x.getLsbD 9 = false → n < count 1 → vResult c x r = some [.space (place 1) (vecBytes r), .latchOf (x.toNat % 16) (place 1) 256]) ∧
      (x.getLsbD 9 = false → count 1 ≤ n → vResult c x r = none)) ∧
    (∀ r : Word, (x.getLsbD 9 = true → sResult c x r = some [.latch (x.toNat % 16) (r.setWidth 2048)]) ∧
      (x.getLsbD 9 = false → n < count 0 → sResult c x r = some [.space (place 0) (wordBytes r), .latchOf (x.toNat % 16) (place 0) 8]) ∧
      (x.getLsbD 9 = false → count 0 ≤ n → sResult c x r = none))

/-! ## The execute processor: scalar and predicate words, branches (R167 to R169) -/

/-- INT of the XP: the result of the table lands in s[D] after the table's latency; SEL, ADDI, MOVI, SHLI; a source beyond its view's COUNT traps VIEW_RANGE; a word whose
predicate is false does nothing. -/
def Sys2Proof.Statements.XpScalarResults : Prop :=
  (∀ e ∈ xpScalar, ∀ (h : Hdr) (f : F3) (s : State),
    (xpHolds h s = false → exec (e.1 h f) s = .next s) ∧
    (xpReady h s → sSrcOf s.core f.a = none → exec (e.1 h f) s = .next (xpTrap s (trapOf .viewRange))) ∧
    (∀ a b, xpReady h s → sSrcOf s.core f.a = some a → sSrcOf s.core f.b = some b → canWrite s.core 0 f.d = true →
      ScalarResult s e.2.1 f.d (exec (e.1 h f) s) (e.2.2 a b))) ∧
  (∀ (h : Hdr) (f : F3) (s : State) (a b : Word), xpReady h s → sSrcOf s.core f.a = some a → sSrcOf s.core f.b = some b → canWrite s.core 0 f.d = true →
    ScalarResult s 1 f.d (exec (.xpSel h f) s) (if xpPred s f.c then a else b)) ∧
  (∀ (h : Hdr) (f : FI) (s : State), xpReady h s → canWrite s.core 0 f.d = true →
    ScalarResult s 1 f.d (exec (.xpMovi h f) s) (simm f.imm) ∧
    (∀ a, sSrcOf s.core f.a = some a →
      ScalarResult s 1 f.d (exec (.xpAddi h f) s) (addW a (simm f.imm)) ∧
      ScalarResult s 1 f.d (exec (.xpShli h f) s) (shlW a (f.imm.toNat % 64))))

/-- CMP and the predicate words of the XP, and its branches: BR on its predicate, JMP, and BRB, which pops a bit of bq whatever its predicate and branches when both are 1. -/
def Sys2Proof.Statements.XpPredicatesAndBranches : Prop :=
  (∀ e ∈ xpCmp, ∀ (h : Hdr) (f : F3) (s : State) (a b : Word), xpReady h s → sSrcOf s.core f.a = some a → sSrcOf s.core f.b = some b →
    exec (e.1 h f) s = .next (coreLand s 1 [.xpPred f.d.toNat (e.2 a b)])) ∧
  (∀ e ∈ xpPreds, ∀ (h : Hdr) (f : F3) (s : State),
    exec (e.1 h f) s = .next (if xpHolds h s then coreLand s 1 [.xpPred f.d.toNat (e.2 (xpPred s f.a) (xpPred s f.b))] else s)) ∧
  (∀ (h : Hdr) (f : FB) (s : State),
    exec (.xpBr h f) s = .next (if xpHolds h s then xpGoes s (coreLabel s f.off) else s) ∧
    exec (.xpJmp h f) s = .next (xpGoes s (coreLabel s f.off)) ∧
    (s.core.bqHead s.cycle = none → exec (.brb h f) s = .next (xpStall s (.stalled .bqEmpty))) ∧
    (∀ b, s.core.bqHead s.cycle = some b →
      let t := onCore s s.focus.die s.focus.core (fun c => c.bqPop s.cycle)
      exec (.brb h f) s = .next (if b && xpHolds h s then xpGoes t (coreLabel s f.off) else t)))

/-- The scalar words, the predicate words and the branches of the execute processor. -/
def Obligations.XpScalarWords : Prop := XpScalarResults ∧ XpPredicatesAndBranches

/-! ## The execute processor: vectors (R170 to R183) -/

/-- VINT and VSH: every lane of the 256 bytes that land in v[D] is the table's value of the sources' lanes, at each width. -/
def Obligations.VectorIntegerLanes : Prop :=
  ∀ e ∈ vintWords, ∀ (h : Hdr) (f : F3) (s : State) (a b c : Vec), xpReady h s →
    let z := (tyOf s f.ty).bytes
    vSrcOf s.core f.a = some a → (2 ≤ e.2.2.1 → vSrcOf s.core f.b = some b) → (3 ≤ e.2.2.1 → vSrcOf s.core f.c = some c) → canWrite s.core 1 f.d = true →
    VecResult s e.2.1 f.d (exec (e.1 h f) s) (fun v => ∀ i, i < 256 / z →
      elemAt z v i = e.2.2.2 (8 * z) f.rm (elemAt z a i) (elemAt z b i) (elemAt z c i))

/-- VFP and VFX: every lane of the 256 bytes that land in v[D] is the table's value of the sources' lanes, rounded once with the random word of its lane. -/
def Obligations.VectorFloatLanes : Prop :=
  ∀ e ∈ vfltWords, ∀ (h : Hdr) (f : F3) (s : State) (a b c : Vec), xpReady h s →
    let z := (tyOf s f.ty).bytes
    vSrcOf s.core f.a = some a → (2 ≤ e.2.2.1 → vSrcOf s.core f.b = some b) → (3 ≤ e.2.2.1 → vSrcOf s.core f.c = some c) → canWrite s.core 1 f.d = true →
    VecResult s e.2.1 f.d (exec (e.1 h f) s) (fun v => ∀ i, i < 256 / z →
      elemAt z v i = e.2.2.2 (tyOf s f.ty) f.rm ((drawOf s s.core).word i 0) (elemAt z a i) (elemAt z b i) (elemAt z c i) % 2 ^ (8 * z))

/-- VCMP: all bits of a lane's bytes in m[D] are the outcome of its relation, two cycles later; VSEL takes each byte by its bit of m[C]; MAND, MOR, MNOT; MPOPC counts the
selected lanes. -/
def Sys2Proof.Statements.VectorMasks : Prop :=
  ∀ (h : Hdr) (f : F3) (s : State),
    let z := (tyOf s f.ty).bytes
    let mask (x : Mask) : Out := .next (if xpHolds h s then coreLand s 1 [.xpMask f.d.toNat x (BitVec.allOnes 256)] else s)
    let m (x : BitVec 10) := s.core.xmGet x.toNat
    (∀ e ∈ vcmpWords, ∀ a b, xpReady h s → vSrcOf s.core f.a = some a → vSrcOf s.core f.b = some b →
      ∃ x : Mask, (∀ j, j < 256 → x.getLsbD j = lanesRelate (tyOf s f.ty) e.2 (elemAt z a (j / z)) (elemAt z b (j / z))) ∧
        exec (e.1 h f) s = .next (coreLand s 2 [.xpMask f.d.toNat x (BitVec.allOnes 256)])) ∧
    (∀ a b, xpReady h s → vSrcOf s.core f.a = some a → vSrcOf s.core f.b = some b → canWrite s.core 1 f.d = true →
      VecResult s 2 f.d (exec (.vsel h f) s) (fun v => ∀ j, j < 256 → elemAt 1 v j = if (m f.c).getLsbD j then elemAt 1 a j else elemAt 1 b j)) ∧
    exec (.mand h f) s = mask (m f.a &&& m f.b) ∧ exec (.mor h f) s = mask (m f.a ||| m f.b) ∧ exec (.mnot h f) s = mask (~~~ m f.a) ∧
    (xpReady h s → canWrite s.core 0 f.d = true →
      ScalarResult s 2 f.d (exec (.mpopc h f) s) (BitVec.ofNat 64 ((List.range (256 / z)).filter (laneOn (m f.a) z)).length))

/-- VCVT widens part PART of A into D whole, or narrows A into part PART of D alone; VSRND, VDEQ, VQUANT, VPLANE and VUNPLANE: the lanes and bytes that land. That VQUANT draws by the index of the element in its whole operand is the model's choice: entry 19. -/
def Obligations.VectorConversions : Prop :=
  ∀ (h : Hdr) (f : F3) (s : State) (a : Vec), xpReady h s → vSrcOf s.core f.a = some a →
    let c := s.core
    let draw (i : Nat) := (drawOf s c).word i 0
    let dst := tyOf s f.ty
    let src := elemOf (f.c.extractLsb' 0 3) ((c.view 1).getLsbD 48 != f.c.getLsbD 6)
    let zs := src.bytes
    let zd := dst.bytes
    let n := 256 / max zs zd
    let part := f.c.toNat / 8 % 8
    let quarter := f.c.toNat % 4
    let code := if f.ty = 0 then 13 else if (c.view 1).getLsbD 48 then 12 else 11
    (zs < zd → (part + 1) * n ≤ 256 / zs → canWrite c 1 f.d = true →
      VecResult s 4 f.d (exec (.vcvt h f) s) (fun v => ∀ i, i < n →
        elemAt zd v i = convertElem src dst f.rm (draw i) (elemAt zs a (part * n + i)) % 2 ^ (8 * zd))) ∧
    (zd ≤ zs → ∀ ws, resultWrites c 1 f.d ((List.range n).flatMap (fun i => leBytes zd (convertElem src dst f.rm (draw (part * n + i)) (elemAt zs a i))))
        (part * n * zd) = some ws →
      exec (.vcvt h f) s = .next (coreLand s 4 ws)) ∧
    (canWrite c 1 f.d = true →
      VecResult s 4 f.d (exec (.vsrnd h f) s) (fun v => ∀ i, i < 64 →
        elemAt 4 v i = roundToGrid f.ty dst f.rm (draw i) (elemAt 4 a i) % 2 ^ 32)) ∧
    (∀ o, slotOf c 0 f.b.toNat = some o → canWrite c 1 f.d = true →
      VecResult s 4 f.d (exec (.vdeq h f) s) (fun v => ∀ i, i < 64 →
        elemAt 4 v i = roundF .f32 .rne 0 (blockValue code (byteAt c.space (o + 2 * quarter + i / 32)).toNat (elemAt 1 a (64 * quarter + i))) % 2 ^ 32)) ∧
    (∀ o ws, slotOf c 0 f.b.toNat = some o →
      let block (k : Nat) := encodeBlockIn code f.rm (fun i => draw (64 * quarter + 32 * k + i)) ((List.range 32).map (fun i => decodeF .f32 (elemAt 4 a (32 * k + i))))
      resultWrites c 1 f.d ((block 0).2 ++ (block 1).2) (64 * quarter) = some ws →
      exec (.vquant h f) s = .next (coreLand s 4 (ws ++ [.space (o + 2 * quarter) [BitVec.ofNat 8 (block 0).1, BitVec.ofNat 8 (block 1).1]]))) ∧
    (canWrite c 1 f.d = true →
      VecResult s 3 f.d (exec (.vplane h f) s) (fun v => ∀ q i, q < 8 → i < 256 → v.getLsbD (256 * q + i) = (elemAt 1 a i).testBit (7 - q)) ∧
      VecResult s 3 f.d (exec (.vunplane h f) s) (fun v => ∀ q i, q < 8 → i < 256 →
        v.getLsbD (8 * i + (7 - q)) = (decide (q < f.c.toNat % 16) && a.getLsbD (256 * q + i))))

/-- The reductions by the fixed tree over the selected lanes, whole and by groups, the index of the maximum, and the prefix sum. -/
def Obligations.VectorReductions : Prop :=
  ∀ (h : Hdr) (f : F3) (s : State) (a : Vec), xpReady h s → vSrcOf s.core f.a = some a →
    let e := tyOf s f.ty
    let z := e.bytes
    let levels := (256 / z).log2
    let m := s.core.xmGet (f.c.toNat % 8)
    let g := f.c.toNat / 8 % 16
    let on (out : Nat) (i : Nat) := if laneOn m z i then elemAt z a i else out
    let draw (i k : Nat) := (drawOf s s.core).word i k
    let node (k : Reduce) := treeNode (fun i x y => k.apply e f.rm (draw i 0) x y) (on (k.identity e))
    (∀ w ∈ reductions, canWrite s.core 0 f.d = true →
      ScalarResult s (2 + levels) f.d (exec (w.1 h f) s) (BitVec.ofNat 64 (node w.2 levels 0))) ∧
    (∀ w ∈ groupReductions, g ≤ levels → canWrite s.core 1 f.d = true →
      VecResult s (2 + g) f.d (exec (w.1 h f) s) (fun v => ∀ i, i < 256 / z →
        elemAt z v i = if i % 2 ^ g = 0 then node w.2 g i % 2 ^ (8 * z) else 0)) ∧
    (canWrite s.core 0 f.d = true →
      ((∀ i, i < 256 / z → laneOn m z i = false) → ScalarResult s (2 + levels) f.d (exec (.vrmaxi h f) s) (BitVec.allOnes 64)) ∧
      (∀ i, i < 256 / z → laneOn m z i = true →
        (∀ j, j < 256 / z → laneOn m z j = true → indexGreater e (elemAt z a j) (elemAt z a i) = false ∧
          (j < i → indexGreater e (elemAt z a i) (elemAt z a j) = true)) →
        ScalarResult s (2 + levels) f.d (exec (.vrmaxi h f) s) (BitVec.ofNat 64 i))) ∧
    (canWrite s.core 1 f.d = true →
      VecResult s (2 + levels) f.d (exec (.vpsum h f) s) (fun v => ∀ i, i < 256 / z →
        elemAt z v i = prefixNode (fun i k x y => Reduce.sum.apply e f.rm (draw i k) x y) (on 0) levels i % 2 ^ (8 * z)))

/-- The permutes: VPERM by the indices of B, VBCAST, VSLIDE, VCOMP, VEXP and VMOVI, lane by lane. -/
def Sys2Proof.Statements.VectorPermutes : Prop :=
  (∀ (h : Hdr) (f : F3) (s : State) (a b : Vec), xpReady h s → canWrite s.core 1 f.d = true →
    let z := (tyOf s f.ty).bytes
    let n := 256 / z
    let m := s.core.xmGet (f.c.toNat % 8)
    let k := f.c.toNat % 256
    let chosen := (List.range n).filter (laneOn m z)
    (∀ x, sSrcOf s.core f.a = some x → VecResult s 3 f.d (exec (.vbcast h f) s) (fun v => ∀ i, i < n → elemAt z v i = x.toNat % 2 ^ (8 * z))) ∧
    (vSrcOf s.core f.a = some a →
      (vSrcOf s.core f.b = some b →
        VecResult s 3 f.d (exec (.vperm h f) s) (fun v => ∀ i, i < n → elemAt z v i = if elemAt z b i < n then elemAt z a (elemAt z b i) else 0) ∧
        (k ≤ n → VecResult s 3 f.d (exec (.vslide h f) s) (fun v => ∀ i, i < n →
          elemAt z v i = if i + k < n then elemAt z a (i + k) else elemAt z b (i + k - n)))) ∧
      VecResult s 3 f.d (exec (.vcomp h f) s) (fun v => ∀ i, i < n → elemAt z v i = ((chosen[i]?).map (elemAt z a)).getD 0) ∧
      VecResult s 3 f.d (exec (.vexp h f) s) (fun v => ∀ i, i < n →
        elemAt z v i = if laneOn m z i = true then elemAt z a (chosen.filter (fun j => decide (j < i))).length else 0))) ∧
  (∀ (h : Hdr) (f : FI) (s : State), xpReady h s → canWrite s.core 1 f.d = true →
    VecResult s 2 f.d (exec (.vmovi h f) s) (fun v => ∀ i, i < 64 → elemAt 4 v i = (simm f.imm).toNat % 2 ^ 32))

/-- The masks and the permutes of the execute processor. -/
def Obligations.VectorMasksAndPermutes : Prop := VectorMasks ∧ VectorPermutes

/-! ## The execute processor: queues, buffers, the pigeonhole, views (R184 to R195, R199) -/

/-- QPOP, QPOPM, QPUSH, QPUSHM and QCNT: a pop waits for a landed entry and lands its bytes two cycles on; a push waits for room and makes the entry available two cycles on. -/
def Obligations.XpQueues : Prop :=
  ∀ (h : Hdr) (f : F3) (s : State),
    let c := s.core
    let q := f.a.toNat
    let r := f.d.toNat
    let pop (x : Core) : Core := x.aqPop q s.cycle
    let pushed (v : Vec) (m : Mask) : Out := .next (onCore s s.focus.die s.focus.core (fun x =>
      { x with xq := tput x.xq r (tget x.xq r [] ++ [{ data := v, mask := m, at_ := s.cycle + 2, gone := none }]) }))
    (xpHolds h s = true → ∀ i ∈ [Instr.qpop h f, .qpopm h f],
      (c.aqHead q = none → exec i s = .next (xpStall s (.stalled (.aqEmpty q)))) ∧
      (∀ e, c.aqHead q = some e → e.landed = false → exec i s = .next (xpStall s (.stalled (.aqPending q))))) ∧
    (∀ e ws, xpHolds h s = true → c.aqHead q = some e → e.landed = true →
      (vResult c f.d e.data = some ws → exec (.qpop h f) s = .next (coreLand (onCore s s.focus.die s.focus.core pop) 2 ws)) ∧
      (maskedWrites c f.d e.data (c.xmGet f.b.toNat) = some ws →
        exec (.qpopm h f) s = .next (coreLand (onCore s s.focus.die s.focus.core pop) 2 ws))) ∧
    (xpHolds h s = true → 32 ≤ c.xqUsed r s.cycle → ∀ i ∈ [Instr.qpush h f, .qpushm h f], exec i s = .next (xpStall s (.stalled (.xqFull r)))) ∧
    (∀ v, xpReady h s → c.xqUsed r s.cycle < 32 → vSrcOf c f.a = some v →
      exec (.qpush h f) s = pushed v (BitVec.allOnes 256) ∧ exec (.qpushm h f) s = pushed v (c.xmGet f.b.toNat)) ∧
    (xpReady h s → canWrite c 0 f.d = true →
      ScalarResult s 1 f.d (exec (.qcnt h f) s) (BitVec.ofNat 64 (
        if q < 8 then ((tget c.aq q []).filter (fun e => e.landed && counts s.cycle e.gone)).length
        else if q < 12 then ((tget c.xq (q - 8) []).filter (fun e => counts s.cycle e.gone)).length
        else if q = 12 then (c.bq.filter (fun e => counts s.cycle e.gone)).length
        else (c.pigeon.filter (fun e => decide (e.at_ ≤ s.cycle))).length)))

/-- VLDB, VSTB and VSTBM: the word's place is checked in the order of R186; its grants on the buffer's port follow those of earlier words, and it lands four cycles after the
last; a store writes the bytes that its mask selects. -/
def Sys2Proof.Statements.BufferWordsPlaced : Prop :=
  ∀ (h : Hdr) (f : FM) (s : State) (buf off w : Nat),
    let c := s.core
    let last := max s.cycle (tget c.grants buf 0) + ceilDiv (ceilDiv w 256) (if buf = 3 then 8 else 4) - 1
    let granted := onCore s s.focus.die s.focus.core (fun x => { x with grants := tput x.grants buf (last + 1) })
    let v := f.b.toNat / 32 % 4 + 1
    (∀ k src, xpHolds h s = true → bufPlace c f src = .error k →
      (src = false → exec (.vldb h f) s = .next (xpTrap s (trapOf k))) ∧
      (src = true → exec (.vstb h f) s = .next (xpTrap s (trapOf k)) ∧ exec (.vstbm h f) s = .next (xpTrap s (trapOf k)))) ∧
    (xpHolds h s = true → armedOn s s.focus.die s.focus.core buf = none → bufPlace c f false = .ok (buf, off, w) →
      ∃ ws, exec (.vldb h f) s = .next (coreLand granted (last + 4 - s.cycle) ws) ∧
        (w = 256 → resultWrites c 1 f.d (bufRead c buf off 256) 0 = some ws) ∧
        (w ≠ 256 → f.d.getLsbD 9 = false → ∃ o, slotOf c v f.d.toNat = some o ∧ ws = [.space o (bufRead c buf off w)])) ∧
    (∀ x, xpReady h s → bufPlace c f true = .ok (buf, off, w) → srcOf c v f.d = some x →
      exec (.vstb h f) s = .next (coreLand granted (last + 4 - s.cycle) ((maskRuns (BitVec.allOnes 256) (leBytes w x)).map (fun r => .buf buf (off + r.1) r.2))) ∧
      exec (.vstbm h f) s = .next (coreLand granted (last + 4 - s.cycle)
        ((maskRuns (c.xmGet (f.b.toNat / 4 % 8)) (leBytes w x)).map (fun r => .buf buf (off + r.1) r.2))))

/-- VLDB, VSTB and VSTBM of AB (2) or CB (3) at an aligned offset that no phase range maps and whose bytes lie in the buffer, with an operand below its view's COUNT: each runs, and lands four cycles after its last grant. -/
def Sys2Proof.Statements.BufferWordsRun : Prop :=
  ∀ (h : Hdr) (f : FM) (s : State), f.b.toNat % 4 = 2 ∨ f.b.toNat % 4 = 3 →
    let c := s.core
    let buf := f.b.toNat % 4
    let v := f.b.toNat / 32 % 4 + 1
    let w := if v = 1 then 256 else if v = 2 then 1024 else 4096
    let o := ((c.oGet f.a.toNat).setWidth 64 + sext f.off * BitVec.ofNat 64 (2 ^ f.sz.toNat)).toNat % 2 ^ 32
    let slot := (c.view v).toNat % 2 ^ 17 + f.d.toNat % 512 * 2 ^ ((c.view v).toNat / 2 ^ 44 % 16)
    let x := if f.d.getLsbD 9 then (c.latch (f.d.toNat % 16)).toNat % 2 ^ (8 * w) else natAt c.space slot w
    let last := max s.cycle (tget c.grants buf 0) + ceilDiv (ceilDiv w 256) (if buf = 3 then 8 else 4) - 1
    let granted := onCore s s.focus.die s.focus.core (fun y => { y with grants := tput y.grants buf (last + 1) })
    let stored (m : Mask) : Out := .next (coreLand granted (last + 4 - s.cycle) ((maskRuns m (leBytes w x)).map (fun r => .buf buf (o + r.1) r.2)))
    isMappedOff c buf o = false → o % 2 ^ f.sz.toNat = 0 → o + w ≤ (if buf = 3 then 8388608 else 16777216) →
    (xpHolds h s = true → armedOn s s.focus.die s.focus.core buf = none → f.d.getLsbD 9 = false → canWrite c v f.d = true →
      exec (.vldb h f) s = .next (coreLand granted (last + 4 - s.cycle)
        (.space slot (bufRead c buf o w) :: (if w = 256 then [.latchOf (f.d.toNat % 16) slot 256] else [])))) ∧
    (xpReady h s → canWrite c v f.d = true → exec (.vstb h f) s = stored (BitVec.allOnes 256) ∧
      exec (.vstbm h f) s = stored (c.xmGet (f.b.toNat / 4 % 8)))

/-- VLDB, VSTB and VSTBM: where a word has its place, and what it lands. -/
def Obligations.XpBufferWords : Prop := BufferWordsPlaced ∧ BufferWordsRun

/-- DEFER, DEFCNT and DEFTAKE of the pigeonhole, and VIEW: DEFER appends the selected lanes, lowest first, while there is room, and sets OVF when there is not; DEFCNT reads a
path's count and OVF, which path 15 clears; DEFTAKE takes the oldest entries of a path; VIEW writes a view word that keeps its conditions and traps on one that does not. That the free entries are counted at issue is the model's choice: entry 155. -/
def Obligations.XpPigeonAndViews : Prop :=
  (∀ (h : Hdr) (f : F3) (s : State),
    let c := s.core
    let z := (tyOf s f.ty).bytes
    let here (p : Nat) := c.pigeon.filter (fun e => decide (e.path = p ∧ e.at_ ≤ s.cycle))
    let path := f.a.toNat % 16
    (∀ a b, xpReady h s → vSrcOf c f.a = some a → vSrcOf c f.b = some b →
      let new := ((List.range (256 / z)).filter (laneOn (c.xmGet (f.c.toNat % 8)) z)).map (fun i =>
        ({ path := f.d.toNat % 16, index := (iterations c * (256 / z) + i) % 2 ^ 32, val0 := elemAt z a i, val1 := elemAt z b i,
           at_ := s.cycle + 2 } : PigeonEntry))
      let t := onCore s s.focus.die s.focus.core (fun x =>
        { x with pigeon := x.pigeon ++ new.take (512 - c.pigeon.length) })
      exec (.defer h f) s = .next (if 512 - c.pigeon.length < new.length then coreLand t 2 [.deferOvf] else t)) ∧
    (xpHolds h s = true → canWrite c 0 f.d = true →
      ∃ ws, sResult c f.d (BitVec.ofNat 64 (here path).length ||| (if c.pigeonOvf then BitVec.ofNat 64 (2 ^ 63) else 0)) = some ws ∧
        exec (.defcnt h f) s = .next (coreLand (if path = 15
          then onCore s s.focus.die s.focus.core (fun x => { x with pigeonOvf := false }) else s) 1 ws)) ∧
    (∀ w o1 o2, xpHolds h s = true →
      let taken := (here path).take (if f.c.toNat % 128 = 0 then min 64 (256 / z) else f.c.toNat % 128)
      let d := f.d.toNat % 512
      resultWrites c 1 f.d (vecBytes (ofLanes 4 ((taken.map (fun e => e.index)) ++ List.replicate (64 - taken.length) 0xFFFFFFFF))) 0 = some w →
      slotOf c 1 (d + 1) = some o1 → slotOf c 1 (d + 2) = some o2 →
      ∃ rest, (∀ e, e.path ≠ path ∨ s.cycle < e.at_ → rest.count e = c.pigeon.count e) ∧ rest.filter (fun e => decide (e.path = path ∧ e.at_ ≤ s.cycle)) = (here path).drop taken.length ∧
        exec (.deftake h f) s = .next (coreLand (onCore s s.focus.die s.focus.core (fun x => { x with pigeon := rest })) 3
          (w ++ [.space o1 (vecBytes (ofLanes z (taken.map (fun e => e.val0)))), .space o2 (vecBytes (ofLanes z (taken.map (fun e => e.val1))))])))) ∧
  (∀ (h : Hdr) (f : FS) (s : State) (v : Word), xpHolds h s = true → sSrcOf s.core f.a = some v →
    exec (.view h f) s = .next (if viewOk f.d.toNat v then coreLand s 1 [.view f.d.toNat v] else xpTrap s (trapOf .viewRange)))

/-! ## The execute processor: loops and offsets (R188 to R192) -/

/-- LOOP begins the loop of its entry with the group after it, spatial levels at the shard's digits, and traps RESERVED_FIELD inside a loop or without an entry, and the trap of
its entry's read where that has one; LBRK pops a bit
that ends the loop after its pass; OSET and OADD write an offset register in the next cycle. -/
def Sys2Proof.Statements.XpLoops : Prop :=
  (∀ (h : Hdr) (f : FL) (s : State) (t : Running), s.core.task = some t →
    let trap := loopTrap s t (f.imm.toNat % 65536)
    (s.core.xp.loop.isSome = true ∨ (trap = none ∧ loopEntry s t (f.imm.toNat % 65536) = none) →
      exec (.loop h f) s = .next (xpTrap s (trapOf .reservedField))) ∧
    (∀ i, s.core.xp.loop = none → trap = some i → exec (.loop h f) s = .next (xpTrap s i)) ∧
    (∀ ls body, s.core.xp.loop = none → trap = none → loopEntry s t (f.imm.toNat % 65536) = some (ls, body) →
      let run : LoopRun :=
        { body := s.core.xp.pc, levels := ls, size := body, group := 0, index := firstIndex t.shard ls, prev := List.replicate ls.length 0, pass := 0,
          stop := false, fresh := true }
      exec (.loop h f) s = .next (onCore s s.focus.die s.focus.core (fun c => { c with xp := { c.xp with loop := some run } })))) ∧
  (∀ (h : Hdr) (f : FS) (s : State),
    (s.core.bqHead s.cycle = none → exec (.lbrk h f) s = .next (xpStall s (.stalled .bqEmpty))) ∧
    (∀ b, s.core.bqHead s.cycle = some b →
      exec (.lbrk h f) s = .next (onCore s s.focus.die s.focus.core (fun c =>
        { c.bqPop s.cycle with xp := { c.xp with loop := c.xp.loop.map (fun l => { l with stop := l.stop || b }) } })))) ∧
  (∀ (h : Hdr) (f : FI) (s : State),
    exec (.oset h f) s = .next (if xpHolds h s then coreLand s 1 [.offset f.d.toNat (BitVec.ofInt 32 f.imm.toInt)] else s) ∧
    exec (.oadd h f) s = .next (if xpHolds h s
      then coreLand s 1 [.offset f.d.toNat (BitVec.ofInt 32 ((s.core.oGet f.d.toNat).toInt + f.imm.toInt))] else s))

/-- The indices of a loop count like an odometer over its temporal levels, the lowest fastest: each pass but the last has a next one whose number is one higher, spatial indices
stay, and the last pass is the one at which every temporal index is its TRIP less one. -/
def Sys2Proof.Statements.LoopCounts : Prop :=
  ∀ (ls : List LoopLevel) (xs : List Nat), xs.length = ls.length →
    (∀ p ∈ ls.zip xs, p.2 < p.1.trip) →
    let number (ys : List Nat) := (ls.zip ys).foldr (fun p acc => if p.1.kind = 0 then p.2 + p.1.trip * acc else acc) 0
    (∀ ys, nextIndex ls xs = some ys → number ys = number xs + 1 ∧ ys.length = ls.length ∧ (∀ p ∈ ls.zip ys, p.2 < p.1.trip) ∧
      ∀ p ∈ ls.zip (xs.zip ys), p.1.kind ≠ 0 → p.2.1 = p.2.2) ∧
    (nextIndex ls xs = none ↔ ∀ p ∈ ls.zip xs, p.1.kind = 0 → p.2 + 1 = p.1.trip)

/-- The loops of the execute processor, and how their indices count. -/
def Obligations.XpLoopsCount : Prop := XpLoops ∧ LoopCounts

/-! ## The execute processor: units and the trellis (R197, R198, R201 to R221) -/

/-- XPOSE, XPOSE.P, SPILL, FILL, WLOAD, WLOADP, MSTREAM, MSTREAMP and MVSTREAM: with its scalars readable a word that a check fails traps with the check's cause; one that passes waits
for room in its queue, else its command is queued with its tokens. TEOB and TDRAIN queue theirs without scalars. -/
def Obligations.XpUnitWords : Prop :=
  ∀ (h : Hdr) (f : FE) (s : State),
    (∀ e ∈ xlWords s f, ∀ ps, xpReady h s → scalarsFrom s f e.2.2.2.1 ps →
      (∀ k va, e.2.2.2.2 s.core ps = some (k, va) → exec (e.1 h f) s = .next (xpTrap s (trapAt k va))) ∧
      (e.2.2.2.2 s.core ps = none → s.core.queueFull e.2.1 = true → exec (e.1 h f) s = .next (xpStall s (.stalled .queueFull))) ∧
      (e.2.2.2.2 s.core ps = none → s.core.queueFull e.2.1 = false → Queued s e.2.1 e.2.2.1 ps f (exec (e.1 h f) s))) ∧
    (∀ e ∈ [(Instr.teob, CmdKind.teob), (Instr.tdrain, CmdKind.tdrain)], xpHolds h s = true →
      (s.core.queueFull (.claim f.ch.toNat) = true → exec (e.1 h f) s = .next (xpStall s (.stalled .queueFull))) ∧
      (s.core.queueFull (.claim f.ch.toNat) = false → Queued s (.claim f.ch.toNat) e.2 [] f (exec (e.1 h f) s)))

/-- CLAIM, RELEASE, TPRI, TACS and TCHK: the checks of R203 in their order, the claim held with its shape, origin and priority and its status kept; RELEASE of a claim with an open
batch traps CLAIM_BUSY, of a free claim does nothing, else it drains; TPRI needs a claim that is held; the status reads land in the next cycle and clear what CLR says. That the TPRI of a claim that is not held traps CLAIM_SHAPE (R207) is the model's choice: entry 76. -/
def Obligations.TrellisWords : Prop :=
  (∀ (h : Hdr) (f : FE) (s : State) (w : Word),
    let n := f.ch.toNat
    let k := s.core.claim n
    let a := w.toNat % 2 ^ 4
    let b := w.toNat / 2 ^ 4 % 2 ^ 4
    let origin := w.toNat / 2 ^ 8 % 2 ^ 4
    let onN (g : Claim → Claim) : Out := .next (onCore s s.focus.die s.focus.core (fun x => { x with claims := tput x.claims n (g (x.claim n)) }))
    (xpReady h s → sSrcOf s.core f.x = some w →
      (2 ^ 14 ≤ w.toNat ∨ 12 ≤ origin → exec (.claim h f) s = .next (xpTrap s (trapOf .reservedField))) ∧
      (w.toNat < 2 ^ 14 → origin < 12 →
        (¬ (a * b ≤ 12 ∧ a ∈ [1, 2, 3, 4, 6, 12] ∧ b ∈ [1, 2, 3, 4, 6, 12]) → exec (.claim h f) s = .next (xpTrap s (trapOf .claimShape))) ∧
        (a * b ≤ 12 → a ∈ [1, 2, 3, 4, 6, 12] → b ∈ [1, 2, 3, 4, 6, 12] →
          (k.held = true → exec (.claim h f) s = .next (xpTrap s (trapOf .claimBusy))) ∧
          (k.held = false → (∀ i, i < 4 → ∀ p ∈ (s.core.claim i).plots, ∀ j, j < a * b → p ≠ (origin + j) % 12) →
          exec (.claim h f) s = onN (fun k =>
            { Claim.reset with
              status := k.status, fresh := k.fresh, freshAt := k.freshAt, held := true, a := a, b := b, origin := origin, pri := w.toNat / 2 ^ 12 })))) ∧
      (4 ≤ w.toNat → exec (.tpri h f) s = .next (xpTrap s (trapOf .reservedField))) ∧
      (w.toNat < 4 → k.held = false → exec (.tpri h f) s = .next (xpTrap s (trapOf .claimShape))) ∧
      (w.toNat < 4 → k.held = true → exec (.tpri h f) s = onN (fun k => { k with pri := w.toNat }))) ∧
    (xpHolds h s = true →
      (k.held = false → exec (.release h f) s = .next s) ∧
      (k.held = true → k.batch.isSome = true → exec (.release h f) s = .next (xpTrap s (trapOf .claimBusy))) ∧
      (k.held = true → k.batch = none →
        ∃ t, exec (.release h f) s = .next t ∧ (t.core.claim n).draining = true ∧ (∃ u, t.core.xp.wait = .landing u) ∧ t.mem = s.mem))) ∧
  (∀ (h : Hdr) (f : FS) (s : State) (ws : List RegWrite), xpHolds h s = true →
    let n := f.num.toNat % 4
    let k := (s.core.claim n).settle s.cycle
    let bit (b : Bool) (i : Nat) : Nat := if b then 2 ^ i else 0
    let acs := BitVec.ofNat 64 (bit k.status.ovf 0 + bit k.status.inv 1 + bit k.status.sat 2)
    let chk := BitVec.ofNat 64 (bit k.status.chk 0 + k.status.mask.toNat * 16 + k.status.compared * 2 ^ 32)
    let after (st : ClaimStatus) : Out := .next (coreLand (onCore s s.focus.die s.focus.core (fun x =>
      { x with claims := tput x.claims n { k with status := st } })) 1 ws)
    (sResult s.core f.d acs = some ws →
      exec (.tacs h f) s = after k.status ∧ exec (.tacsClr h f) s = after { k.status with ovf := false, inv := false, sat := false }) ∧
    (sResult s.core f.d chk = some ws →
      exec (.tchk h f) s = after k.status ∧ exec (.tchkClr h f) s = after { k.status with chk := false, mask := 0, compared := 0 }))

end Statements

namespace Sys2Proof.Statements

open Sys2Proof.Machine

noncomputable section

/-! ## The words of the engine complex (R150 to R161) -/

/-- The words that queue a command of an engine: queue, kind, number of parameter registers, checks at issue. -/
def ecWords (s : State) (f : FE) : List ((Hdr → FE → Instr) × QueueId × CmdKind × Nat × (Core → List Word → Option (Cause × Nat))) :=
  let ch : QueueId := .chan f.ch.toNat
  [(.ecCopy, ch, .copy, 5, copyCheck s .copy), (.ecCopyV, ch, .copyV, 6, copyCheck s .copyV), (.ecFill, ch, .fill, 6, fillCheck s),
   (.gather, ch, .gather, 6, indexedCheck s .gather), (.scatter, ch, .scatter, 6, indexedCheck s .scatter),
   (.cstream, ch, .cstream, 5, cstreamCheck s), (.route, .routing, .route, 6, routeCheck), (.rcsnap, .routing, .rcsnap, 1, blockCheck),
   (.rcread, .routing, .rcread, 1, blockCheck), (.rput, ch, .rput, 4, putGetCheck s false), (.rget, ch, .rget, 4, putGetCheck s true),
   (.ramo, ch, .ramo, 5, ramoCheck s), (.mcast, ch, .mcast, 5, mcastCheck s), (.courier, .courier, .courier, 3, courierCheck s),
   (.spawn, .spawn, .spawn, 2, spawnCheck s)]

/-- The courier of the core in focus changed. -/
def courierBecomes (s : State) (g : Courier → Courier) : State :=
  onCore s s.focus.die s.focus.core (fun c => { c with courier := g c.courier })

/-- The courier at the next word. -/
def courierSteps (r : Courier) : Courier := { r with pc := (r.pc + 4) % 2 ^ 56, waiting := false }

/-- The state in which a courier has ended, its last flag to be written by its command. -/
def courierEnding (s : State) (flag : Nat) : State :=
  let d := s.focus.die
  let c := s.focus.core
  onCmd (courierBecomes s (fun r => { r with ended := true, waiting := false })) d c s.core.courier.cmd
    (fun y => { y with aux := [flag], unit := 1 })

/-- A joint word that ends: both processors go on from a cycle. -/
def bothReady (c : Core) (ready : Nat) : Core :=
  { c with ap := { c.ap with wait := .none, retry := [], ready := ready }, xp := { c.xp with wait := .none, retry := [], ready := ready } }

/-! ## What results do when they land (R33, R372, R373) -/

/-- The state after the one result of a core that is due has landed. -/
def landed (s : State) (d c : Nat) : Out := exec (.resultLand (.core d c)) s

/-- A core has one result to land, and it is due. -/
def loneResult (s : State) (d c : Nat) (w : RegWrite) : Prop :=
  ∃ at_ pc due, due ≤ s.cycle ∧ (coreOf s d c).landings = [{ at_ := at_, pc := pc, due := due, writes := [w] }]

end

end Sys2Proof.Statements

section Statements

open Sys2Proof Sys2Proof.Machine Sys2Proof.Statements

/-! ## The engine complex (R64, R150 to R161) -/

/-- COPY, COPY.V, FILL, GATHER, SCATTER, CSTREAM, ROUTE, RCSNAP, RCREAD, RPUT, RGET, RAMO, MCAST, COURIER and SPAWN: a word whose predicate is false does nothing; one that a
check fails traps with the check's cause; one that passes waits for room in its queue, else its command is queued with its parameters a[X], a[X+1], … and its tokens. -/
def Obligations.EngineWords : Prop :=
  ∀ (h : Hdr) (f : FE) (s : State), ∀ e ∈ ecWords s f,
    let ps := (List.range e.2.2.2.1).map (fun i => s.core.aGet (f.x.toNat + i))
    (apHolds h s = false → exec (e.1 h f) s = .next s) ∧
    (apHolds h s = true →
      (∀ k va, e.2.2.2.2 s.core ps = some (k, va) → exec (e.1 h f) s = .next (apTrap s { trapAt k va with error := issueError s k va })) ∧
      (e.2.2.2.2 s.core ps = none → s.core.queueFull e.2.1 = true → exec (e.1 h f) s = .next (apStall s (.stalled .queueFull))) ∧
      (e.2.2.2.2 s.core ps = none → s.core.queueFull e.2.1 = false → Queued s e.2.1 e.2.2.1 ps f (exec (e.1 h f) s)))

/-- The courier's words: CW.WAIT waits for a write pointer, CW.FLAG writes the flag with STATE 1, CW.LOOP counts and goes back, CW.ADD moves the offset, CW.COPY issues a COPY from its
descriptor without tokens, CW.END writes the flag with STATE 2 once its copies are complete. A word of OPC 6 to 15 stops it with ILLEGAL_OP in the flag, and with RESERVED_FIELD one of
CHAN 8 to 15, one with a fixed field that is not zero, and a CW.LOOP whose count or distance is zero. A flag written raises the write pointer of its channel (the model's reading: entry
163). -/
def Obligations.CourierWords : Prop :=
  ∀ (s t : State) (m : Cmd),
    let d := s.focus.die
    let c := s.focus.core
    let r := s.core.courier
    let cmd := s.core.cmds.find? (fun x => x.id == r.cmd) = some m
    (∀ (ch : BitVec 4) (n : BitVec 24),
      (r.wb.getD ch.toNat 0 + 256 * n.toNat ≤ s.core.wpBefore ch.toNat s.cycle → exec (.cwWait ch n) s = .next (courierBecomes s courierSteps)) ∧
      (s.core.wpBefore ch.toNat s.cycle < r.wb.getD ch.toNat 0 + 256 * n.toNat →
        exec (.cwWait ch n) s = .next (courierBecomes s (fun r => { r with waiting := true }))) ∧
      (cmd → s.core.queueFull (.chan ch.toNat) = true → exec (.cwCopy ch n) s = .next (courierBecomes s (fun r => { r with waiting := true }))) ∧
      (∀ bs, cmd → s.core.queueFull (.chan ch.toNat) = false → engineRead s d c m s.core.vt (r.table + 40 * n.toNat) 40 false true = (.ok bs, t) →
        t.focus = s.focus → (∀ x ∈ t.core.cmds, x.id < t.seq) →
        let ps := (bytesWords 5 bs).mapIdx (fun i w => if i < 2 then addOfs w t.core.courier.ofs else w)
        copyCheck t .copy t.core ps = none →
        ∃ u k, exec (.cwCopy ch n) s = .next u ∧ u.mem = t.mem ∧ u.core.cmds = t.core.cmds ++ [k] ∧ k.queue = .chan ch.toNat ∧ k.kind = .copy ∧
          k.params = ps ∧ k.kp = 0 ∧ k.waits = [] ∧ k.bound = none ∧ k.fromCourier = true ∧ k.aux = [t.core.courier.pc] ∧
          u.core.courier = { courierSteps t.core.courier with copies := t.core.courier.copies ++ [t.seq] })) ∧
    (∀ v : BitVec 24, cmd → ∀ due, writeFlag s d c m (BitVec.ofNat 64 (2 ^ 56 + v.toNat)) = (.ok due, t) → exec (.cwFlag v) s = .next (courierBecomes t courierSteps)) ∧
    (∀ cnt back : BitVec 12, cnt ≠ 0 → back ≠ 0 →
      let lc := (if r.lc = 0 then cnt.toNat else r.lc) - 1
      exec (.cwLoop cnt back) s = .next (courierBecomes s (fun r => { r with
        lc := lc, waiting := false, pc := if lc = 0 then (r.pc + 4) % 2 ^ 56 else (r.pc + 2 ^ 56 - 4 * back.toNat) % 2 ^ 56 }))) ∧
    (∀ x : BitVec 24, exec (.cwAdd x) s = .next (courierBecomes s (fun r =>
      { courierSteps r with ofs := (BitVec.ofInt 64 ((r.ofs : Int) + 64 * x.toInt)).toNat }))) ∧
    (s.core.cmds.any (fun x => r.copies.contains x.id) = true → exec .cwEnd s = .next (courierBecomes s (fun r => { r with waiting := true }))) ∧
    (cmd → ∀ k due,
      let stop (k : Cause) := 0x80 * 2 ^ 56 + k.code * 2 ^ 48 + (r.pc + 2 ^ 56 - r.prog) % 2 ^ 24 * 2 ^ 24
      let ends := fun flag => (coreOf (courierEnding s flag) d c).cmdOf r.cmd = some k ∧ k.unit = 1 ∧ k.aux = [flag] ∧
        writeFlag (courierEnding s flag) d c k (BitVec.ofNat 64 flag) = (.ok due, t)
      let done := doneCmd (onCmd t d c k.id (fun y => { y with unit := 2 })) d c k.id due
      (s.core.cmds.any (fun x => r.copies.contains x.id) = false → ends (2 * 2 ^ 56) → exec .cwEnd s = .next done) ∧
      (∀ w, ends (stop .illegalOp) → exec (.courierIllegalWord w) s = .next done) ∧
      (ends (stop .reservedField) → exec (.encodingNotInstruction (.courier d c) .reservedField) s = .next done ∧
        ∀ cnt back : BitVec 12, cnt = 0 ∨ back = 0 → exec (.cwLoop cnt back) s = .next done)) ∧
    (∀ w : BitVec 32,
      let opc := w.toNat / 2 ^ 28
      let chan := w.toNat / 2 ^ 24 % 2 ^ 4
      (6 ≤ opc → checkCourier w = .error .illegalOp) ∧
      (opc < 2 → 8 ≤ chan → checkCourier w = .error .reservedField) ∧
      (2 ≤ opc → opc < 5 → chan ≠ 0 → checkCourier w = .error .reservedField) ∧
      (opc = 5 → w.toNat % 2 ^ 28 ≠ 0 → checkCourier w = .error .reservedField))

/-! ## Joint words (R222 to R225, R370) -/

/-- SLIP and MARK end in the next cycle; SWAP, HALT and COMMIT: a queue that holds an entry or an open batch traps; SWAP and HALT wait for every command; a complete SWAP toggles
the halves, captures the phase and ends four cycles on; a COMMIT reaches the window 24 cycles on, and a second one ends at once; a HALT of a task that is not COMMITTED commits it. -/
def Obligations.JointWords : Prop :=
  ∀ (h : Hdr) (f : FS) (s : State),
    let d := s.focus.die
    let c := s.focus.core
    let held := onCore s d c (fun x => { x with ap := { x.ap with wait := .commit, retry := [] }, xp := { x.xp with wait := .commit, retry := [s.focus.pc] } })
    let both (w : ProcWait) := onCore s d c (fun x => { x with ap := { x.ap with wait := w, retry := [] }, xp := { x.xp with wait := w, retry := [] } })
    exec (.slip h f) s = .next (onCore s d c (fun x => { bothReady x (s.cycle + 1) with slip := f.num.toNat % 2 ^ 16 })) ∧
    exec (.mark h f) s = .next (onCore s d c (fun x => { (bothReady x (s.cycle + 1)).publish with mark := BitVec.ofNat 16 f.num.toNat })) ∧
    (∀ k, jointCheck s true = some k → exec (.swap h f) s = .next (jointTrap s k)) ∧
    (∀ k, jointCheck s false = some k → exec (.halt h f) s = .next (jointTrap s k)) ∧
    (jointCheck s true = none → s.core.cmds ≠ [] → exec (.swap h f) s = .next held) ∧
    (jointCheck s false = none → s.core.cmds ≠ [] → exec (.halt h f) s = .next held) ∧
    (jointCheck s true = none → s.core.cmds = [] → s.core.traps = [] →
      ∃ t, exec (.swap h f) s = .next t ∧ t.core.half = s.core.half ^^^ 7#3 ∧ t.core.ap.ready = s.cycle + 4 ∧ t.core.xp.ready = s.cycle + 4 ∧
        t.core.ap.wait = .none ∧ t.core.xp.wait = .none ∧ t.core.capture.isSome = true ∧ t.core.phaseErrs = 0 ∧ t.core.phaseChk = 0 ∧ t.mem = s.mem) ∧
    (∀ t, s.core.task = some t →
      (t.committed = true → exec (.commit h f) s = .next (onCore s d c (fun x => bothReady x.publish (s.cycle + 1)))) ∧
      (t.committed = false → exec (.commit h f) s = .next (at' (both .commit) (s.cycle + 24) (.windowRecordsCommitted t.wdie t.serial t.shard))) ∧
      (t.committed = false → jointCheck s false = none → s.core.cmds = [] → s.core.traps = [] → (∀ n, n < 4 → (s.core.claim n).held = false) →
        exec (.halt h f) s = .next (at' (onEntry (both .commit) t.wdie t.serial (fun e => { e with haltWait := e.haltWait ++ [t.shard] })) s.cycle
          (.windowRecordsCommitted t.wdie t.serial t.shard))) ∧
      (t.committed = true → jointCheck s false = none → s.core.cmds = [] → s.core.traps = [] → (∀ n, n < 4 → (s.core.claim n).held = false) →
        exec (.halt h f) s = .next (haltShard s d c)))

/-! ## Results and accesses that land (R33, R112, R145, R312, R372, R373) -/

/-- A result that lands alone: the register, predicate, mask, offset, view, latch, the bytes of a latch that a partial result names, the overflow of DEFER, run of the register space or of a buffer that it names has its value and no other has changed; a0, vt, p0 and
m0 stay as they are wired; of two results for one register that land in one cycle that of the word issued later is kept, in one cycle that of the higher address; no byte of memory changes. That a partial result with WS writes only its own bytes of the latch is the model's choice: entry 15. -/
def Sys2Proof.Statements.ResultsLand : Prop :=
  ∀ (s : State) (d c : Nat),
    let x := coreOf s d c
    let bytes (m : Memory) (off : Nat) (bs : List Byte) (a : Nat) : Byte := if off ≤ a ∧ a < off + bs.length then bs.getD (a - off) 0 else byteAt m a
    let becomes (g : Core) : Prop := landed s d c = .next (putCore s d c { g with landings := [] })
    (∀ r v, loneResult s d c (.ap r v) → ∃ g : Core, becomes g ∧ { g with a := x.a, w := x.w } = x ∧
      ∀ k, g.aGet k = if k = r ∧ r ≠ 0 ∧ r ≠ 64 then v else x.aGet k) ∧
    (∀ r b, r < 8 → loneResult s d c (.apPred r b) → ∃ g : Core, becomes g ∧ { g with apPreds := x.apPreds } = x ∧
      ∀ k, k < 8 → predGet g.apPreds k = if k = r ∧ r ≠ 0 then b else predGet x.apPreds k) ∧
    (∀ r b, r < 8 → loneResult s d c (.xpPred r b) → ∃ g : Core, becomes g ∧ { g with xpPreds := x.xpPreds } = x ∧
      ∀ k, k < 8 → predGet g.xpPreds k = if k = r ∧ r ≠ 0 then b else predGet x.xpPreds k) ∧
    (∀ r v, loneResult s d c (.apMaskOr r v) → ∃ g : Core, becomes g ∧ { g with apMasks := x.apMasks } = x ∧
      ∀ k, g.amGet k = if k = r ∧ r ≠ 0 then x.amGet k ||| v else x.amGet k) ∧
    (∀ r, loneResult s d c (.apMaskClear r) → ∃ g : Core, becomes g ∧ { g with apMasks := x.apMasks } = x ∧
      ∀ k, g.amGet k = if k = r ∧ r ≠ 0 then 0 else x.amGet k) ∧
    (∀ r v, loneResult s d c (.xpMask r v (BitVec.allOnes 256)) → ∃ g : Core, becomes g ∧ { g with xpMasks := x.xpMasks } = x ∧
      ∀ k, g.xmGet k = if k = r ∧ r ≠ 0 then v else x.xmGet k) ∧
    (∀ r v, loneResult s d c (.offset r v) → ∃ g : Core, becomes g ∧ { g with offsets := x.offsets } = x ∧ ∀ k, g.oGet k = if k = r then v else x.oGet k) ∧
    (∀ r v, loneResult s d c (.offsetAdd r v) → ∃ g : Core, becomes g ∧ { g with offsets := x.offsets } = x ∧
      ∀ k, g.oGet k = if k = r then x.oGet k + v else x.oGet k) ∧
    (∀ r v, loneResult s d c (.view r v) → ∃ g : Core, becomes g ∧ { g with views := x.views } = x ∧ ∀ k, g.view k = if k = r then v else x.view k) ∧
    (∀ r v, loneResult s d c (.latch r v) → ∃ g : Core, becomes g ∧ { g with latches := x.latches } = x ∧ ∀ k, g.latch k = if k = r then v else x.latch k) ∧
    (∀ r n bs, loneResult s d c (.latchPart r n bs) → ∃ g : Core, becomes g ∧ { g with latches := x.latches } = x ∧ (∀ k, k ≠ r → g.latch k = x.latch k) ∧
      ∀ i, i < 256 → (g.latch r).extractLsb' (8 * i) 8 = if n ≤ i ∧ i < n + bs.length then bs.getD (i - n) 0 else (x.latch r).extractLsb' (8 * i) 8) ∧
    (loneResult s d c .deferOvf → becomes { x with pigeonOvf := true }) ∧
    (∀ off bs, loneResult s d c (.space off bs) → ∃ g : Core, becomes g ∧ { g with space := x.space } = x ∧ ∀ a, byteAt g.space a = bytes x.space off bs a) ∧
    (∀ off bs, loneResult s d c (.buf 1 off bs) → ∃ g : Core, becomes g ∧ { g with wb := x.wb } = x ∧ ∀ a, byteAt g.wb a = bytes x.wb off bs a) ∧
    (∀ off bs, loneResult s d c (.buf 2 off bs) → ∃ g : Core, becomes g ∧ { g with ab := x.ab } = x ∧ ∀ a, byteAt g.ab a = bytes x.ab off bs a) ∧
    (∀ off bs, loneResult s d c (.buf 3 off bs) → ∃ g : Core, becomes g ∧ { g with cb := x.cb } = x ∧ ∀ a, byteAt g.cb a = bytes x.cb off bs a) ∧
    (∀ ch n, loneResult s d c (.wp ch n) → ∃ g : Core, becomes g ∧ { g with wp := x.wp, wpLast := x.wpLast } = x ∧
      ∀ k, tget g.wp k 0 = if k = ch then (tget x.wp ch 0 + n) % 2 ^ 64 else tget x.wp k 0) ∧
    (∀ r v w e e' i j p q, e ≤ s.cycle → e' ≤ s.cycle →
      x.landings = [{ at_ := i, pc := p, due := e, writes := [.ap r v] }, { at_ := j, pc := q, due := e', writes := [.ap r w] }] →
      r ≠ 0 → r ≠ 64 → ∃ g : Core, becomes g ∧ g.aGet r = if j < i ∨ (j = i ∧ q < p) then v else w) ∧
    (∀ off bs n e i p, e ≤ s.cycle → x.landings = [{ at_ := i, pc := p, due := e, writes := [.space off bs, .latchOf n off bs.length] }] →
      ∃ g : Core, becomes g ∧ g.latch n = vecOf bs ∧ ∀ a, byteAt g.space a = bytes x.space off bs a) ∧
    (∀ set r v e i p, e ≤ s.cycle → (ctlOf s d).landings = [{ at_ := i, pc := p, due := e, writes := [.cc set r v] }] →
      ∃ g : RegSet, exec (.resultLand (.ctl d)) s = .next (onCtl s d (fun k => { k with landings := [] }.onCtx set (fun y => { y with regs := g }))) ∧
        ∀ k, g.get k = if k = r ∧ r ≠ 0 then v else (((ctlOf s d).ctxOf set).regs).get k) ∧
    (∀ set r b e i p, e ≤ s.cycle → r < 8 → (ctlOf s d).landings = [{ at_ := i, pc := p, due := e, writes := [.ccPred set r b] }] →
      ∃ q, exec (.resultLand (.ctl d)) s = .next (onCtl s d (fun k => { k with landings := [] }.onCtx set (fun y => { y with regs := { y.regs with p := q } }))) ∧
        ∀ k, k < 8 → predGet q k = if k = r ∧ r ≠ 0 then b else predGet ((ctlOf s d).ctxOf set).regs.p k)

/-- A load that lands alone, and can be read in this cycle, writes its register the value of its bytes as they stand then, zero-extended or by the sign of their width; bytes
that are not there yet, in a cell that is still being made, land when the cell is ready. A re-read of a condition on memory that lands alone notes for its processor whether it holds. With no write under way and no error
in what is read the bytes are those of memory. That a load samples memory as it lands, and what it finds of a cell being made, are the model's choices: entries 6 and 125. -/
def Sys2Proof.Statements.LoadsLand : Prop :=
  ∀ (s : State) (d c : Nat) (signed : Bool) (ps : List (Nat × Nat)) (agent : AgentId) (seq pc : Nat),
    let value (bs : List Byte) : Word := BitVec.ofInt 64 (if signed then (BitVec.ofNat (8 * bs.length) (leNat bs)).toInt else (leNat bs : Int))
    let u := onCore s d c (fun x => { x with landings := [] })
    let v := onCtl s d (fun x => { x with landings := [] })
    let reads (m : State) (core n : Nat) (bs : List Byte) (t : State) : Prop :=
      readRuns m agent d core n ps = (bs, false, t) ∧ rebuilds m ps = false ∧ cellHold m ps ≤ m.cycle ∧ barrierHold m d ps ≤ m.cycle
    (∀ r, loneResult s d c (.load (.ap r) signed ps agent seq pc) →
      (∀ bs t, reads u c seq bs t → ∃ g : Core, landed s d c = .next (putCore t d c g) ∧
        { g with a := (coreOf t d c).a, w := (coreOf t d c).w } = coreOf t d c ∧
        ∀ k, g.aGet k = if k = r ∧ r ≠ 0 ∧ r ≠ 64 then value bs else (coreOf t d c).aGet k) ∧
      (s.cycle < cellHold u ps → ∃ t at_ q, landed s d c = .next t ∧ t.mem = s.mem ∧
        (coreOf t d c).landings = [{ at_ := at_, pc := q, due := cellHold u ps, writes := [.load (.ap r) signed ps agent seq pc] }])) ∧
    (∀ set r e i q bs t, e ≤ s.cycle → (ctlOf s d).landings = [{ at_ := i, pc := q, due := e, writes := [.load (.cc set r) signed ps agent seq pc] }] →
      reads v 32 v.seq bs t →
      ∃ g : RegSet, exec (.resultLand (.ctl d)) s = .next (onCtl t d (fun k => k.onCtx set (fun y => { y with regs := g }))) ∧
        ∀ k, g.get k = if k = r ∧ r ≠ 0 then value bs else (((ctlOf t d).ctxOf set).regs).get k) ∧
    (∀ p ∈ [Proc.ap d c, .xp d c], ∀ i zero start all ws pd dl seen bs t, loneResult s d c (.cond p i zero ps agent seq start) →
      (procOf s p).wait = .conds all ws pd dl seen start → reads u c seq bs t → (procOf t p).wait = .conds all ws pd dl seen start →
      landed s d c = .next (onProc t p (fun q =>
        { q with wait := .conds all ws pd dl (seen.filter (fun x => x.1 != i) ++ [(i, decide (leNat bs = 0) == zero)]) start }))) ∧
    (∀ core n, s.writes = [] → s.poison = [] → s.injPool = [] → s.injHub = [] → s.strikes = [] →
      readRuns s agent d core n ps = (ps.flatMap (fun p => bytesAt s.mem p.1 p.2), false, s) ∧ rebuilds s ps = false)

/-- A result set to land changes nothing but the landings of its agent and what is to happen: no register and no byte of memory. -/
def Sys2Proof.Statements.ResultsAreScheduled : Prop :=
  ∀ (s : State) (due : Nat) (ws : List RegWrite), s.cycle < due →
    (∀ d c, ∃ ts, land s (.core d c) due ws =
        { onCore s d c (fun x => { x with landings := x.landings ++ [{ at_ := s.cycle, pc := s.focus.pc, due := due, writes := ws }] }) with timers := ts } ∧
      (due, Instr.resultLand (.core d c)) ∈ ts ∧ (∀ e ∈ s.timers, e ∈ ts)) ∧
    (∀ d, ∃ ts, land s (.ctl d) due ws =
        { onCtl s d (fun c => { c with landings := c.landings ++ [{ at_ := s.cycle, pc := s.focus.pc, due := due, writes := ws }] }) with timers := ts } ∧
      (due, Instr.resultLand (.ctl d)) ∈ ts ∧ (∀ e ∈ s.timers, e ∈ ts))

/-- A result is set to land, and lands, without another change. -/
def Obligations.ResultsLandAsScheduled : Prop := ResultsAreScheduled ∧ ResultsLand ∧ LoadsLand

/-- The value that an atomic operation of w bits stores, of the old value, the operand and the comparand (R112, R142). -/
def Sys2Proof.Statements.amoValue (op : AmoOp) (w old b k : Nat) : Nat :=
  match op with
  | .add => (old + b) % 2 ^ w
  | .and => old &&& b
  | .or => old ||| b
  | .xor => old ^^^ b
  | .min => if sgn w old ≤ sgn w b then old else b
  | .max => if sgn w old ≤ sgn w b then b else old
  | .minu => min old b
  | .maxu => max old b
  | .swap => b
  | .cas => if old = k then b else old
  | .fadd =>
    let sum (x y : Nat) : Nat := roundF .f32 .rne 0 (addV (decodeF .f32 x) (decodeF .f32 y))
    if w = 32 then sum old b else sum (old % 2 ^ 32) (b % 2 ^ 32) + 2 ^ 32 * sum (old / 2 ^ 32) (b / 2 ^ 32)

/-- PHASE, EXPECT, ARRIVED, PENDING and EBYTES of a barrier object after an update, and after the phase rule (R145). -/
def Sys2Proof.Statements.barrierNext (op : BarOp) (v phase expect arrived pending ebytes : Nat) : Nat × Nat × Nat × Nat × Nat :=
  let rule (phase expect arrived pending ebytes : Nat) : Nat × Nat × Nat × Nat × Nat :=
    if expect ≤ arrived ∧ pending = 0 then (1 - phase, expect, arrived - expect, ebytes, ebytes) else (phase, expect, arrived, pending, ebytes)
  match op with
  | .init => rule 0 (v % 2 ^ 16) 0 (v / 2 ^ 16) (v / 2 ^ 16)
  | .exp => rule phase expect arrived ((pending + v % 2 ^ 48) % 2 ^ 48) ebytes
  | .arr => rule phase expect (min 65535 (arrived + v)) pending ebytes
  | .land => rule phase expect arrived ((pending + 2 ^ 48 - v % 2 ^ 48) % 2 ^ 48) ebytes

/-- WRITE_PERFORMED_AT_HOME of a write that is due, whose link has not lost it: the runs of bytes of a store stand at their addresses and every other byte is as it was; a write of elements of a block changes the block's bytes and its scale alone, one of
a block in planes its runs alone; memory keeps its canonical form; where the write is under way no more, and before it is due, nothing changes. One that a die-to-hub link has lost is not made, and its agent traps (the
model's choice: entry 164). -/
def Sys2Proof.Statements.StoresPerform : Prop :=
  ∀ (s : State) (id : Nat) (w : Pending),
    let there := s.writes.find? (fun x => x.id == id)
    let rest := s.writes.filter (fun x => x.id != id)
    let u := { s with writes := rest }
    (there = none → exec (.writePerformedAtHome id) s = .next s) ∧
    (there = some w → s.cycle < w.due → exec (.writePerformedAtHome id) s = .next s) ∧
    (there = some w → w.due ≤ s.cycle → (∀ op pa size b k a dst pc, w.act ≠ .amo op pa size b k a dst pc) → ∀ t, writeLost u w = (true, t) →
      exec (.writePerformedAtHome id) s = .next (spoiledUpdate t w)) ∧
    (there = some w → w.due ≤ s.cycle → writeLost u w = (false, u) →
      (∀ ps, w.act = .bytes ps → ∃ t, exec (.writePerformedAtHome id) s = .next t ∧ t.writes = rest ∧ t.cores = s.cores ∧ t.dies = s.dies ∧
        t.mem = ps.foldl (fun m p => writeBytes m p.1 p.2) s.mem) ∧
      (∀ geom runs first vals, w.act = .planes geom runs first vals → ∃ t, exec (.writePerformedAtHome id) s = .next t ∧ t.writes = rest ∧ t.cores = s.cores ∧
        (∀ a, (∀ r ∈ runs, a < r.1 ∨ r.1 + r.2 ≤ a) → byteAt t.mem a = byteAt s.mem a) ∧ (s.mem.wf → t.mem.wf)) ∧
      (∀ pa bs, w.act = .bytes [(pa, bs)] → ∃ t, exec (.writePerformedAtHome id) s = .next t ∧ t.writes = rest ∧ t.cores = s.cores ∧ t.dies = s.dies ∧
        (∀ a, byteAt t.mem a = if pa ≤ a ∧ a < pa + bs.length then bs.getD (a - pa) 0 else byteAt s.mem a) ∧ (s.mem.wf → t.mem.wf)) ∧
      (∀ code bs, w.act = .blocks code bs → (∀ b ∈ bs, b.first + b.vals.length ≤ 32) → ∃ t, exec (.writePerformedAtHome id) s = .next t ∧ t.writes = rest ∧ t.cores = s.cores ∧
        (∀ a, (∀ b ∈ bs, a ≠ b.scale ∧ (a < b.pa ∨ b.pa + 32 ≤ a)) → byteAt t.mem a = byteAt s.mem a) ∧ (s.mem.wf → t.mem.wf)))

/-- WRITE_PERFORMED_AT_HOME of an atomic operation and of a barrier word that are due: an atomic stores the value of its operation, and its old value lands at its agent, at an AP four cycles later; on a barrier object of another die it
comes after what has entered that die. A barrier word gives its object its new fields, and the phase rule is applied, and no byte outside the object changes; an object that cannot be read for an error is not changed, and the
agent of the word traps; that FADD under the word forms adds as its size says, and a word's comparand is taken at its size, are R142's. Memory keeps its canonical form. That an atomic on a poisoned word leaves it poisoned is the model's choice: entry 92. -/
def Sys2Proof.Statements.UpdatesPerform : Prop :=
  ∀ (s : State) (id : Nat) (w : Pending), s.writes.find? (fun x => x.id == id) = some w → w.due ≤ s.cycle →
    let rest := s.writes.filter (fun x => x.id != id)
    let here := { s with writes := rest }
    (∀ op pa size b k u dst pc, w.act = .amo op pa size b k u dst pc →
      (∀ till t, readHold here w.agent w.id w.die [(pa, size)] = (till, t) → s.cycle < till →
        exec (.writePerformedAtHome id) s = .next (putOffWrites { t with writes := t.writes ++ [w] } [w] (till - w.due))) ∧
      (readHold here w.agent w.id w.die [(pa, size)] = (0, here) → writeLost here w = (false, here) →
        (∀ m, readErrors here pa size = (.uncorrectable, m) → ∃ t, exec (.writePerformedAtHome id) s = .next t ∧ t.mem = m.mem) ∧
        (readErrors here pa size = (.clean, here) →
          let lands (m : State) : State := match u, dst with
            | .core _ _, .ap r => landOf m u w.at_ pc (s.cycle + 4) [.ap r (BitVec.ofNat 64 (natAt s.mem pa size))]
            | .core _ _, .cc set r => landOf m u w.at_ pc (s.cycle + 4) [.cc set r (BitVec.ofNat 64 (natAt s.mem pa size))]
            | .core _ _, .none => landOf m u w.at_ pc (s.cycle + 4) []
            | .ctl e, .cc set r => ccDeliver m e set s.cycle [.cc set r (BitVec.ofNat 64 (natAt s.mem pa size))]
            | .ctl _, _ => m
          ∃ t m, exec (.writePerformedAtHome id) s = .next t ∧ t = lands m ∧ m.cores = s.cores ∧ m.dies = s.dies ∧ m.writes = rest ∧ m.cycle = s.cycle ∧ m.mem = t.mem ∧
            (∀ a, a < pa ∨ pa + size ≤ a → byteAt t.mem a = byteAt s.mem a) ∧ (s.mem.wf → t.mem.wf) ∧
            (size = 4 ∨ size = 8 → natAt t.mem pa size =
              amoValue op (8 * size) (natAt s.mem pa size) (b.toNat % 2 ^ (8 * size)) (k.toNat % 2 ^ (8 * size)))))) ∧
    (∀ op pa v pc, w.act = .barrier op pa v pc → writeLost here w = (false, here) →
      let w0 := natAt s.mem pa 8
      let n := barrierNext op v.toNat (w0 % 2) (w0 / 2 ^ 16 % 2 ^ 16) (w0 / 2 ^ 32 % 2 ^ 16) (natAt s.mem (pa + 8) 8 % 2 ^ 48) (natAt s.mem (pa + 16) 8 % 2 ^ 48)
      (op ≠ .init → ∀ t, runsErrors [(pa, 24)] here = (.uncorrectable, t) → exec (.writePerformedAtHome id) s = .next (spoiledUpdate t w)) ∧
      (op = .init ∨ runsErrors [(pa, 24)] here = (.clean, here) →
        ∃ t, exec (.writePerformedAtHome id) s = .next t ∧ t.writes = rest ∧
          (∀ a, a < pa ∨ pa + 32 ≤ a → byteAt t.mem a = byteAt s.mem a) ∧ (s.mem.wf → t.mem.wf) ∧
          natAt t.mem pa 8 = n.1 + n.2.1 * 2 ^ 16 + n.2.2.1 * 2 ^ 32 ∧ natAt t.mem (pa + 8) 8 = n.2.2.2.1 ∧ natAt t.mem (pa + 16) 8 = n.2.2.2.2 ∧
          natAt t.mem (pa + 24) 8 = if op = .init then 0 else natAt s.mem (pa + 24) 8))

/-- What the writes under way do at their homes: the stores, the atomic operations and the updates of barrier objects. -/
def Obligations.WritesPerform : Prop := StoresPerform ∧ UpdatesPerform

/-- Bytes written are the bytes read, every other byte is as it was, and the canonical form of memory is kept, in which equal memories are equal data. -/
def Obligations.MemoryReadsWhatWasWritten : Prop :=
  (∀ (m : Memory) (a n x : Nat), natAt (putNat m a n x) a n = x % 2 ^ (8 * n)) ∧
  (∀ (m : Memory) (a n x b k : Nat), b + k ≤ a ∨ a + n ≤ b → natAt (putNat m a n x) b k = natAt m b k) ∧
  (∀ (m : Memory) (a n x : Nat), m.wf → (putNat m a n x).wf) ∧
  (∀ m m' : Memory, m.wf → m'.wf → (∀ a, byteAt m a = byteAt m' a) → m = m')

end Statements

namespace Sys2Proof.Statements

open Sys2Proof.Machine

noncomputable section

/-- A word of a record. -/
def recordWord (e : Entry) (n : Nat) : Word := e.recd.getD n 0

/-- A port answers a message of the host: the device runs, the port took part in the handoff and is in service, and the frame was protected. -/
abbrev uctOpen (s : State) (m : HostMsg) : Prop :=
  s.boot.step = .running ∧ m.port ∈ s.boot.open_ ∧ m.safe = true ∧ isWithdrawn s (.hport m.port) = false

/-- A command of the host is served: its port answers, and no answer with its TAG is kept. -/
abbrev uctServes (s : State) (m : HostMsg) : Prop :=
  uctOpen s m ∧ (tget s.uctAnswers m.port []).filter (fun a => a.tag == m.tag) = []

/-- The commands of the host that are served while an image is made. -/
def uctReads (m : HostMsg) : List Instr := [.memread m, .pmemread m, .amoquery m, .eventack m, .uctBadOp { m with boot := false }]

/-- The commands of the host that could change the device. -/
def uctChanges (m : HostMsg) : List Instr :=
  [.memwrite m, .pmemwrite m, .launch m, .ptroot m, .inval m, .migrate m, .pagein m, .setid m, .listset m]

/-- What has come of a boot-stage command, with its present piece. -/
def bootData (s : State) (m : HostMsg) : List Byte := (tget s.boot.pieces (256 * m.port + m.op.toNat) []).take m.addr.toNat ++ m.data

/-- Boot-stage commands are served at a port. -/
abbrev bootOpen (s : State) (m : HostMsg) : Prop := bootServed s.boot = true ∧ isWithdrawn s (.hport m.port) = false

/-- A boot-stage command that is served, and whose piece follows what came before and is the last, or makes up what the command needs. -/
abbrev bootWhole (s : State) (m : HostMsg) : Prop :=
  bootOpen s m ∧ m.addr.toNat ≤ (tget s.boot.pieces (256 * m.port + m.op.toNat) []).length ∧
    (m.data.length < 4096 ∨ commandNeeds s.boot m.op.toNat ≤ (bootData s m).length)

/-- The state after the piece of a boot-stage command has been taken, and the command's data: the pieces are kept while more can come. -/
def bootPiece (s : State) (m : HostMsg) : State × List Byte :=
  let key := 256 * m.port + m.op.toNat
  ({ s with boot := { s.boot with pieces := if m.data.length < 4096 then tdel s.boot.pieces key else tput s.boot.pieces key (bootData s m) } }, bootData s m)

/-- Memory is in its canonical form, and so is the memory that each image of the cellar holds. -/
def canonical (s : State) : Prop := s.mem.wf ∧ ∀ p ∈ s.cellar, p.2.mem.wf

/-- The requests of other devices that are performed once. -/
def requests (f : Frame) : List Instr := [.uftPut f, .uftEnd f, .uftAmo f, .uftPost f, .uftNotify f, .uftCancel f]

end

end Sys2Proof.Statements

section Statements

open Sys2Proof Sys2Proof.Machine Sys2Proof.Statements

/-! ## Data, translations and cells (R54, R136, R137, R292, R295, R303 to R306, R378) -/

/-- AQ_ENTRY_LAND fills its entry and the bits of absent granules; WAIT_REREAD reads a memory condition again; WAIT_TIMEOUT ends a wait that does not hold with 0; TLB_WALK_COMPLETE installs the
page of a walk, and nothing for a page with RES = 0; SHOOTDOWN_COMPLETE lets a SEAL go on once the accesses through the old translations are performed; CELL_READY fills a cell with its base's bytes or zeros once
the reads through translations without it have come back; CELL_WAIT_TIMEOUT traps VINTAGE_SPACE; VINTAGE_FREE
starts the shootdown of a RETIRING vintage; ENCODING_NOT_INSTRUCTION traps with the cause of its check. -/
def Obligations.AccessEvents : Prop :=
  ∀ (s : State) (d c : Nat),
    let x := coreOf s d c
    (∀ q id e bs t, (tget x.aq q []).find? (fun y => y.id == id) = some e → readPieces s (apOf s d c) d c e.seq e.pieces = (bs, false, t) →
      let u := onCore t d c (fun y => { y with aq := tput y.aq q ((tget y.aq q []).map (fun k =>
        if k.id == id then { k with data := entryBytes e.form bs, landed := true, pieces := [] } else k)) })
      (s.cycle < cellHold s e.reads → exec (.aqEntryLand d c q id) s = .next (at' s (cellHold s e.reads) (.aqEntryLand d c q id))) ∧
      (cellHold s e.reads ≤ s.cycle → rebuilds s e.reads = true → exec (.aqEntryLand d c q id) s = .next (at' t (s.cycle + 3) (.aqEntryLand d c q id))) ∧
      (cellHold s e.reads ≤ s.cycle → rebuilds s e.reads = false → barrierHold s d e.reads ≤ s.cycle → exec (.aqEntryLand d c q id) s =
        .next (if q = 0 ∨ e.absent = 0 then u else land u (.core d c) (s.cycle + 1) [.apMaskOr q e.absent]))) ∧
    (∀ all w pd dl seen start ps t, x.ap.wait = .conds all [w] pd dl seen start → w.toNat / 2 ^ 60 = 3 ∨ w.toNat / 2 ^ 60 = 4 →
      splitAccess d (some c) x.asid x.vt { write := false, raw := true, ordered := false, hostTrap := false } (w.toNat % 2 ^ 56) 8 s = (ps, none, t) →
      ∃ due, t.cycle + partsLat t d ps ≤ due ∧ exec (.waitReread (.ap d c)) s = .next
        (let u := land { t with seq := t.seq + 1 } (.core d c) due [.cond (.ap d c) 0 (w.toNat / 2 ^ 60 = 4) (runsOf ps) (apOf s d c) t.seq start]
         at' u (t.cycle + 64) (.waitReread (.ap d c)))) ∧
    (∀ all ws pd dl seen start, x.ap.wait = .conds all ws pd (some dl) seen start → dl ≤ s.cycle → waitHolds x s.cycle all ws seen = false →
      exec (.waitTimeout (.ap d c)) s = .next (later (landOf (onCore s d c (fun y => { y with ap := { y.ap with wait := .none } })) (.core d c) s.cycle x.ap.word
        (s.cycle + 1) [.apPred pd false]) (.issue (.ap d c)))) ∧
    (∀ asid vint va l, walk s asid va = .ok l →
      let installs := l.res = true ∧ l.home = 0 ∧ leaving s asid l = false ∧ ∀ k ∈ s.shoots, k.covers asid vint l = false
      (installs → ∃ t, exec (.tlbWalkComplete d c asid vint va) s = .next t ∧ tlbEntryOf s asid vint va l ∈ (dieOf t d).tlb ∧
        (c < 32 → tlbEntryOf s asid vint va l ∈ (coreOf t d c).tlb) ∧ t.mem = s.mem) ∧
      (¬ installs → exec (.tlbWalkComplete d c asid vint va) s = .next s)) ∧
    (∀ id k, s.shoots.find? (fun y => y.id == id) = some k → k.done = .seal d c → x.ap.wait = .seal id →
      (s.cycle < pinsFree s id k.held → exec (.shootdownComplete id) s = .next (at' s (pinsFree s id k.held) (.shootdownComplete id))) ∧
      (pinsFree s id k.held ≤ s.cycle → ∃ t, exec (.shootdownComplete id) s = .next t ∧ (coreOf t d c).ap.wait = .none ∧ t.shoots = s.shoots.filter (fun y => y.id != id) ∧ t.mem = s.mem)) ∧
    (∀ id m, s.making.find? (fun y => y.id == id) = some m →
      (s.cycle < m.readyAt → exec (.cellReady id) s = .next s) ∧
      (m.readyAt ≤ s.cycle → s.cycle < oldPins s m → exec (.cellReady id) s = .next (at'
        { s with making := s.making.map (fun y => if y.id == id then { y with readyAt := oldPins s m } else y) } (oldPins s m) (.cellReady id))) ∧
      (m.readyAt ≤ s.cycle → oldPins s m ≤ s.cycle → fillErrors s m = (.clean, [], s) →
      ∃ t, exec (.cellReady id) s = .next t ∧ t.making = s.making.filter (fun y => y.id != m.id) ∧
        (∃ k, t.cells = s.cells ++ [k] ∧ k.asid = m.asid ∧ k.vint = m.vint ∧ k.va = m.va ∧ k.frame = m.frame ∧ k.size = m.size) ∧
        ∀ a, byteAt t.mem a = if m.frame ≤ a ∧ a < m.frame + m.size then (if m.fresh then 0 else byteAt s.mem (m.base + (a - m.frame))) else byteAt s.mem a)) ∧
    (∀ id w, s.cellWaits.find? (fun y => y.id == id) = some w → w.waiter = .ap d c → x.ap.wait = .cell id →
      exec (.cellWaitTimeout id) s = .next (coreTrap { s with cellWaits := s.cellWaits.filter (fun y => y.id != id) } d c 3 (trapOf .vintageSpace) x.ap.word x.xp.pc)) ∧
    (∀ asid v, liveRecords s asid v = 0 → (spaceOf s asid).stateOf v = .retiring ∨ (spaceOf s asid).stateOf v = .folding →
      let held := (s.cells.filter (fun y => decide (y.asid = asid) && decide (y.vint = v))).map (fun y => (y.frame, y.size)) ++
        (s.making.filter (fun y => decide (y.asid = asid) && decide (y.vint = v))).map (fun y => (y.frame, y.size))
      ∃ t, exec (.vintageFree asid v) s = .next t ∧ t.cells = s.cells.filter (fun y => !(decide (y.asid = asid) && decide (y.vint = v))) ∧ t.mem = s.mem ∧
        t.making = s.making.filter (fun y => !(decide (y.asid = asid) && decide (y.vint = v))) ∧
        t.cellWaits = s.cellWaits.filter (fun y => !(decide (y.asid = asid) && decide (y.vint = v))) ∧
        t.shoots = s.shoots ++ [{ id := s.seq, asid := asid, vint := some v, va := 0, len := 2 ^ 56, held := some held, done := .free asid v }]) ∧
    (∀ why, let k : Cause := match why with | .illegalEng => .illegalEng | .illegalOp => .illegalOp | .reservedField => .reservedField
      exec (.encodingNotInstruction (.cc d) why) s = .next (ccTrap s d s.focus.pc k 0) ∧
      exec (.encodingNotInstruction (.ap d c) why) s = .next (apTrap s (trapOf k)) ∧ exec (.encodingNotInstruction (.xp d c) why) s = .next (xpTrap s (trapOf k)))

/-! ## Commands that start, land and complete (R150, R153, R197, R204 to R218, R225) -/

/-- A command of an engine starts when it stands at the head of its queue, its tokens are met and its unit takes it, and else nothing happens; an XPOSE takes S + 12 + ⌈B/256⌉ cycles and moves its rows at its end; a
command whose work is done completes and leaves its token, unless an older one of its queue has still to; one that overruns its bound traps with what it waited on. That an XPOSE moves its rows at its end, and counts them under tag 0, and when a struck queue shows its error, are the model's choices: entries 62, 145 and 158. -/
def Sys2Proof.Statements.EngineCommandsRun : Prop :=
  ∀ (s : State) (d c id : Nat),
    let x := coreOf s d c
    let there (m : Cmd) := x.cmds.find? (fun y => y.id == id) = some m
    (x.cmds.find? (fun y => y.id == id) = none → ∀ i ∈ [Instr.engineCommandStart d c id, .engineUnitLand d c id, .boundOverrun d c id, .trellisCommandStart d c id,
      .wloadComplete d c id, .streamRowEnter d c id], exec i s = .next s) ∧
    (∀ m, there m → m.started.isSome = true ∨ cmdReady x m s.cycle = false ∨ unitReady s d c m = false → exec (.engineCommandStart d c id) s = .next s) ∧
    (∀ m, there m → m.started = none → cmdReady x m s.cycle = true → unitReady s d c m = true →
      let u := markStarted s d c m
      exec (.engineCommandStart d c id) s = .next (startCmd u d c { m with started := some s.cycle }) ∧
      (m.kind = .xpose ∨ m.kind = .xposeP →
        let t := turnOf m.params
        exec (.engineCommandStart d c id) s = .next (at' u (u.cycle + 12 + (t.len * t.rows * t.size + 255) / 256) (.engineUnitLand d c m.id)))) ∧
    (∀ m, there m → m.started = none ∨ m.doneAt.isSome = true → exec (.engineUnitLand d c id) s = .next s) ∧
    (∀ m, there m → m.started.isSome = true → m.doneAt = none → m.queue = .xpose → m.kind = .xpose →
      let t := turnOf m.params
      armedOn s d c t.src.space = none →
      let source (r : Nat) := bytesAt (bufOf x t.src.space) (rowOffset x m.half false t.src r) (t.len * t.size)
      let row (k : Nat) := (List.range t.rows).flatMap (fun r => ((source r).drop (k * t.size)).take t.size)
      exec (.engineUnitLand d c id) s = .next (doneCmd (addHot ((List.range t.len).foldl (fun u k => onCore u d c (fun y =>
        putBuf y t.dst.space (rowOffset x m.half true t.dst k) (row k))) s) d c 0 (t.len * t.rows * t.size)) d c m.id s.cycle)) ∧
    (∀ m due, x.cmds = [m] → m.doneAt = some due → due ≤ s.cycle → (∀ p ∈ tget x.tokens m.kp [], p.1 = m.id → p.2 = none) →
      ∃ t, exec (.engineCommandComplete d c id) s = .next t ∧ (coreOf t d c).cmds = [] ∧ t.mem = s.mem ∧
        (m.kp ≠ 0 → m.id ∉ (coreOf t d c).producers m.kp (s.cycle + 1))) ∧
    ((∀ m ∈ x.cmds, (∀ t, m.doneAt = some t → s.cycle < t) ∨ ∃ y ∈ x.cmds, y.queue = m.queue ∧ y.started ≠ none ∧ y.id < m.id) →
      exec (.engineCommandComplete d c id) s = .next s) ∧
    (∀ m, there m → m.started = none → exec (.boundOverrun d c id) s = .next s) ∧
    (∀ m, there m → m.started.isSome = true → exec (.boundOverrun d c id) s = .next (cmdTrap s d c m false { trapOf .boundOverrun with cond := overrunCond s d c m }))

/-- A command of a claim starts when it stands at the head of its queue and its start condition holds: a weight load that its checks pass fills the bank it names 4 + 32·ew cycles later, a TEOB closes the batch and
completes when it is the claim's oldest, at once where the batch is closed already, and a TDRAIN completes when it is the oldest, and traps CLAIM_BUSY on an open batch. -/
def Sys2Proof.Statements.TrellisCommandsStart : Prop :=
  ∀ (s : State) (d c id n : Nat) (m : Cmd), (coreOf s d c).cmds.find? (fun y => y.id == id) = some m → m.queue = .claim n →
    let u := markStarted s d c m
    let y := coreOf u d c
    let k := y.claim n
    let code := bits (wordOf m.params 1) 35 32
    let dims := (bits (wordOf m.params 1) 8 0, bits (wordOf m.params 1) 24 16)
    let gone (t : State) : Prop := (∀ z ∈ (coreOf t d c).cmds, z.id ≠ m.id) ∧ t.mem = s.mem
    (m.started.isSome = true ∨ trellisReady s d c m = false → exec (.trellisCommandStart d c id) s = .next s) ∧
    (m.started = none → trellisReady s d c m = true → s.strikes.contains (.queues d c) = true →
      exec (.trellisCommandStart d c id) s = .next (cmdFault (unstrike s (.queues d c)) d c m .uncorrectable 0 0)) ∧
    (m.started = none → trellisReady s d c m = true → s.strikes.contains (.queues d c) = false →
      (m.kind = .wload ∨ m.kind = .wloadp → plainCode code = true → k.batch = none →
        rowsFit y m.half 1 (adrBase (wordOf m.params 0)) (bits (wordOf m.params 2) 31 0) 0 dims.1 (dims.2 * trellisSize code) = true →
        let due := u.cycle + 4 + 32 * trellisSize code
        let b : Bank := { k := dims.1, n := dims.2, wfmt := code, doneAt := due, wts := [], params := m.params, half := m.half, vec := false, sums := [] }
        exec (.trellisCommandStart d c id) s = .next (at' (onClaim u d c n (fun z =>
          if m.kind = .wload then { z with active := some b, wdone := max z.wdone due } else { z with shadow := some b }))
          due (.wloadComplete d c m.id))) ∧
      (m.kind = .mstream ∨ m.kind = .mstreamp → exec (.trellisCommandStart d c id) s = .next (startStream u d c n { m with started := some u.cycle })) ∧
      (m.kind = .mvstream → exec (.trellisCommandStart d c id) s = .next (startVectors u d c n { m with started := some u.cycle })) ∧
      (m.kind = .teob → k.batch = none → ∃ t, exec (.trellisCommandStart d c id) s = .next t ∧ gone t) ∧
      (m.kind = .teob → k.batch.isSome = true → y.claimCmds n = [{ m with started := some u.cycle }] →
        ∃ t, exec (.trellisCommandStart d c id) s = .next t ∧ gone t ∧ ((coreOf t d c).claim n).batch = none) ∧
      (m.kind = .tdrain → k.batch = none → y.claimCmds n = [{ m with started := some u.cycle }] →
        ∃ t, exec (.trellisCommandStart d c id) s = .next t ∧ gone t) ∧
      (m.kind = .tdrain → k.batch.isSome = true →
        exec (.trellisCommandStart d c id) s = .next (cmdFault u d c { m with started := some u.cycle } .claimBusy 0 0)))

/-- WLOAD_COMPLETE gives the bank its bytes of WB, with their row sums, and completes the load; STREAM_ROW_ENTER of an MSTREAM makes one row to land, in its landing cycle; a row or a column that lands alone without ACC writes its sums into CB;
the end of a drain frees the claim and lets the XP go on in the next cycle. That the bank takes the bytes of WB as they stand at the completion, and which of two overlapping loads stands, are the model's choices: entries 72 and 177. -/
def Sys2Proof.Statements.TrellisRowsLand : Prop :=
  ∀ (s : State) (d c id : Nat),
    let x := coreOf s d c
    let there (m : Cmd) := x.cmds.find? (fun y => y.id == id) = some m
    (∀ m n b, there m → m.queue = .claim n → armedOn s d c 1 = none → b.doneAt = s.cycle → b.params = m.params → b.vec = false →
      ∃ t, exec (.wloadComplete d c id) s = .next t ∧ (∀ y ∈ (coreOf t d c).cmds, y.id ≠ m.id) ∧ t.mem = s.mem ∧
        (m.kind = .wload → (x.claim n).active = some b → ((coreOf t d c).claim n).active = some (b.filled x)) ∧
        (m.kind = .wloadp → (x.claim n).shadow = some b → ((coreOf t d c).claim n).shadow = some (b.filled x))) ∧
    (∀ m n, there m → m.queue = .claim n → m.started = none → m.kind = .mvstream ∨ armedOn s d c 2 = none → exec (.streamRowEnter d c id) s = .next s) ∧
    (∀ m n b, there m → m.queue = .claim n → m.started.isSome = true → m.kind = .mstream → armedOn s d c 2 = none → (x.claim n).active = some b →
      ∃ t row, exec (.streamRowEnter d c id) s = .next t ∧ t.mem = s.mem ∧ ((coreOf t d c).claim n).rows = (x.claim n).rows ++ [row] ∧ row.cmd = m.id ∧
        row.due = landSlot (x.claim n) m.id (s.cycle + 32 * (x.claim n).a + 8) (max 1 (512 / b.n)) (decide (m.aux.getD 3 0 = 1)) ∧
        row.cells.map Prod.fst = (List.range b.n).map (fun j => outRow x m m.rows + 4 * j)) ∧
    (∀ m n, there m → m.queue = .claim n → m.started.isSome = true →
      (m.kind = .mvstream → exec (.streamRowEnter d c id) s = .next (feedColumns s d c n m)) ∧
      (m.kind = .mstreamp → armedOn s d c 2 = none → exec (.streamRowEnter d c id) s = .next (enterRows s d c n m))) ∧
    (rowsDue x s.cycle = [] → exec (.streamRowLand d c id) s = .next s ∧ exec (.mvstreamColumnLand d c id) s = .next s) ∧
    (∀ n r, rowsDue x s.cycle = [(n, r)] → r.acc = false → ∀ i ∈ [Instr.streamRowLand d c id, .mvstreamColumnLand d c id],
      ∃ t, exec i s = .next t ∧ (coreOf t d c).cb = (rowWrites x.cb r).1.foldl (fun m p => writeBytes m p.1 p.2) x.cb ∧ t.mem = s.mem) ∧
    (∀ n, (x.claim n).endsAt = some s.cycle → exec (.releaseDrainEnd d c n) s = .next (onCore s d c (fun y =>
      { y with claims := tput y.claims n (x.claim n).freed, xp := { y.xp with wait := .none, ready := max y.xp.ready (s.cycle + 1) } }))) ∧
    (∀ n, (x.claim n).endsAt ≠ some s.cycle → exec (.releaseDrainEnd d c n) s = .next s)

/-- PHASE_RESTART: once the commands issued again are complete the banks load; once they are loaded they hold their bytes of WB, and both processors go on. That a bank takes the bytes of WB as they stand at the completion, and that a struck capture is found at the rollback, are the model's choices: entries 72 and 158. -/
def Sys2Proof.Statements.PhaseRestarts : Prop :=
  ∀ (s : State) (d c : Nat),
    let x := coreOf s d c
    let whole (b : Bank) : Bank := b.filled x
    (x.restart = none ∨ (x.restart = some 0 ∧ x.cmds ≠ []) ∨ (∃ n, x.restart = some (n + 1) ∧ s.cycle < n) → exec (.phaseRestart d c) s = .next s) ∧
    (x.restart = some 0 → x.cmds = [] → exec (.phaseRestart d c) s = .next (startReload s d c (s.cycle + 1))) ∧
    (∀ n, x.restart = some (n + 1) → n ≤ s.cycle → armedOn s d c 1 = none → exec (.phaseRestart d c) s = .next (onCore s d c (fun y =>
      { y with restart := none, ap := { y.ap with wait := .none, ready := s.cycle }, xp := { y.xp with wait := .none, ready := s.cycle }
               claims := y.claims.map (fun p => (p.1, { p.2 with active := p.2.active.map whole, shadow := p.2.shadow.map whole })) })))

/-- The commands of the engines and of the trellis start, land and complete, and a phase restarts. -/
def Obligations.CommandEvents : Prop := EngineCommandsRun ∧ TrellisCommandsStart ∧ TrellisRowsLand ∧ PhaseRestarts

/-! ## The window (R223, R239 to R275, R307) -/

/-- OVERLAP_CHECK_COMPLETE: a checked record stays as it is; one of which no record was live at its acceptance has no edge; else its edges are those of its regions against the records before it, but for the edges that
those have released by now, and a record before it that ended FAULTED or CANCELLED cancels it along any of them. That such a record cancels along edges of every kind is the model's choice: entry 129. -/
def Sys2Proof.Statements.ChecksComplete : Prop :=
  ∀ (s : State) (d n : Nat) (e : Entry), entryOf s d n = some e →
    let marked := onEntry s d n (fun y => { y with checked := true })
    let pool := (dieOf marked d).entries ++ (dieOf marked d).departed
    let early := (e.liveAt.filterMap (fun k => pool.find? (fun y => y.serial == k))).filter (fun y => !(y.gang.isSome && y.gang == e.gang))
    let r := if recFold e.recd then (foldEdges marked e early, marked) else allEdges marked d e early (List.range 6)
    (e.checked = true → exec (.overlapCheckComplete d n) s = .next s) ∧
    (e.checked = false → e.pending.isSome = true → exec (.overlapCheckComplete d n) s = .next marked) ∧
    (e.checked = false → e.pending = none →
      (e.liveAt = [] → exec (.overlapCheckComplete d n) s = .next (settleEntry (onEntry marked d n (fun y => { y with edges := [] })) d n)) ∧
      ((∀ x ∈ r.1, edgeFate early x ≠ 2) → exec (.overlapCheckComplete d n) s =
        .next (settleEntry (onEntry r.2 d n (fun y => { y with edges := r.1.filter (fun x => decide (edgeFate early x = 0)) })) d n)) ∧
      ((∃ x ∈ r.1, edgeFate early x = 2) → exec (.overlapCheckComplete d n) s = .next (reachFinal r.2 d n .cancelled)))

/-- TASK_RETIRE of a record with a pending final state records it, and does nothing without one. CANCEL_PROPAGATE cancels every record without a final state that holds an edge from the task, and nothing where
none does and the task has no gang and no notify target. -/
def Sys2Proof.Statements.FinalStatesReach : Prop :=
  (∀ (s : State) (d n : Nat) (e : Entry), entryOf s d n = some e →
    (e.pending = none → exec (.taskRetire d n) s = .next s) ∧
    (∀ st, e.pending = some st → st ≠ .retired → exec (.taskRetire d n) s = .next (leaveWindow (onEntry s d n (fun y => { y with state := st })) d n)) ∧
    (∀ st, e.pending = some st → ∃ t, exec (.taskRetire d n) s = .next t ∧ (d, n, st) ∈ t.ended)) ∧
  (∀ (s : State) (d n : Nat),
    let there := (dieOf s d).entries.find? (fun y => y.serial == n) <|> (dieOf s d).departed.find? (fun y => y.serial == n)
    let deps := (dieOf s d).entries.filter (fun y => y.pending == none && y.edges.any (fun k => decide (k.src = n)))
    (there = none → exec (.cancelPropagate d n) s = .next s) ∧
    (∀ e, there = some e → e.gang = none → (recordWord e 3).getLsbD 63 = false → (recordWord e 4).getLsbD 63 = false →
      exec (.cancelPropagate d n) s = .next (deps.foldl (fun u y => (cancelTask u d y.serial).2) s) ∧
      (deps = [] → exec (.cancelPropagate d n) s = .next s) ∧
      (∀ y, deps = [y] → y.gang = none → y.state ≠ .committed → y.state ≠ .halted → (∀ l ∈ (dieOf s d).letterbox, l.serial ≠ y.serial) →
        entryOf s d y.serial = some y →
        ∃ t z, exec (.cancelPropagate d n) s = .next t ∧ entryOf t d y.serial = some z ∧ z.pending = some .cancelled)))

/-- TASK_HALTED, COPY_BACK_START and COPY_BACK_COMPLETE take a task whose shards have all halted to its retirement; one with a renamed region is HALTED when what it has written is visible; FOLD_TASK_START begins a READY fold and copies one cell after the other into its base, and
FOLD_TASK_RETIRE retires it and its vintage. That a fold copies the bytes of the cycle in which the copy ends is the model's choice: entry 87. -/
def Sys2Proof.Statements.TasksRetire : Prop :=
  ∀ (s : State) (d n : Nat) (e : Entry), entryOf s d n = some e →
    let asid := recAsid e.recd
    let v := recVint e.recd
    let live := e.pending = none
    let all := ∀ y ∈ e.shards, y.state = .halted
    (live → e.state = .running ∨ e.state = .committed → all →
      let waits := s.cycle < e.homeDue ∧ ∃ y ∈ e.shadows, y.renamed = true
      (waits → exec (.taskHalted d n) s = .next (at' s e.homeDue (.taskHalted d n))) ∧
      (¬ waits → exec (.taskHalted d n) s =
        .next (at' (onEntry s d n (fun y => { y with state := .halted })) (max s.cycle e.homeDue) (.copyBackStart d n)))) ∧
    (¬ live ∨ (e.state ≠ .running ∧ e.state ≠ .committed) ∨ ¬ all → exec (.taskHalted d n) s = .next s) ∧
    (live → e.state = .halted →
      (e.shadows = [] → exec (.copyBackStart d n) s = .next (reachFinal (releaseEdges s d n [.halt]) d n .retired)) ∧
      (e.shadows ≠ [] → (let u := releaseEdges s d n [.halt]
        exec (.copyBackStart d n) s = .next (at' u (u.cycle + copyBackTime u d e) (.copyBackComplete d n)))) ∧
      (∀ t, copyPieces d e (writtenPieces e) s = (t, none) →
        exec (.copyBackComplete d n) s = .next (reachFinal (onEntry t d n (fun y => { y with copied := true })) d n .retired))) ∧
    (¬ live ∨ e.state ≠ .halted → exec (.copyBackStart d n) s = .next s) ∧
    (live → e.state ≠ .halted → exec (.copyBackComplete d n) s = .next s) ∧
    (∀ st, e.pending = some st → s.timers.any (fun x => x.2 == .taskRetire d n) = false → exec (.copyBackComplete d n) s = .next (writeRecord s d e st)) ∧
    (live → e.state = .ready → exec (.foldTaskStart d n) s = .next (foldNext (onEntry s d n (fun y => { y with state := .running, everRan := true })) d n asid v)) ∧
    (live → e.state = .running → lowestCell (cellsIn s asid v) = none → exec (.foldTaskStart d n) s = .next (at' s s.cycle (.foldTaskRetire d n))) ∧
    (∀ c l frame fva made added t till held u bs, live → e.state = .running → lowestCell (cellsIn s asid v) = some c →
      dieTranslate s d asid 0 c.va = (.page l frame fva made added, t) → l.seal = false → readHold t (.copier d) n d [(c.frame, c.size)] = (till, held) →
      (s.cycle < till → exec (.foldTaskStart d n) s = .next (at' held till (.foldTaskStart d n))) ∧
      (till ≤ s.cycle → rebuilds t [(c.frame, c.size)] = false → readRuns held (.copier d) d 32 t.seq [(c.frame, c.size)] = (bs, false, u) →
      exec (.foldTaskStart d n) s = .next (foldNext (freeCell (storeBytes u (frame + (c.va - fva)) bs) c) d n asid v))) ∧
    (live → e.state = .running → recFold e.recd = true →
      exec (.foldTaskRetire d n) s = .next (reachFinal (onSpace s asid (fun a => { a with vints := tput a.vints v .retiring })) d n .retired)) ∧
    (¬ live ∨ e.state ≠ .running ∨ recFold e.recd = false → exec (.foldTaskRetire d n) s = .next s)

/-- WINDOW_RECORDS_COMMITTED, for a shard that waits for it: while an edge of renaming or copy-back is left the COMMIT waits; else the task is COMMITTED and the shard's processors go on in this cycle, or, at its HALT, the
shard halts. -/
def Sys2Proof.Statements.CommitsRecorded : Prop :=
  ∀ (s : State) (d n sh k c : Nat) (e : Entry) (x : Core), entryOf s d n = some e → shardCore s d n sh = some (k, c, x) →
    let waits := e.pending = none ∧ x.ap.wait = .commit
    let held := e.commitHeld = true ∧ e.state = .running
    (¬ waits → exec (.windowRecordsCommitted d n sh) s = .next s) ∧
    (waits → held → (sh ∈ e.haltWait ∨ sh ∈ e.commitWait → exec (.windowRecordsCommitted d n sh) s = .next s) ∧
      (sh ∉ e.haltWait → sh ∉ e.commitWait →
        exec (.windowRecordsCommitted d n sh) s = .next (onEntry s d n (fun y => { y with commitWait := y.commitWait ++ [sh] })))) ∧
    (waits → ¬ held → sh ∉ e.haltWait → ∃ t e', exec (.windowRecordsCommitted d n sh) s = .next t ∧ entryOf t d n = some e' ∧
      e'.state = (if e.state = .running then .committed else e.state) ∧ (∀ y, e.shards[sh]? = some y → e'.shards[sh]? = some { y with committed := true }) ∧
      (coreOf t k c).ap.wait = .none ∧ (coreOf t k c).xp.wait = .none ∧ (coreOf t k c).ap.ready = s.cycle ∧ (coreOf t k c).xp.ready = s.cycle ∧ t.mem = s.mem) ∧
    (waits → ¬ held → sh ∈ e.haltWait → x.traps = [] → coreOf s k c = x → ∃ t e', exec (.windowRecordsCommitted d n sh) s = .next t ∧ entryOf t d n = some e' ∧
      (∀ y, e.shards[sh]? = some y → ∃ z, e'.shards[sh]? = some z ∧ z.state = .halted ∧ z.committed = true))

/-- The events of the window: checks, final states and cancels, the way from halt to retirement, and the record of a COMMIT. -/
def Obligations.WindowEvents : Prop := ChecksComplete ∧ FinalStatesReach ∧ TasksRetire ∧ CommitsRecorded

/-! ## The dispatcher (R260 to R274) -/

/-- DISPATCH_PLACE keeps cores no more for gangs that wait no more, places nothing while dispatch is held and else the first task of the ready order that can be, which are the COMMITTED ones while a
checkpoint is under way; STEAL takes what a die may, unless it has been placed in this cycle; GANG_FAIRNESS_TIMEOUT holds a gang's place; PRELOAD_COMPLETE ends a task whose descriptor is
broken and prepares one whose is not; SHADOW_FILL_COMPLETE lets a task with filled shadows start; TASK_START gives the core the registers of R40; DISCARD_COMPLETE frees cores and makes a task in REPLAY READY, one replay counted unless it was pre-empted. That a steal is always made, onto the first open core of R266's order, that a record's spread and descriptor are checked at these points, and that a preload waits for a page as an access does, are the model's choices: entries 83, 81 and 85. -/
def Obligations.DispatchEvents : Prop :=
  ∀ (s : State) (d n : Nat),
    (let u := dropKeeps s d;
      ((dieOf s d).reserved = [] → u = s) ∧
      (dispatchHeld u d = true → exec (.dispatchPlace d) s = .next u) ∧
      (dispatchHeld u d = false → u.ckpt = none → exec (.dispatchPlace d) s = .next (placeFirst u d true [] (readyOrder u d))) ∧
      (dispatchHeld u d = false → u.ckpt.isSome = true →
        exec (.dispatchPlace d) s = .next (placeFirst u d true [] ((readyOrder u d).filter (fun x => x.entry.state == .committed))))) ∧
    (dispatchHeld s d = true ∨ s.ckpt.isSome = true ∨ robbery (beforePlacing s) d = none → exec (.steal d) s = .next s) ∧
    (∀ x c e sh t, dispatchHeld s d = false → dispatchHeld s x.wdie = false → s.ckpt = none → robbery (beforePlacing s) d = some x →
      (List.range 32).find? (fun k => coreOpen s d k false && (keptFor s d k).isNone) = some c →
      entryOf s x.wdie x.entry.serial = some e → e.shards[x.shard]? = some sh →
      (e.pending = none → sh.state = .waiting → placeOn s d x [c] = some t → exec (.steal d) s = .next t) ∧
      (e.pending.isSome = true ∨ sh.state ≠ .waiting → exec (.steal d) s = .next s)) ∧
    (∀ e g, (dieOf s d).entries.find? (fun y => y.gang.isSome && decide (y.lead = n) && y.state == .ready && y.pending.isNone) = some e →
      gangReady s d e = true → e.gangReady = some g → g + 2 ^ 20 ≤ s.cycle → n ∉ (dieOf s d).gangHold →
      exec (.gangFairnessTimeout d n) s = .next (onDie s d (fun x => { x with gangHold := x.gangHold ++ [n] }))) ∧
    (∀ e i sh t, entryOf s d n = some e → e.shards[i]? = some sh → sh.state = .dispatched → sh.preloaded = false → e.pending = none →
      preloadDue s sh.die e sh.placedAt ≤ s.cycle → programOf s d e i = .ok t →
      (∀ k, descriptorFault t.desc = some k → exec (.preloadComplete d n i) s = .next (faultTask s d n (trapOf k) 0 0 0)) ∧
      (∀ found u, descriptorFault t.desc = none → absentIn s t.asid (preloadRuns e t) = none → runsFound t.asid (preloadRuns e t) s = (found, u) →
        (found = .clean ∨ found = .corrected → exec (.preloadComplete d n i) s = .next (tryStart (onEntry u d n (fun y => { y with shards := y.shards.mapIdx (fun j z =>
          if j = i then { z with preloaded := true } else z) })) sh.die sh.core)) ∧
        (found = .rebuilt → exec (.preloadComplete d n i) s = .next (at' u (u.cycle + 3) (.preloadComplete d n i))) ∧
        (found = .uncorrectable → e.state ≠ .committed → exec (.preloadComplete d n i) s = .next (replayTask u d n i (trapOf .uncorrectable) 0 0 0)) ∧
        (found = .uncorrectable → e.state = .committed → exec (.preloadComplete d n i) s = .next (faultTask u d n (trapOf .uncorrectable) 0 0 0)))) ∧
    (∀ e i sh k err va, entryOf s d n = some e → e.shards[i]? = some sh → sh.state = .dispatched → sh.preloaded = false → e.pending = none →
      preloadDue s sh.die e sh.placedAt ≤ s.cycle → programOf s d e i = .error (.trap k err va) →
      (k = .uncorrectable ∧ e.state ≠ .committed → exec (.preloadComplete d n i) s = .next (replayTask s d n i (trapOf .uncorrectable) 0 0 0)) ∧
      (k ≠ .uncorrectable ∨ e.state = .committed →
        exec (.preloadComplete d n i) s = .next (faultTask s d n { trapAt k va with error := err } 0 0 0))) ∧
    (∀ e t, entryOf s d n = some e → e.pending = none → e.state = .dispatched → (∃ x ∈ e.shadows, x.filled = false) →
      (∃ sh ∈ e.shards, (sh.state = .dispatched ∨ sh.state = .running) ∧ sh.placedAt + fillTime s d e ≤ s.cycle) → fillShadows d e e.shadows s = (t, none) →
      exec (.shadowFillComplete d n) s = .next (tryStarts t d n)) ∧
    (∀ e i sh t, entryOf s d n = some e → e.shards[i]? = some sh → sh.state = .dispatched → sh.startAt = some s.cycle → physicalFree s sh.die sh.core = true →
      programOf s d e i = .ok t →
      ∃ u, exec (.taskStart d n i) s = .next u ∧ u.mem = s.mem ∧
        let x := coreOf u sh.die sh.core
        x.aGet 1 = recordWord e 5 ∧ x.aGet 2 = recordWord e 6 ∧ x.aGet 3 = recordWord e 7 ∧ x.aGet 4 = BitVec.ofNat 64 t.shard ∧
        x.aGet 5 = BitVec.ofNat 64 t.shards ∧ x.aGet 6 = BitVec.ofNat 64 t.serial ∧ (∀ k, 6 < k → k < 64 → x.aGet k = 0) ∧
        x.ap.pc = t.image + t.textOff + (wordOf t.desc 0).toNat % 2 ^ 32 ∧ x.xp.pc = x.ap.pc ∧
        (∃ r, x.task = some r ∧ r.serial = t.serial ∧ r.committed = decide (e.state = .committed)) ∧ x.capture.isSome = true) ∧
    (∀ e, entryOf (freeDiscarded s) d n = some e →
      (e.state = .replay → e.pending = none → exec (.discardComplete d n 0) s = .next (makeReady (onEntry (freeDiscarded s) d n (fun y =>
        { y with replays := if y.recount then y.replays + 1 else y.replays, recount := false })) d n)) ∧
      (e.state ≠ .replay → exec (.discardComplete d n 0) s = .next (freeDiscarded s)))

/-! ## Faults, power and checkpoints (R14, R404, R408 to R410, R418, R427, R430) -/

/-- PATROL_SCRUB of a word: one that is clean for the device is as the scrubber found it, a corrected word is charged, an uncorrectable one is poisoned and charged, and one that
is poisoned already is left alone; SCORE_HALVE halves the score of every unit and nothing else of memory, cores or windows. That what the scrubber finds comes with its event is the model's choice: entry 10. -/
def Sys2Proof.Statements.ScrubAndScores : Prop :=
  ∀ s : State,
    (∀ pa, let v := poisonUnit pa
      let u := (keptPa s v.1, v.2)
      let idle := keptPa s v.1 = v.1 ∧ servedPa s v.1 ≠ v.1
      let spoiled (t : State) : State := (List.range (v.2 / 16)).foldl (fun t i => poisonAt t (keptPa t (v.1 + 16 * i))) t
      ((∀ w ∈ s.withdrawn, w.slot = none) → u = v ∧ ¬ idle) ∧
      (idle → exec (.patrolScrub pa .clean) s = .next s ∧ exec (.patrolScrub pa .corrected) s = .next (foundCorrected s (unitOfPa pa) pa) ∧
        exec (.patrolScrub pa .uncorrectable) s = .next (foundUncorrectable s (unitOfPa pa) pa)) ∧
      (¬ idle →
        (∀ t, readErrors s u.1 u.2 = (.clean, t) →
          exec (.patrolScrub pa .clean) s = .next t ∧
          exec (.patrolScrub pa .corrected) s = .next (foundCorrected t (unitOfPa pa) pa) ∧
          exec (.patrolScrub pa .uncorrectable) s = .next (foundUncorrectable (spoiled t) (unitOfPa pa) pa)) ∧
        (∀ t found, readErrors s u.1 u.2 = (.corrected, t) ∨ readErrors s u.1 u.2 = (.rebuilt, t) → exec (.patrolScrub pa found) s = .next t) ∧
        (∀ t found, readErrors s u.1 u.2 = (.uncorrectable, t) →
          exec (.patrolScrub pa found) s = .next (if isPoisoned s u.1 u.2 then t else spoiled t)))) ∧
    (∃ t, exec .scoreHalve s = .next t ∧ (∀ u, scoreOf t u = scoreOf s u / 2) ∧ t.mem = s.mem ∧ t.cores = s.cores ∧ t.withdrawn = s.withdrawn ∧
      ∀ d, (dieOf t d).entries = (dieOf s d).entries ∧ (dieOf t d).ctl = (dieOf s d).ctl)

/-- A test that is due starts, and ends after its unit's cycles; one that is not due does not start. The end of a test that runs writes TESTREC; a failed test fences the unit, a passed one
clears its score and returns the unit with its reserve slot. When a test fails is the model's choice: entry 10. -/
def Sys2Proof.Statements.TargetedTests : Prop :=
  ∀ (s : State) (u : HwUnit),
    ((testsDue s).contains u = true → exec (.targetedTestStart u) s = .next (at'
      { s with withdrawn := s.withdrawn.map (fun w => if w.hw == u then
        { w with state := .testing, score := scoreOf s u, until_ := s.cycle + testLength u, bad := injectedPlot s u } else w) } (s.cycle + testLength u)
      (.targetedTestEnd u false))) ∧
    ((testsDue s).contains u = false → exec (.targetedTestStart u) s = .next s) ∧
    (∀ bad, s.withdrawn.find? (fun y => y.hw == u && y.state == .testing) = none → exec (.targetedTestEnd u bad) s = .next s) ∧
    (∀ bad w, s.withdrawn.find? (fun y => y.hw == u && y.state == .testing) = some w → s.cycle < w.until_ →
      exec (.targetedTestEnd u bad) s =
        .next (if bad then { s with withdrawn := s.withdrawn.map (fun y => if y.hw == u then { y with bad := true } else y) } else s)) ∧
    (∀ bad w, s.withdrawn.find? (fun y => y.hw == u && y.state == .testing) = some w → w.until_ ≤ s.cycle →
      let fails := bad || w.bad || injectedPlot s u
      ∃ t, exec (.targetedTestEnd u bad) s = .next t ∧
        (fails = true ∨ w.slot = none → t.mem = s.mem) ∧ (fails = true ∨ (List.range 8).flatMap (dispatchedOn s) = [] → t.cores = s.cores) ∧
        (fails = false → ∀ pa, w.slot = some pa → t.mem = (leaveSlot s u pa).mem) ∧
        (dieOf t (unitDie u)).testrec = fieldAt (min 255 (bits (dieOf s (unitDie u)).testrec 63 56 + 1)) 56 ||| testFields u |||
          fieldAt (if fails then 1 else 0) 16 ||| fieldAt w.score 0 ∧
        (fails = true → t.withdrawn = s.withdrawn.map (fun y => if y.hw == u then { y with state := .fenced } else y) ∧ t.reserve = s.reserve) ∧
        (fails = false → t.withdrawn = s.withdrawn.filter (fun y => y.hw != u) ∧ scoreOf t u = 0 ∧
          t.reserve = s.reserve.filter (fun r => decide (w.slot ≠ some r.1))))

/-- POWER_REPORT sets the hold of dispatch at a mean of 3,500 W over ten reports and releases it below 3,400 W; TEMPERATURE_SAMPLE holds at 105 °C, releases below 100 °C and powers the
module off at 115 °C, or when the inlet has been above 50 °C for ten seconds. That the hot inlet is counted in samples, and that the hold needs ten reports, are the model's choices: entry 106. -/
def Sys2Proof.Statements.BoardSamples : Prop :=
  ∀ s : State,
    (∀ watts, let log := ((s.powerLog ++ [watts]).reverse.take 10).reverse
      ∃ t, exec (.powerReport watts) s = .next t ∧ t.powerLog = log ∧ t.board.pwr = BitVec.ofNat 16 watts ∧ t.mem = s.mem ∧ t.cores = s.cores ∧ t.dies = s.dies ∧
        (log.length = 10 → 35000 ≤ log.sum → t.powerHold = true) ∧ (log.sum < 34000 → t.powerHold = false) ∧
        (34000 ≤ log.sum → log.length < 10 ∨ log.sum < 35000 → t.powerHold = s.powerHold)) ∧
    (∀ die inlet, die < 1150 → inlet ≤ 500 ∨ s.hotInlet < 1000000 →
      ∃ t, exec (.temperatureSample die inlet) s = .next t ∧ t.hotInlet = (if 500 < inlet then s.hotInlet + 1 else 0) ∧
        t.board.tdie = BitVec.ofNat 16 die ∧ t.board.tin = BitVec.ofNat 16 inlet ∧ t.mem = s.mem ∧ t.cores = s.cores ∧ t.dies = s.dies ∧
        (1050 ≤ die → t.tempHold = true) ∧ (die < 1000 → t.tempHold = false) ∧ (1000 ≤ die → die < 1050 → t.tempHold = s.tempHold)) ∧
    (∀ die inlet, 1150 ≤ die ∨ (500 < inlet ∧ 1000000 ≤ s.hotInlet) → exec (.temperatureSample die inlet) s = .next (powerOff s))

/-- The scrubber and the scores, the tests of withdrawn units, and the samples of power and temperature. -/
def Obligations.BoardEvents : Prop := ScrubAndScores ∧ TargetedTests ∧ BoardSamples

/-- CKPT_STREAM_START streams the image of a quiet device to the slot that does not hold the last complete one, and nothing happens before the checkpoint has come so far; CKPT_STREAM_END makes
the image complete, or not, and gives every context that waits for it the error code and the cycles spent. Where the owner area names its target is the model's choice: entry 23. -/
def Sys2Proof.Statements.Checkpoints : Prop :=
  (∀ s : State, s.ckpt = none → exec .ckptStreamStart s = .next s ∧ ∀ how, exec (.ckptStreamEnd how) s = .next s) ∧
  (∀ s : State, streamEnd s =
    if (hostPortUp s 0 = false ∨ 0 ∉ s.boot.open_) ∧ (hostPortUp s 1 = false ∨ 1 ∉ s.boot.open_) then .portsLost
    else if cellarTarget s.boot = none then .unreachable
    else match s.cellarLink with | .up => .complete | .unreachable => .unreachable | .failing => .writeFailed) ∧
  (∀ (s : State) (k : Ckpt), s.ckpt = some k →
    (k.step ≠ 3 ∨ quiet s = false → exec .ckptStreamStart s = .next s) ∧
    (k.step = 3 → quiet s = true →
      ∃ t slot, exec .ckptStreamStart s = .next t ∧ slot = (match lastImage s with | some n => 1 - n | none => 0) ∧ t.ckpt = some { k with step := 4, slot := slot } ∧
        (let how := streamEnd (streamErrors s).2;
          (how = .complete ∨ how = .writeFailed → tfind t.cellar slot = some (imageOf s k (streamErrors s).1) ∧ (∀ n, n ≠ slot → tfind t.cellar n = tfind s.cellar n)) ∧
          (how = .unreachable ∨ how = .portsLost → t.cellar = s.cellar) ∧
          ∃ due, s.cycle < due ∧ (due, .ckptStreamEnd how) ∈ t.timers) ∧
        (s.injPool = [] → s.injHub = [] → t.mem = s.mem ∧ t.cores = s.cores ∧
          ∀ a, byteAt (streamErrors s).1 a = if s.poison.any (fun p => decide (p ≤ a ∧ a < p + (poisonUnit p).2)) then 0 else byteAt s.mem a)) ∧
    (∀ how, k.step ≠ 4 → exec (.ckptStreamEnd how) s = .next s) ∧
    (∀ how im, k.step = 4 → tfind s.cellar k.slot = some im →
      let code := match how with | .complete => 0 | .unreachable => 0x8001 | .writeFailed => 0x8002 | .portsLost => 0x8003
      exec (.ckptStreamEnd how) s = .next (k.joiners.foldl (fun u j => ccDeliver u j.1 j.2.1 u.cycle
          [.cc j.2.1 j.2.2 (BitVec.ofNat 64 (code + (s.cycle - k.since) % 2 ^ 48 * 2 ^ 16))])
        { s with
          ckpt := none, timers := s.timers.filter (fun x => match x.2 with | .ckptStreamEnd _ => false | _ => true)
          cellar := if how = .complete then tput s.cellar k.slot { im with complete := true } else s.cellar })))

/-- RESUME, all of it come: without a host port in service it is answered CKPT_LINK; without a target that the owner area names and that can be reached, and for a slot without an image, CELLAR_UNREACHABLE; an image that is not complete, one that comes before the memory is up and one over a launch that runs
are refused; else the image is restored. The codes of the refusals, and where the owner area names its target, are the model's choices: entries 108 and 23. -/
def Sys2Proof.Statements.Resumption : Prop :=
  ∀ (s : State) (m : HostMsg), bootWhole s m →
    let t := (bootPiece s m).1
    let slot := leNat ((bootPiece s m).2.take 1)
    let ported := hostPortUp t 0 = true ∨ hostPortUp t 1 = true
    let reached := cellarTarget t.boot ≠ none ∧ t.cellarLink ≠ .unreachable
    (¬ ported → exec (.resume m) s = .next (bootAnswer t m 0x8003 [])) ∧
    (ported → ¬ reached ∨ tfind s.cellar slot = none → exec (.resume m) s = .next (bootAnswer t m 0x8001 [])) ∧
    (∀ im, ported → reached → tfind s.cellar slot = some im →
      ((bootPiece s m).2 = [] ∨ im.complete = false ∨ (s.boot.step ≠ .handoff ∧ s.boot.step ≠ .running) ∨ (∃ l ∈ s.launches, l.done = false) →
        exec (.resume m) s = .next (bootAnswer t m 0x1003 [])) ∧
      ((bootPiece s m).2 ≠ [] → im.complete = true → s.boot.step = .handoff ∨ s.boot.step = .running → (∀ l ∈ s.launches, l.done = true) →
        exec (.resume m) s = .next (bootAnswer (resumeFrom t im) m 0 [])))

/-- The checkpoint's stream, and the resumption from an image. -/
def Obligations.CheckpointEvents : Prop := Checkpoints ∧ Resumption

/-! ## The boot and the board (R421 to R430) -/

/-- A boot-stage command is discarded where none is served; a piece that does not follow what has come is refused; a piece of 4,096 bytes with which the command is not whole is kept and
answered. When a command is whole is the model's choice: entry 24. -/
def Sys2Proof.Statements.BootPieces : Prop :=
  ∀ (s : State) (m : HostMsg), ∀ i ∈ [Instr.hello m, .keyx m, .boot m, .fwwrite m, .ownerset m, .resume m],
    let key := 256 * m.port + m.op.toNat
    let part := tget s.boot.pieces key []
    (¬ bootOpen s m → exec i s = .next s) ∧
    (bootOpen s m → part.length < m.addr.toNat → exec i s = .next (bootAnswer s m 0x1003 [])) ∧
    (bootOpen s m → m.addr.toNat ≤ part.length → 4096 ≤ m.data.length → (bootData s m).length < commandNeeds s.boot m.op.toNat →
      exec i s = .next (bootAnswer { s with boot := { s.boot with pieces := tput s.boot.pieces key (bootData s m) } } m 0 []))

/-- HELLO, KEYX, BOOT, FWWRITE and OWNERSET, all of the command come: what each answers and changes, and when it is refused. The layouts of FWWRITE and OWNERSET, and the answer to a BOOT out of time, are the model's choices: entries 24 and 107. -/
def Sys2Proof.Statements.BootCommands : Prop :=
  ∀ (s : State) (m : HostMsg), bootWhole s m →
    let t := (bootPiece s m).1
    let data := (bootPiece s m).2
    let b := t.boot
    let slot := leNat (data.take 1)
    let off := leNat ((data.drop 1).take 4)
    let refused (i : Instr) : Prop := exec i s = .next (bootAnswer t m 0x1003 [])
    let own := if b.owned then data.length - sigSize else data.length
    exec (.hello m) s = .next (bootAnswer t m 0 (bytesAt b.identity 0 48 ++ leBytes 1 b.step.code ++ leBytes 2 b.svnf ++ leBytes 8 b.selftest)) ∧
    (data.length < 1216 → refused (.keyx m)) ∧
    (1216 ≤ data.length → b.owned = true → Config.slhVerify b.ownerKey (data.take 1216) (data.drop 1216) = false →
      exec (.keyx m) s = .next (bootAnswer t m 0x1110 [])) ∧
    (1216 ≤ data.length → b.owned = false ∨ Config.slhVerify b.ownerKey (data.take 1216) (data.drop 1216) = true →
      let key := Config.hkdf (Config.mlkemEncap t.fresh ((data.drop 32).take 1184)).2 (data.take 32) cakLabel
      let u : State := { t with fresh := t.fresh + 1, boot := { b with keys := tput b.keys m.port key, keysAt := tput b.keysAt m.port t.cycle } }
      let v := bootAnswer u m 0 ((Config.mlkemEncap t.fresh ((data.drop 32).take 1184)).1 ++ attestation b (data.take 32) key)
      exec (.keyx m) s = .next (tryHandoff (at' v (t.cycle + 25000000) .handoffTimeout))) ∧
    (b.step = .step3 ∨ b.step = .step4 → exec (.boot m) s = .next { t with boot := { b with held := b.held ++ [{ m with data := data }] } }) ∧
    (b.step = .waiting → data = [] ∨ 2 < slot → refused (.boot m)) ∧
    (b.step = .waiting → data ≠ [] → slot ≤ 2 →
      (imageOk b slot = true → exec (.boot m) s = .next (bootFrom (bootAnswer t m 0 []) slot)) ∧
      (imageOk b slot = false → exec (.boot m) s = .next (bootAnswer (rejectSource t slot) m 0x7001 []))) ∧
    (b.step ≠ .step3 → b.step ≠ .step4 → b.step ≠ .waiting → refused (.boot m)) ∧
    (5 ≤ data.length → slot ≤ 1 → off + (data.length - 5) ≤ slotSize → b.booted ≠ some slot →
      exec (.fwwrite m) s = .next (bootAnswer { t with boot := if slot = 0 then { b with slotA := writeBytes b.slotA off (data.drop 5) }
        else { b with slotB := writeBytes b.slotB off (data.drop 5) } } m 0 [])) ∧
    (data.length < 5 ∨ 1 < slot ∨ slotSize < off + (data.length - 5) ∨ b.booted = some slot → refused (.fwwrite m)) ∧
    (65536 < own → refused (.ownerset m)) ∧
    (own ≤ 65536 → b.owned = true →
      (data.length < sigSize ∨ Config.slhVerify b.ownerKey (data.take own) (data.drop own) = false → exec (.ownerset m) s = .next (bootAnswer t m 0x1110 [])) ∧
      (sigSize ≤ data.length → Config.slhVerify b.ownerKey (data.take own) (data.drop own) = true →
        exec (.ownerset m) s = .next (bootAnswer { t with boot := { b with owner := writeBytes [] 0 (data.take own) } } m 0 []))) ∧
    (own ≤ 65536 → b.owned = false → exec (.ownerset m) s = .next (bootAnswer { t with boot := { b with owner := writeBytes [] 0 data } } m 0 []))

/-- Power that comes, a reset and a loss of power leave what the flash, the fuses and the cellar hold, and nothing of the rest; a step that exceeds its bound ends the boot; handoff takes place when both ports
hold keys, or one has held them for 1,000,000 ticks and the other has no link. What a board reset keeps, the byte that CTRL takes, and how RECOV is sampled, are the model's choices: entries 104 and 105. -/
def Sys2Proof.Statements.PowerAndHandoff : Prop :=
  ∀ s : State,
    let kept (t : State) : Prop := t.mem = [] ∧ t.cores = [] ∧ t.dies = [] ∧ t.cellar = s.cellar ∧ t.boot.slotA = s.boot.slotA ∧ t.boot.slotB = s.boot.slotB ∧
      t.boot.recovery = s.boot.recovery ∧ t.boot.identity = s.boot.identity ∧ t.boot.owner = s.boot.owner ∧ t.boot.svnf = s.boot.svnf
    (s.boot.step = .off → ∃ t, exec .powerOn s = .next t ∧ t.boot.step = .step1 ∧ t.cycle = 0 ∧ kept t) ∧
    (s.boot.step ≠ .off → exec .powerOn s = .next s) ∧
    (∃ t, exec .powerLoss s = .next t ∧ t.boot.step = .off ∧ t.timers = [] ∧ kept t) ∧
    (s.boot.step ≠ .off → ∃ t, exec .boardReset s = .next t ∧ t.boot.step = .step1 ∧ t.cycle = s.cycle ∧
      t.boot.recov = (s.boot.strap || s.board.wire.getLsbD 1) ∧ kept t) ∧
    (s.boot.step = .off → exec .boardReset s = .next s) ∧
    (s.board.wire.getLsbD 0 = false → ∃ t, exec .boardRecovRequest s = .next t ∧ t.board.ctrl = s.board.wire ∧ t.board.tdie = s.board.tdie ∧
      t.mem = s.mem ∧ t.cores = s.cores ∧ t.dies = s.dies ∧ t.boot = s.boot ∧ t.cellar = s.cellar) ∧
    (s.board.wire.getLsbD 0 = true → exec .boardRecovRequest s = exec .boardReset s) ∧
    (s.boot.step.bound = none → exec .bootStepTimeout s = .next s) ∧
    (∀ n, s.boot.step.bound = some n →
      (s.cycle ≤ s.boot.since + 25 * n → exec .bootStepTimeout s = .next s) ∧
      (s.boot.since + 25 * n < s.cycle → ∃ t, exec .bootStepTimeout s = .next t ∧ t.boot.step = .stopped ∧ t.boot.held = [] ∧ t.mem = s.mem ∧ t.cellar = s.cellar)) ∧
    (let both := (tfind s.boot.keys 0).isSome = true ∧ (tfind s.boot.keys 1).isSome = true
     let alone (p : Nat) := (∃ c, tfind s.boot.keysAt p = some c ∧ c + 25000000 ≤ s.cycle) ∧ tfind s.boot.keys (1 - p) = none ∧ hostPortUp s (1 - p) = false
     (s.boot.step = .handoff → both ∨ alone 0 ∨ alone 1 → ∃ t, exec .handoffTimeout s = .next t ∧
        t.boot = { s.boot with step := .running, open_ := [0, 1].filter (fun p => (tfind s.boot.keys p).isSome) } ∧
        t.mem = s.mem ∧ t.cores = s.cores ∧ t.dies = s.dies) ∧
     (s.boot.step ≠ .handoff ∨ ¬ (both ∨ alone 0 ∨ alone 1) → exec .handoffTimeout s = .next s))

/-- The boot-stage commands, and the power, the steps and the handoff of the boot. -/
def Obligations.BootEvents : Prop := BootPieces ∧ BootCommands ∧ PowerAndHandoff

/-! ## The host (R52, R299, R384, R396, R399 to R401) -/

/-- UCT before a command is served: before the handoff, on a port that took part in none or is out of service, and in a frame without MACsec, it is discarded; one of a TAG whose answers are kept is answered with them; while an
image is made, those that could change the device are refused CKPT_BUSY. An OP that names no boot-stage command is answered 0x01 where those are served. On which ports and frames a command is discarded is the model's choice: entry 100. -/
def Sys2Proof.Statements.HostPort : Prop :=
  ∀ (s : State) (m : HostMsg),
    let kept := (tget s.uctAnswers m.port []).filter (fun a => a.tag == m.tag)
    (¬ uctOpen s m → ∀ i ∈ uctReads m ++ uctChanges m, exec i s = .next s) ∧
    (uctOpen s m → kept ≠ [] → ∀ i ∈ uctReads m ++ uctChanges m, exec i s = .next (kept.foldl (fun u a => emit u (.answer a)) s)) ∧
    (uctOpen s m → kept = [] → ckptHolding s = true → ∀ i ∈ uctChanges m, exec i s = .next (hostError s m 0x8004)) ∧
    (m.boot = true → exec (.uctBadOp m) s =
      .next (if bootServed s.boot then emit s (.answer { m with status := 0x01, len := 2, data := leBytes 2 0x1001 }) else s)) ∧
    (∀ n, s.events.find? (fun x => x.1 == n) = none → exec (.eventResend n) s = .next s) ∧
    (∀ n e, s.events.find? (fun x => x.1 == n) = some e →
      exec (.eventResend n) s = .next (at' (emit s (.event n e.2)) (s.cycle + 250000) (.eventResend n)))

/-- MEMREAD, MEMWRITE, PMEMREAD and PMEMWRITE that are served: the bytes of the range are answered, or written, and a range that is not the host's is refused PROT; a request for a page that is at the host lets the device's
requests of the cycle come before it. Which requests of the device come first is the model's choice: entry 96. -/
def Sys2Proof.Statements.HostMemory : Prop :=
  ∀ (s : State) (m : HostMsg), uctServes s m →
    let asid := m.asid.toNat
    let va := m.addr.toNat
    let n := m.data.length
    let reads (ps : List (Nat × Nat)) (i : Instr) : Prop := ∀ till u, readHold s .host (hostKey m) 8 ps = (till, u) →
      (s.cycle < till → exec i s = .next (at' u till i)) ∧
      (till ≤ s.cycle → ∀ bs bad t, readRuns u .host 8 32 s.seq ps = (bs, bad, t) →
        exec i s = .next (if bad then hostError t m 0x1140 else if rebuilds s ps then at' t (s.cycle + 3) i else hostAnswer t m 0 bs))
    (hostYields s asid va = true → exec (.memread m) s = .next (later s (.ev (.memread m))) ∧
      (ckptHolding s = false → exec (.memwrite m) s = .next (later s (.ev (.memwrite m))))) ∧
    (hostYields s asid va = false →
      (4096 < m.len.toNat ∨ 2 ^ 56 < va + m.len.toNat → exec (.memread m) s = .next (hostError s m 0x1110)) ∧
      (m.len.toNat ≤ 4096 → va + m.len.toNat ≤ 2 ^ 56 →
        (∀ ps, hostRuns s asid false 4 va m.len.toNat = .ok ps → reads ps (.memread m)) ∧
        (∀ e, hostRuns s asid false 4 va m.len.toNat = .error e → exec (.memread m) s = .next (hostStopped s m false e))) ∧
      (ckptHolding s = false → 4096 < n ∨ 2 ^ 56 < va + n → exec (.memwrite m) s = .next (hostError s m 0x1110)) ∧
      (ckptHolding s = false → n ≤ 4096 → va + n ≤ 2 ^ 56 →
        (∀ ps, hostRuns s asid true 4 va n = .ok ps → exec (.memwrite m) s = .next (hostAnswer (storeRuns s ps m.data) m 0 [])) ∧
        (∀ e, hostRuns s asid true 4 va n = .error e → exec (.memwrite m) s = .next (hostStopped s m true e)))) ∧
    (4096 < m.len.toNat ∨ hostPhysical va m.len.toNat = false → exec (.pmemread m) s = .next (hostError s m 0x1110)) ∧
    (m.len.toNat ≤ 4096 → hostPhysical va m.len.toNat = true → reads (physRuns s va m.len.toNat) (.pmemread m)) ∧
    (ckptHolding s = false → 4096 < n ∨ hostPhysical va n = false → exec (.pmemwrite m) s = .next (hostError s m 0x1110)) ∧
    (ckptHolding s = false → n ≤ 4096 → hostPhysical va n = true → exec (.pmemwrite m) s = .next (hostAnswer (storeRuns s (physRuns s va n) m.data) m 0 []) ∧
      ((∀ w ∈ s.withdrawn, w.slot = none) → ∃ t, exec (.pmemwrite m) s = .next t ∧ t.cores = s.cores ∧ t.dies = s.dies ∧
        ∀ a, byteAt t.mem a = if va ≤ a ∧ a < va + n then m.data.getD (a - va) 0 else byteAt s.mem a))

/-- LAUNCH that is served: a record or an image outside its ranges is refused and starts nothing, one within them starts. PTROOT and INVAL start a shootdown, answered at its end; MIGRATE of a resident page of the device puts
it in flight; PAGEIN ends a fault that waits for the host. When the answer of a PTROOT goes out, what a LAUNCH checks of its image, the eight bytes of its answer, the answers of a MIGRATE of such pages, and what an uncorrectable error there does, are the model's choices: entries 97, 98, 21, 96 and 143. -/
def Sys2Proof.Statements.HostPages : Prop :=
  ∀ (s : State) (m : HostMsg), uctServes s m → ckptHolding s = false →
    let asid := m.asid.toNat
    let va := m.addr.toNat
    let words := bytesWords (m.data.length / 8) m.data
    let word := BitVec.ofNat 64 (leNat (m.data.take 8))
    let space := (wordOf words 0).toNat / 2 ^ 56
    let image := (wordOf words 1).toNat % 2 ^ 56
    (launchOk words = false → exec (.launch m) s = .next (hostError s m 0x1003)) ∧
    (∀ hd e t, launchOk words = true → peek s space image 8 = .words hd → textErrors s space image 64 = (e, t) →
      let good := headerOk image hd = true ∧ (∀ x ∈ launchCtxs words, x.toNat / 2 ^ 8 % 2 ^ 32 < (wordOf hd 1).toNat / 2 ^ 32 ∧ ctxTaken t x = false) ∧
        storeOk t space ((wordOf words 2).toNat % 2 ^ 56) (wordOf words 3).toNat = true ∧
        16 * t.launches.foldl (fun n l => if l.done then n else n + l.slots) (launchSlots words) ≤ 0x10000000
      (e = .rebuilt → exec (.launch m) s = .next (at' t (s.cycle + 3) (.launch m))) ∧
      (e = .uncorrectable → exec (.launch m) s = .next (hostError t m 0x1140)) ∧
      (e ≠ .rebuilt → e ≠ .uncorrectable → good →
        exec (.launch m) s = .next (hostAnswer (startLaunch t words hd) m 0 (leBytes 8 (startLaunch t words hd).launchNo))) ∧
      (e ≠ .rebuilt → e ≠ .uncorrectable → ¬ good → exec (.launch m) s = .next (hostError t m 0x1003))) ∧
    (∀ c e v, launchOk words = true → peek s space image 8 = .trap c e v → exec (.launch m) s = .next (hostError s m 0x1003)) ∧
    exec (.ptroot m) s = .next (startShootdown (onSpace s asid (fun a => { a with root := va })) asid none 0 (2 ^ 56) none (.host m)) ∧
    exec (.inval m) s = .next (startShootdown s asid none va (if m.data.length < 8 then m.len.toNat else leNat (m.data.take 8)) none (.host m)) ∧
    (hostYields s asid va = true → exec (.migrate m) s = .next (later s (.ev (.migrate m)))) ∧
    (∀ e, walk s asid va = .error e → exec (.migrate m) s = .next (hostError s m (hostCode e.trap.1)) ∧ exec (.pagein m) s = .next (hostError s m 0x1002)) ∧
    (∀ l, walk s asid va = .ok l →
      (hostYields s asid va = false → faultOf s asid l.va = none → l.home ≠ 0 ∨ l.pte = 0 → exec (.migrate m) s = .next (hostError s m 0x1110)) ∧
      (∀ f, faultOf s asid l.va = some f → exec (.migrate m) s = .next (hostRetry s m (if f.toHost then 1 else 0))) ∧
      (faultOf s asid l.va = none → l.home = 0 → l.pte ≠ 0 →
        (l.res = false → exec (.migrate m) s = .next (hostRetry s m 0)) ∧
        (l.res = true →
          let f : PageFault := { asid := asid, va := l.va, size := l.size, vint := 0, write := false, event := 0, toHost := true, again := false, waiters := [] }
          exec (.migrate m) s = .next (startShootdown { s with faults := s.faults ++ [f] } asid none l.va l.size (some [(l.frame, l.size)]) (.host m)))) ∧
      (faultOf s asid l.va = none → exec (.pagein m) s = .next (hostError s m 0x1002)) ∧
      (∀ f, faultOf s asid l.va = some f →
        (f.toHost = true → exec (.pagein m) s = .next (hostError s m 0x1002)) ∧
        (f.toHost = false → word.getLsbD 63 = true → exec (.pagein m) s = .next (refusePage s m asid l f)) ∧
        (f.toHost = false → word.getLsbD 63 = false → exec (.pagein m) s = .next (bringPage s m asid l f word)) ∧
        (f.toHost = false → word.getLsbD 63 = false → f.waiters = [] → s.poste = [] →
          ∃ t, exec (.pagein m) s = .next t ∧ faultOf t asid l.va = none ∧
            ∀ a, (∀ i, i < (if l.size = 65536 then 16 else 1) → a < l.pte + 16 * i ∨ l.pte + 16 * i + 8 ≤ a) → byteAt t.mem a = byteAt s.mem a)))

/-- SETID, LISTSET, AMOQUERY, EVENTACK and an OP that names no command, served: the domain's index and prefix, an entry of the list table, a recorded answer, an event not sent again, and the answer 0x01. The bytes of a LISTSET and when a SETID is refused are the model's choices: entries 21 and 99. -/
def Sys2Proof.Statements.HostSettings : Prop :=
  ∀ (s : State) (m : HostMsg), uctServes s m →
    let va := m.addr.toNat
    let word := leNat (m.data.take 8)
    let refusal := 4095 < va ∨ (s.devid.isSome = true ∧ ∃ l ∈ s.launches, l.done = false)
    (ckptHolding s = false → ¬ refusal → exec (.setid m) s = .next (hostAnswer { s with devid := some va, ipPrefix := BitVec.ofNat 64 word } m 0 [])) ∧
    (ckptHolding s = false → refusal → exec (.setid m) s = .next (hostError s m 0x1003)) ∧
    (let new := (List.range (word / 2 ^ 32 % 2 ^ 13)).map (fun i => leNat ((m.data.drop (16 + 2 * i)).take 2) % 4096)
     let old := (tget s.lists (va % 1024) { valid := false, members := [], grp := 0 }).members
     let entry : MailList := { valid := decide (word % 2 = 1), members := (old.take (word / 2 ^ 16 % 2 ^ 13) ++ new).take 4096, grp := leNat ((m.data.drop 8).take 8) }
     ckptHolding s = false → exec (.listset m) s = .next (hostAnswer { s with lists := tput s.lists (va % 1024) entry } m 0 [])) ∧
    exec (.amoquery m) s = .next (hostAnswer s m 0 (wordsBytes (match answerFor s va word with
      | some a => [1, BitVec.ofNat 64 a.status, a.value] | none => [0, 0, 0]))) ∧
    exec (.eventack m) s = .next (hostAnswer { s with events := s.events.filter (fun x => x.1 != va) } m 0 []) ∧
    (m.boot = false → exec (.uctBadOp m) s = .next (hostAnswer s m 0x01 (leBytes 2 0x1001)))

/-- The commands of the host: when they are served, and what those that are served do. -/
def Obligations.HostCommands : Prop := HostPort ∧ HostMemory ∧ HostPages ∧ HostSettings

/-! ## The fabric (R248, R252, R275, R379 to R397) -/

/-- A frame that is not the device's is discarded and counted at its port, and so is an answer that echoes another epoch, and a multicast without a byte of a line. What is looked at again inside the device, at the model's own
ports, has been counted already: a request that does not stand first in its flow's stall changes nothing. -/
def Sys2Proof.Statements.FramesDiscarded : Prop :=
  ∀ (f : Frame) (s : State),
    let dropped : Out := .next { s with discards := tput s.discards f.port (tget s.discards f.port 0 + 1) }
    (frameOurs s f = false → f.port ≠ innerPort → f.port ≠ stallPort → ∀ i ∈ requests f ++ [.uftGet f, .uftMcast f], exec i s = dropped) ∧
    (f.payload.length < 9 → f.port ≠ innerPort → f.port ≠ stallPort → exec (.uftMcast f) s = dropped) ∧
    (f.port = stallPort → (flowOf s f.src.toNat).stall.head? ≠ some f → ∀ i ∈ requests f ++ [.uftGet f], exec i s = .next s) ∧
    (f.port = stallPort → (recvOf s f).stall.head? ≠ some f → exec (.uftMcast f) s = .next s) ∧
    (frameOurs s f = false → exec (.uftAck f) s = dropped ∧ exec (.uftReset f) s = dropped) ∧
    (frameOurs s f = true → f.aux2.toNat % 65536 ≠ s.epoch.toNat → exec (.uftAck f) s = dropped) ∧
    (answerOurs s f = false → exec (.uftGetdata f) s = dropped ∧ exec (.uftResult f) s = dropped) ∧
    (∀ p, exec (.frameDiscard p) s = .next { s with discards := tput s.discards p (tget s.discards p 0 + 1) })

/-- A sequenced request that is neither the next of its flow nor a repeated one is not performed; one whose answer is recorded is answered with it; one that comes in its turn is performed, and a repeated one is looked at again
where its answer is still to come: an END answers once its bytes are visible, an AMO changes its bytes once, and a POST whose checks need a page that is
not resident is looked at every 64 cycles. The retries every 64 cycles, and that a reader of a handle waits for its page, are the model's choices: entries 161 and 42. -/
def Sys2Proof.Statements.RequestsPerformed : Prop :=
  ∀ (f : Frame) (s t : State),
    let dev := f.src.toNat
    let n := f.opid.toNat
    let o := (servedFor t dev n).getD (newServed dev n)
    let due (u : State) (at_ : Nat) : State := at' (putServed u { o with due := some at_ }) at_ (.uftEnd (innerFrame f))
    let fails (u : State) (e : Nat) : Out := .next (handOn (answerOp (dropServed u dev n) dev n e 0) f false)
    (arrive s f = (.other, t) → ∀ i ∈ requests f ++ [.uftGet f], exec i s = .next t) ∧
    (∀ a, answerFor t dev n = some a →
      (arrive s f = (.next, t) → ∀ i ∈ requests f, exec i s = .next (handOn (sendResult t dev a.opid a.status a.value) f false)) ∧
      (arrive s f = (.again, t) → ∀ i ∈ requests f, exec i s = .next (sendResult t dev a.opid a.status a.value))) ∧
    (arrive s f = (.next, t) → exec (.uftGet f) s = .next (handOn (serveGet f t) f false)) ∧
    (arrive s f = (.again, t) → exec (.uftGet f) s = .next (serveGet f t)) ∧
    (arrive s f = (.again, t) → answerFor t dev n = none →
      (∀ i ∈ [Instr.uftPut f, .uftNotify f, .uftCancel f], exec i s = .next t) ∧
      (servedFor t dev n = none → exec (.uftPost f) s = .next t) ∧
      ((servedFor t dev n).isSome = true → exec (.uftPost f) s = .next (servePost f t)) ∧
      (servedFor t dev n = none → exec (.uftEnd f) s = .next t ∧ exec (.uftAmo f) s = .next t) ∧
      (∀ o, servedFor t dev n = some o → o.due = none → exec (.uftEnd f) s = .next t ∧ exec (.uftAmo f) s = .next (startAmo f t)) ∧
      (∀ o at_, servedFor t dev n = some o → o.due = some at_ →
        exec (.uftEnd f) s = .next (if at_ ≤ t.cycle then answerOp (dropServed t dev o.opid) dev o.opid o.failed 0 else t)) ∧
      (∀ o at_, servedFor t dev n = some o → o.due = some at_ →
        let size := if f.aux.toNat / 16 % 2 = 1 then 8 else 4
        let back (u : State) (till : Nat) : Out := .next (at' (putServed u { o with due := some till }) till (.uftAmo (innerFrame f)))
        (t.cycle < at_ → exec (.uftAmo f) s = .next t) ∧
        (at_ ≤ t.cycle → ∀ till u, readHold t (.remote dev) n 8 [(o.bytes, size)] = (till, u) →
          (t.cycle < till → exec (.uftAmo f) s = back u till) ∧
          (till ≤ t.cycle → ∀ lost v e w, linkError u 8 o.bytes = (lost, v) → readErrors v o.bytes size = (e, w) →
            (lost = true ∨ e = .uncorrectable → exec (.uftAmo f) s = .next (answerOp (dropServed w dev n) dev n 0x40 0)) ∧
            (lost = false → e = .rebuilt → exec (.uftAmo f) s = back w (t.cycle + 3)) ∧
            (lost = false → e ≠ .uncorrectable → e ≠ .rebuilt →
              let old := natAt w.mem o.bytes size
              let ws := bytesWords 2 f.payload
              exec (.uftAmo f) s = .next (answerOp (dropServed (storeBytes w o.bytes
                (leBytes size (amoNew (amoOf (f.aux.toNat % 16)) size old (wordOf ws 0).toNat (wordOf ws 1).toNat))) dev n) dev n 0 (BitVec.ofNat 64 old))))))) ∧
    (arrive s f = (.next, t) → answerFor t dev n = none →
      (∀ e u, outerParts f.asid.toNat 8 f.va.toNat f.payload.length t = (.error e, u) →
        exec (.uftPut f) s = .next (handOn (putServed u { o with failed := if o.failed = 0 then e else o.failed }) f false)) ∧
      (∀ ps u, outerParts f.asid.toNat 8 f.va.toNat f.payload.length t = (.ok ps, u) →
        (posteRoom u ps.2 = false → exec (.uftPut f) s = .next (handOn u f true)) ∧
        (posteRoom u ps.2 = true → ∀ at_ v, outerWrite u (.remote dev) false f.asid.toNat u.cycle f.va.toNat f.payload ps = (at_, v) →
          exec (.uftPut f) s = .next (handOn (putServed v { o with bytes := max o.bytes at_ }) f false))) ∧
      (o.failed ≠ 0 → exec (.uftEnd f) s = fails t o.failed) ∧
      (o.failed = 0 → f.va = 0 → exec (.uftEnd f) s = .next (handOn (due t (max t.cycle o.bytes)) f false)) ∧
      (o.failed = 0 → f.va ≠ 0 → f.va.toNat % 8 ≠ 0 → exec (.uftEnd f) s = fails t Cause.align.code) ∧
      (o.failed = 0 → f.va ≠ 0 → f.va.toNat % 8 = 0 →
        (∀ e u, outerParts f.asid.toNat 2 f.va.toNat 8 t = (.error e, u) → exec (.uftEnd f) s = fails u e) ∧
        (∀ ps u, outerParts f.asid.toNat 2 f.va.toNat 8 t = (.ok ps, u) →
          (posteRoom u ps.2 = false → exec (.uftEnd f) s = .next (handOn u f true)) ∧
          (posteRoom u ps.2 = true → ∀ at_ v, outerWrite u (.remote dev) true f.asid.toNat o.bytes f.va.toNat (wordBytes 1) ps = (at_, v) →
            exec (.uftEnd f) s = .next (handOn (due v (max at_ o.bytes)) f false)))) ∧
      exec (.uftAmo f) s = .next (handOn (startAmo f t) f false) ∧
      (f.aux.toNat < 8 → postAwaits t f.aux.toNat (.remote dev n) (bytesWords 32 f.payload) = none → ∀ e u, recordNeeds t (bytesWords 32 f.payload) = (e, u) →
        (e = .rebuilt → exec (.uftPost f) s = .next (handOn (at' (putServed u (newServed dev n)) (t.cycle + 3) (.uftPost (innerFrame f))) f false)) ∧
        (e ≠ .rebuilt → exec (.uftPost f) s = .next (handOn
          (let r := remotePost t f.aux.toNat (bytesWords 32 f.payload)
           answerOp (dropServed r.2 dev n) dev n r.1.1 (BitVec.ofNat 64 r.1.2)) f false))) ∧
      (f.aux.toNat < 8 → ∀ l, postAwaits t f.aux.toNat (.remote dev n) (bytesWords 32 f.payload) = some l → exec (.uftPost f) s = .next (handOn
        (at' (putServed (requestPage t (recAsid (bytesWords 32 f.payload)) 0 false l (some (.remote dev n))) (newServed dev n)) (t.cycle + 64)
          (.uftPost (innerFrame f))) f false)) ∧
      (8 ≤ f.aux.toNat → exec (.uftPost f) s = .next (handOn (answerOp (dropServed t dev n) dev n 0x51 0) f false)) ∧
      exec (.uftNotify f) s = .next (handOn (answerOp (notifyWindow t (f.aux.toNat % 8) (frameSerial f)) dev n 0 0) f false) ∧
      exec (.uftCancel f) s = .next (handOn
        (let r := cancelTask t (f.aux.toNat % 8) (frameSerial f); answerOp r.2 dev n 0 (BitVec.ofNat 64 r.1)) f false))

/-- The frames of a list flow in their order, and the answers: the next frame of a list is acknowledged and delivered, a later one kept, an earlier one answered again; each piece of an RGET is taken once, and a RESULT completes its command, traps it, or lands in its context. That a member keeps its answers with the list flow, and the one OPID of an MCAST, are the model's choices: entries 161 and 64. -/
def Sys2Proof.Statements.AnswersTaken : Prop :=
  (∀ (f : Frame) (s : State), frameOurs s f = true → 9 ≤ f.payload.length → f.port ≠ innerPort → f.port ≠ stallPort →
    let dev := f.src.toNat
    let list := f.aux2.toNat % 1024
    let t := takeEpoch s f
    let r := recvOf t f
    let k := (f.psn.toNat + 2 ^ 32 - r.psn) % 2 ^ 32
    let taken (x : ListRecv) : State := sendListAck (onRecv t f (fun _ => { x with ece := r.ece || f.ce })) f
    (ckptHolding s = true → exec (.uftMcast f) s = .next (sendHold s f (some list))) ∧
    (ckptHolding s = false → r.known = false → f.psn ≠ 0 → r.resetSent = false ∨ f.retry = false →
      exec (.uftMcast f) s = .next (sendReset (onRecv t f (fun x => { x with resetSent := true, ece := x.ece || f.ce })) dev (some list))) ∧
    (ckptHolding s = false → r.known = false → f.psn = 0 ∨ (r.resetSent = true ∧ f.retry = true) → exec (.uftMcast f) s =
      .next (takeMcast f (taken { r with known := true, resetSent := false, psn := (f.psn.toNat + 1) % 2 ^ 32 }))) ∧
    (ckptHolding s = false → r.known = true →
      (k = 0 → exec (.uftMcast f) s = .next (takeMcast f (taken { r with psn := (r.psn + 1) % 2 ^ 32 }))) ∧
      (0 < k → k < 1024 → exec (.uftMcast f) s =
        .next (taken (if r.buffer.any (fun g => g.psn == f.psn) then r else { r with buffer := r.buffer ++ [{ f with ce := false }] }))) ∧
      (1024 ≤ k → k < 2 ^ 31 → ∃ u, exec (.uftMcast f) s = .next u ∧ tget u.discards f.port 0 = tget s.discards f.port 0 + 1 ∧
        recvOf u f = { r with ece := r.ece || f.ce } ∧ u.mem = s.mem) ∧
      (2 ^ 31 ≤ k → exec (.uftMcast f) s = .next (match r.answers.find? (fun a => a.opid == f.opid.toNat) with
        | some a => sendResult (taken r) dev a.opid a.status a.value
        | none => listDue f (taken r))))) ∧
  (∀ (f : Frame) (s : State), f.port = stallPort → (recvOf s f).stall.head? = some f →
    exec (.uftMcast f) s = .next (serveMcast f (onRecv s f (fun x => { x with stall := x.stall.drop 1 })))) ∧
  (∀ (f : Frame) (s : State), f.port = innerPort → exec (.uftMcast f) s = .next (listDue f s)) ∧
  (∀ (f : Frame) (s : State), answerOurs s f = true →
    let status := f.aux.toNat
    let value := wordOf (bytesWords 1 f.payload) 0
    let t := noteMark s f
    (opFor s f = none → exec (.uftGetdata f) s = .next t) ∧
    (opFor s f = none → s.mcasts.find? (fun o => o.opids.contains (f.src.toNat, f.opid.toNat)) = none → exec (.uftResult f) s = .next t) ∧
    (∀ o, opFor s f = none → s.mcasts.find? (fun o => o.opids.contains (f.src.toNat, f.opid.toNat)) = some o →
      ∃ u, exec (.uftResult f) s = .next (mcastAnswer u o.id f.src.toNat status) ∧ u.mcasts = s.mcasts ∧ u.mem = s.mem) ∧
    (∀ o d c id m, opFor s f = some o → o.user = .cmd d c id → (coreOf s d c).cmdOf id = some m →
      let u0 := dropOp t o.dev o.opid
      let off := f.va.toNat - (wordOf m.params 1).toNat
      let ps := getPieces (wordOf m.params 1).toNat (fabLen m.params) 4098 0
      let u := onCmd t d c id (fun y => { y with data := y.data ++ f.payload, aux := y.aux ++ [off, f.payload.length], seen := off :: y.seen })
      let v := if m.seen.length + 1 = ps.length then dropOp u o.dev o.opid else u
      (ps.contains (off, f.payload.length) = false ∨ off ∈ m.seen → exec (.uftGetdata f) s = .next t) ∧
      (ps.contains (off, f.payload.length) = true → off ∉ m.seen →
        exec (.uftGetdata f) s = .next (if m.aux = [] then at' v v.cycle (.engineUnitLand d c id) else v)) ∧
      (status ≠ 0 → exec (.uftResult f) s = .next (cmdTrap u0 d c m false { trapAt .fabricNack f.src.toNat with error := 0x5000 + status })) ∧
      (status = 0 → m.kind ≠ .ramo → exec (.uftResult f) s = .next (doneCmd u0 d c id s.cycle)) ∧
      (status = 0 → m.kind = .ramo → exec (.uftResult f) s =
        .next (at' (onCmd u0 d c id (fun y => { y with data := wordBytes value })) s.cycle (.engineUnitLand d c id)))) ∧
    (∀ o d set dst, opFor s f = some o →
      (o.user = .rpost d set dst → exec (.uftResult f) s = .next (ccDeliver (dropOp t o.dev o.opid) d set s.cycle [.cc set dst (remoteAnswer (status, value.toNat))])) ∧
      (o.user = .cancel d set dst →
        exec (.uftResult f) s = .next (ccDeliver (dropOp t o.dev o.opid) d set s.cycle [.cc set dst (if status = 0 then value else BitVec.ofNat 64 status)]))))

/-- The acknowledgements, the timers and the ports: an ACK of the present epoch acts on its flow, a RESET starts the flows anew; the ACK that is owed, the resends, the rate, the RESET of a route that is down and the answers'
expiry come when they are due; a port's link comes and goes, and a multicast's receipt is written once its writes are performed. The rate and the timeouts of a list flow, and which routes the loss of a port takes down, are the model's choices: entries 161 and 162. -/
def Sys2Proof.Statements.FlowsKept : Prop :=
  (∀ (f : Frame) (s : State), frameOurs s f = true →
    (f.aux2.toNat % 65536 = s.epoch.toNat →
      (f.aux.getLsbD 0 = false → exec (.uftAck f) s = .next (flowAck f s)) ∧ (f.aux.getLsbD 0 = true → exec (.uftAck f) s = .next (listAck f s))) ∧
    (f.aux.getLsbD 0 = false → let u := clearFlow (routeDown (takeEpoch s f) f.src.toNat) f.src.toNat
      exec (.uftReset f) s = .next (sendFrame u f.src.toNat (ackFrame u f.src.toNat f.epoch.toNat none false 0 0 f.ce))) ∧
    (f.aux.getLsbD 0 = true → ∀ x, (listUnacked s (f.va.toNat % 1024) f.src.toNat).find? (fun y => !y.acked) = some x →
      exec (.uftReset f) s = .next (resend (noteMark s f) f.src.toNat x.frame)) ∧
    (f.aux.getLsbD 0 = true → (listUnacked s (f.va.toNat % 1024) f.src.toNat).find? (fun y => !y.acked) = none → exec (.uftReset f) s = .next (noteMark s f))) ∧
  (∀ (s : State) (n : Nat),
    let fl := flowOf s n
    ((∀ t, fl.ackDue = some t → s.cycle < t) → exec (.ackTimer n) s = .next s) ∧
    (∀ t, fl.ackDue = some t → t ≤ s.cycle → exec (.ackTimer n) s = .next (sendAck s n)) ∧
    (∀ psn, n < 4096 → exec (.retransmitTimeout n psn) s = .next (flowTimeout s n psn)) ∧
    (∀ psn, 4096 ≤ n → exec (.retransmitTimeout n psn) s = .next (listTimeout s n psn)) ∧
    ((rateOf s n).raiseAt ≠ some s.cycle → exec (.rateIncreaseTimer n) s = .next s) ∧
    ((rateOf s n).raiseAt = some s.cycle → ∃ t, exec (.rateIncreaseTimer n) s = .next t ∧
      let r := rateOf s n
      let r' := rateOf t n
      (800 * 2 ^ r.halvings ≤ r.num + 8 * 2 ^ r.halvings → r'.num = 800 ∧ r'.halvings = 0 ∧ r'.raiseAt = none) ∧
      (r.num + 8 * 2 ^ r.halvings < 800 * 2 ^ r.halvings →
        r'.num = r.num + 8 * 2 ^ r.halvings ∧ r'.halvings = r.halvings ∧ r'.raiseAt = some (s.cycle + 4800) ∧ (s.cycle + 4800, .rateIncreaseTimer n) ∈ t.timers)) ∧
    (fl.up = true ∨ fl.resetAt ≠ some s.cycle → exec (.resetResend n) s = .next s) ∧
    (fl.up = false → fl.resetAt = some s.cycle → exec (.resetResend n) s =
      .next (at' (onFlow (sendReset s n none) n (fun x => { x with resetSent := x.resetSent || (s.devid.isSome && (portOf s n).isSome), resetAt := some (s.cycle + 2500000) })) (s.cycle + 2500000) (.resetResend n))) ∧
    exec (.portLinkUp n) s = .next { s with ports := tput s.ports n true } ∧
    (∃ t, exec (.portLinkDown n) s = .next t ∧ tget t.ports n true = false ∧ t.mem = s.mem) ∧
    (∀ k, ∃ t, exec (.answerTableExpiry n k) s = .next t ∧ (∀ p, p ≠ n → tget t.answers p [] = tget s.answers p []) ∧
      tget t.answers n [] = keptAnswers s.cycle (tget s.answers n []) ∧ t.mem = s.mem ∧ t.cores = s.cores ∧ t.dies = s.dies) ∧
    (s.mcasts.find? (fun o => o.id == n) = none → exec (.mcastReceiptWrite n) s = .next s) ∧
    (∀ o m t due, s.mcasts.find? (fun o => o.id == n) = some o → (coreOf s o.die o.core).cmdOf o.cmd = some m →
      (∀ w ∈ s.writes, w.agent = m.agent o.die o.core → w.due ≤ s.cycle) → engineWrite o.die o.core m true 16 o.receipt (wordsBytes (receiptWords o)) s = (.ok due, t) →
      exec (.mcastReceiptWrite n) s = .next (doneCmd { t with mcasts := t.mcasts.filter (fun x => x.id != n) } o.die o.core m.id due)))

/-- The frames of the fabric as they arrive, the requests performed once, the answers taken, and the flows with their timers. -/
def Obligations.FabricEvents : Prop := FramesDiscarded ∧ RequestsPerformed ∧ AnswersTaken ∧ FlowsKept

/-! ## The step (R27, R28, R40, R54, R421) -/

/-- A STEP RUNS THE DECODED WORD. When the first act of the cycle is a word of a processor that has not trapped in it, and its eight bytes, or its four of a courier, decode, step is exec of the instruction with the focus on the
processor and the word's address, where no soft error has struck, or where the word's predicate does not hold, which raises no fault (R31); a word that fails a check is the event that it is none; an event that is the first act is run. -/
def Obligations.StepRunsDecodedWord : Prop :=
  ∀ (s : State) (a : Nat) (rest : List Act),
    let t : State := { s with agenda := rest }
    let focused (d c : Nat) : State := { t with focus := { die := d, core := c, pc := a } }
    (∀ d w i, s.strikes = [] ∨ readsOperands t (.cc d) a = false → s.agenda = .word (.cc d) a :: rest → wordFor t (.cc d) a = some w →
      (checkWord true w = .ok i → decode (wordBytes w) = some i ∧ step s = exec i (focused d 0)) ∧
      (∀ e, checkWord true w = .error e → step s = exec (.encodingNotInstruction (.cc d) e) (focused d 0))) ∧
    (∀ d c w i, ∀ p ∈ [Proc.ap d c, .xp d c], s.strikes = [] ∨ readsOperands t p a = false → s.agenda = .word p a :: rest → trappedNow t p = false → wordFor t p a = some w →
      (checkWord false w = .ok i → decode (wordBytes w) = some i ∧ step s = exec i (focused d c)) ∧
      (∀ e, checkWord false w = .error e → step s = exec (.encodingNotInstruction p e) (focused d c))) ∧
    (∀ d c w i, s.strikes = [] → s.agenda = .word (.courier d c) a :: rest → courierWordAt t d c a = some w →
      checkCourier w = .ok i → decode (leBytes 4 w.toNat) = some i ∧ step s = exec i (focused d c)) ∧
    (∀ i, s.agenda = .ev i :: rest → step s = exec i t)

/-- When no act is left the next cycle begins: the events due in it and the inputs that have come are among its acts. CYCLE rises by one and nothing else changes where no soft error has struck and no write of INJ or INJMEM and
no injection that a row has used is settled as it begins. A module without power waits for it. That a module without power faults but for a power-on is the model's choice: entry 112. -/
def Obligations.NextCycleBegins : Prop :=
  ∀ s : State, s.agenda = [] →
    (s.boot.step ≠ .off → ∃ t, step s = .next t ∧
      (∀ x ∈ s.timers, x.1 ≤ s.cycle + 1 → Act.ev x.2 ∈ t.agenda) ∧ (∀ i ∈ s.inbox, Act.ev i ∈ t.agenda) ∧ (∀ d, d < 8 → Act.issue (.cc d) ∈ t.agenda) ∧
      (s.strikes = [] → (∀ d, d < 8 → (dieOf s d).injUsed = false ∧
          ∀ o n v, readyOutward (s.cycle + 1) [] ((ctlOf s d).outward.filter (fun o => o.set = 8)) = some o → o.act = .sysw n v → n ≠ 0x220000 ∧ n ≠ 0x220001) →
        t = { s with cycle := s.cycle + 1, timers := s.timers.filter (fun x => decide (s.cycle + 1 < x.1)), inbox := [], agenda := t.agenda })) ∧
    (s.boot.step = .off → .powerOn ∉ s.inbox → step s = .fault .poweredOff) ∧
    (s.boot.step = .off → .powerOn ∈ s.inbox → step s = exec .powerOn { s with inbox := s.inbox.filter (fun i => i != .powerOn) })

/-- MEMORY KEEPS ITS CANONICAL FORM: in a state whose memory, and whose images in the cellar, list no byte twice, in rising order and no
byte that an unlisted address reads as, every step that answers a next state leaves it so. -/
def Obligations.StepKeepsCanonicalMemory : Prop :=
  ∀ s t : State, canonical s → step s = .next t → canonical t

/-- The machine after reset: CYCLE is 0, memory holds no byte but zeros and is in its canonical form, and no task runs. Of every core the AP's and the XP's registers, masks, predicates, offsets and latches, the register space, the queues and the half read
zero or hold nothing, but for m0 and p0, which are wired, and the four views are the defaults of R42; of every control core the registers of every context's set and of the monitor's, their predicates but p0, and the registers of an exception read zero (the
zeros of the registers and of memory for which the manual states no reset value are the model's choice: entries 1 and 2). -/
def Obligations.ResetState : Prop :=
  let s := State.reset
  s.cycle = 0 ∧ canonical s ∧ (∀ a, byteAt s.mem a = 0) ∧ s.launches = [] ∧ s.devid = none ∧
  (∀ d c, let x := coreOf s d c
    x.task = none ∧ x.cmds = [] ∧ (∀ n, x.aGet n = 0) ∧
    x.view 0 = 0x000031000001FE00 ∧ x.view 1 = 0x0000880000000000 ∧ x.view 2 = 0x0000A20000000000 ∧ x.view 3 = 0x0000C08000000000 ∧
    (∀ n, x.amGet n = if n = 0 then BitVec.allOnes 64 else 0) ∧ (∀ n, x.xmGet n = if n = 0 then BitVec.allOnes 256 else 0) ∧
    (∀ n, predGet x.apPreds n = decide (n = 0) ∧ predGet x.xpPreds n = decide (n = 0)) ∧
    (∀ n, x.oGet n = 0) ∧ (∀ n, x.latch n = 0) ∧ (∀ n, byteAt x.space n = 0) ∧ (∀ n, tget x.aq n [] = [] ∧ tget x.xq n [] = []) ∧ x.bq = [] ∧
    x.half = 0 ∧ x.mark = 0) ∧
  (∀ d n, let x := ctlOf s d
    (∀ k, (x.ctxOf n).regs.get k = 0 ∧ predGet (x.ctxOf n).regs.p k = decide (k = 0)) ∧
    x.tvec = 0 ∧ x.epc = 0 ∧ x.ecause = 0 ∧ x.einfo = 0 ∧ x.escratch = 0)

end Statements
end

