-- ==== Sys2Proof/Laws/Encoding.lean ====
section
/-! SUPPORT. The fields of an encoded word, read back by the decoder. -/

namespace Sys2Proof

theorem append_bit {n m k : Nat} (x : BitVec n) (y : BitVec m) (h : n + m = k) (i : Nat) :
    ((x ++ y).cast h).getLsbD i = if i < m then y.getLsbD i else x.getLsbD (i - m) := by
  subst h
  simp [BitVec.getLsbD_append]

/-- The bits of a word (R28). -/
theorem mkWord_bit (e : BitVec 3) (j : BitVec 5) (n : BitVec 6) (h : Hdr) (b : BitVec 45) (i : Nat) :
    (mkWord e j n h b).getLsbD i =
      if i < 45 then b.getLsbD i
      else if i < 48 then h.pred.getLsbD (i - 45)
      else if i < 49 then (BitVec.ofBool h.n).getLsbD (i - 48)
      else if i < 55 then n.getLsbD (i - 49)
      else if i < 60 then j.getLsbD (i - 55)
      else if i < 61 then (BitVec.ofBool h.s).getLsbD (i - 60)
      else e.getLsbD (i - 61) := by
  have h0 := append_bit h.pred b (k := 48) rfl
  have h1 := append_bit (BitVec.ofBool h.n) (h.pred ++ b) (k := 49) rfl
  have h2 := append_bit n (BitVec.ofBool h.n ++ (h.pred ++ b)) (k := 55) rfl
  have h3 := append_bit j (n ++ (BitVec.ofBool h.n ++ (h.pred ++ b))) (k := 60) rfl
  have h4 := append_bit (BitVec.ofBool h.s) (j ++ (n ++ (BitVec.ofBool h.n ++ (h.pred ++ b)))) (k := 61) rfl
  have h5 := append_bit e (BitVec.ofBool h.s ++ (j ++ (n ++ (BitVec.ofBool h.n ++ (h.pred ++ b))))) (k := 64) rfl
  refine (h5 i).trans ?_
  by_cases c5 : i < 61
  · rw [if_pos c5]
    refine (h4 i).trans ?_
    by_cases c4 : i < 60
    · rw [if_pos c4]
      refine (h3 i).trans ?_
      by_cases c3 : i < 55
      · rw [if_pos c3]
        refine (h2 i).trans ?_
        by_cases c2 : i < 49
        · rw [if_pos c2]
          refine (h1 i).trans ?_
          by_cases c1 : i < 48
          · rw [if_pos c1]
            refine (h0 i).trans ?_
            simp [c1]
          · rw [if_neg c1]; simp [c1, c2, show ¬ i < 45 by omega]
        · rw [if_neg c2]; simp [c2, c3, show ¬ i < 45 by omega, show ¬ i < 48 by omega]
      · rw [if_neg c3]; simp [c3, c4, show ¬ i < 45 by omega, show ¬ i < 48 by omega, show ¬ i < 49 by omega]
    · rw [if_neg c4]
      simp [c4, c5, show ¬ i < 45 by omega, show ¬ i < 48 by omega, show ¬ i < 49 by omega, show ¬ i < 55 by omega]
  · rw [if_neg c5]
    simp [c5, show ¬ i < 45 by omega, show ¬ i < 48 by omega, show ¬ i < 49 by omega, show ¬ i < 55 by omega, show ¬ i < 60 by omega]

@[simp] theorem eng_mkWord (e : BitVec 3) (j : BitVec 5) (n : BitVec 6) (h : Hdr) (b : BitVec 45) :
    (mkWord e j n h b).extractLsb' 61 3 = e := by
  ext i hi
  rw [BitVec.getElem_extractLsb', mkWord_bit]
  simp [show ¬ 61 + i < 45 by omega, show ¬ 61 + i < 48 by omega, show ¬ 61 + i < 49 by omega, show ¬ 61 + i < 55 by omega, show ¬ 61 + i < 60 by omega, show ¬ 61 + i < 61 by omega, hi]

@[simp] theorem maj_mkWord (e : BitVec 3) (j : BitVec 5) (n : BitVec 6) (h : Hdr) (b : BitVec 45) :
    (mkWord e j n h b).extractLsb' 55 5 = j := by
  ext i hi
  rw [BitVec.getElem_extractLsb', mkWord_bit]
  simp [show ¬ 55 + i < 45 by omega, show ¬ 55 + i < 48 by omega, show ¬ 55 + i < 49 by omega, show ¬ 55 + i < 55 by omega, show 55 + i < 60 by omega, hi]

@[simp] theorem min_mkWord (e : BitVec 3) (j : BitVec 5) (n : BitVec 6) (h : Hdr) (b : BitVec 45) :
    (mkWord e j n h b).extractLsb' 49 6 = n := by
  ext i hi
  rw [BitVec.getElem_extractLsb', mkWord_bit]
  simp [show ¬ 49 + i < 45 by omega, show ¬ 49 + i < 48 by omega, show ¬ 49 + i < 49 by omega, show 49 + i < 55 by omega, hi]

@[simp] theorem pred_mkWord (e : BitVec 3) (j : BitVec 5) (n : BitVec 6) (h : Hdr) (b : BitVec 45) :
    (mkWord e j n h b).extractLsb' 45 3 = h.pred := by
  ext i hi
  rw [BitVec.getElem_extractLsb', mkWord_bit]
  simp [show ¬ 45 + i < 45 by omega, show 45 + i < 48 by omega, hi]

@[simp] theorem bit60_mkWord (e : BitVec 3) (j : BitVec 5) (n : BitVec 6) (h : Hdr) (b : BitVec 45) :
    (mkWord e j n h b)[60] = h.s := by
  rw [← BitVec.getLsbD_eq_getElem, mkWord_bit]; simp

@[simp] theorem bit48_mkWord (e : BitVec 3) (j : BitVec 5) (n : BitVec 6) (h : Hdr) (b : BitVec 45) :
    (mkWord e j n h b)[48] = h.n := by
  rw [← BitVec.getLsbD_eq_getElem, mkWord_bit]; simp

/-- A field of the body. -/
theorem body_mkWord (e : BitVec 3) (j : BitVec 5) (n : BitVec 6) (h : Hdr) (b : BitVec 45) (lo len : Nat) (hl : lo + len ≤ 45) :
    (mkWord e j n h b).extractLsb' lo len = b.extractLsb' lo len := by
  ext i hi
  rw [BitVec.getElem_extractLsb', BitVec.getElem_extractLsb', mkWord_bit, if_pos (by omega)]

@[simp] theorem hdrOf_mkWord (e : BitVec 3) (j : BitVec 5) (n : BitVec 6) (h : Hdr) (b : BitVec 45) : hdrOf (mkWord e j n h b) = h := by
  simp [hdrOf]

@[simp] theorem engOf_mkWord (e : BitVec 3) (j : BitVec 5) (n : BitVec 6) (h : Hdr) (b : BitVec 45) :
    engOf (mkWord e j n h b) = e.toNat := by simp [engOf]

@[simp] theorem majOf_mkWord (e : BitVec 3) (j : BitVec 5) (n : BitVec 6) (h : Hdr) (b : BitVec 45) :
    majOf (mkWord e j n h b) = j.toNat := by simp [majOf]

@[simp] theorem minOf_mkWord (e : BitVec 3) (j : BitVec 5) (n : BitVec 6) (h : Hdr) (b : BitVec 45) :
    minOf (mkWord e j n h b) = n.toNat := by simp [minOf]

theorem field_low {n m k : Nat} (x : BitVec n) (y : BitVec m) (h : n + m = k) (lo len : Nat) (hl : lo + len ≤ m) :
    ((x ++ y).cast h).extractLsb' lo len = y.extractLsb' lo len := by
  ext i hi
  rw [BitVec.getElem_extractLsb', BitVec.getElem_extractLsb', append_bit, if_pos (by omega)]

theorem field_high {n m k : Nat} (x : BitVec n) (y : BitVec m) (h : n + m = k) : ((x ++ y).cast h).extractLsb' m n = x := by
  ext i hi
  rw [BitVec.getElem_extractLsb', append_bit, if_neg (by omega), Nat.add_sub_cancel_left, BitVec.getLsbD_eq_getElem hi]

/-! ## The bodies of the formats (R28) -/

theorem f3Bits_d (f : F3) : (f3Bits f).extractLsb' 35 10 = f.d :=
  (field_high f.d (f.a ++ (f.b ++ (f.c ++ (f.ty ++ f.rm)))) (k := 45) rfl)

theorem f3Bits_a (f : F3) : (f3Bits f).extractLsb' 25 10 = f.a :=
  ((field_low f.d (f.a ++ (f.b ++ (f.c ++ (f.ty ++ f.rm)))) (k := 45) rfl 25 10 (by decide)).trans (field_high f.a (f.b ++ (f.c ++ (f.ty ++ f.rm))) (k := 35) rfl))

theorem f3Bits_b (f : F3) : (f3Bits f).extractLsb' 15 10 = f.b :=
  ((field_low f.d (f.a ++ (f.b ++ (f.c ++ (f.ty ++ f.rm)))) (k := 45) rfl 15 10 (by decide)).trans ((field_low f.a (f.b ++ (f.c ++ (f.ty ++ f.rm))) (k := 35) rfl 15 10 (by decide)).trans (field_high f.b (f.c ++ (f.ty ++ f.rm)) (k := 25) rfl)))

theorem f3Bits_c (f : F3) : (f3Bits f).extractLsb' 5 10 = f.c :=
  ((field_low f.d (f.a ++ (f.b ++ (f.c ++ (f.ty ++ f.rm)))) (k := 45) rfl 5 10 (by decide)).trans ((field_low f.a (f.b ++ (f.c ++ (f.ty ++ f.rm))) (k := 35) rfl 5 10 (by decide)).trans ((field_low f.b (f.c ++ (f.ty ++ f.rm)) (k := 25) rfl 5 10 (by decide)).trans (field_high f.c (f.ty ++ f.rm) (k := 15) rfl))))

theorem f3Bits_ty (f : F3) : (f3Bits f).extractLsb' 2 3 = f.ty :=
  ((field_low f.d (f.a ++ (f.b ++ (f.c ++ (f.ty ++ f.rm)))) (k := 45) rfl 2 3 (by decide)).trans ((field_low f.a (f.b ++ (f.c ++ (f.ty ++ f.rm))) (k := 35) rfl 2 3 (by decide)).trans ((field_low f.b (f.c ++ (f.ty ++ f.rm)) (k := 25) rfl 2 3 (by decide)).trans ((field_low f.c (f.ty ++ f.rm) (k := 15) rfl 2 3 (by decide)).trans (field_high f.ty f.rm (k := 5) rfl)))))

theorem f3Bits_rm (f : F3) : (f3Bits f).extractLsb' 0 2 = f.rm :=
  ((field_low f.d (f.a ++ (f.b ++ (f.c ++ (f.ty ++ f.rm)))) (k := 45) rfl 0 2 (by decide)).trans ((field_low f.a (f.b ++ (f.c ++ (f.ty ++ f.rm))) (k := 35) rfl 0 2 (by decide)).trans ((field_low f.b (f.c ++ (f.ty ++ f.rm)) (k := 25) rfl 0 2 (by decide)).trans ((field_low f.c (f.ty ++ f.rm) (k := 15) rfl 0 2 (by decide)).trans ((field_low f.ty f.rm (k := 5) rfl 0 2 (by decide)).trans (BitVec.extractLsb'_eq_self))))))

@[simp] theorem f3Of_mkWord (e : BitVec 3) (j : BitVec 5) (n : BitVec 6) (h : Hdr) (f : F3) :
    f3Of (mkWord e j n h (f3Bits f)) = f := by
  simp [f3Of, body_mkWord, f3Bits_d, f3Bits_a, f3Bits_b, f3Bits_c, f3Bits_ty, f3Bits_rm]

theorem fiBits_d (f : FI) : (fiBits f).extractLsb' 35 10 = f.d :=
  (field_high f.d (f.a ++ f.imm) (k := 45) rfl)

theorem fiBits_a (f : FI) : (fiBits f).extractLsb' 25 10 = f.a :=
  ((field_low f.d (f.a ++ f.imm) (k := 45) rfl 25 10 (by decide)).trans (field_high f.a f.imm (k := 35) rfl))

theorem fiBits_imm (f : FI) : (fiBits f).extractLsb' 0 25 = f.imm :=
  ((field_low f.d (f.a ++ f.imm) (k := 45) rfl 0 25 (by decide)).trans ((field_low f.a f.imm (k := 35) rfl 0 25 (by decide)).trans (BitVec.extractLsb'_eq_self)))

@[simp] theorem fiOf_mkWord (e : BitVec 3) (j : BitVec 5) (n : BitVec 6) (h : Hdr) (f : FI) :
    fiOf (mkWord e j n h (fiBits f)) = f := by
  simp [fiOf, body_mkWord, fiBits_d, fiBits_a, fiBits_imm]

theorem flBits_d (f : FL) : (flBits f).extractLsb' 35 10 = f.d :=
  (field_high f.d f.imm (k := 45) rfl)

theorem flBits_imm (f : FL) : (flBits f).extractLsb' 0 35 = f.imm :=
  ((field_low f.d f.imm (k := 45) rfl 0 35 (by decide)).trans (BitVec.extractLsb'_eq_self))

@[simp] theorem flOf_mkWord (e : BitVec 3) (j : BitVec 5) (n : BitVec 6) (h : Hdr) (f : FL) :
    flOf (mkWord e j n h (flBits f)) = f := by
  simp [flOf, body_mkWord, flBits_d, flBits_imm]

theorem fbBits_d (f : FB) : (fbBits f).extractLsb' 35 10 = f.d :=
  (field_high f.d (f.z ++ f.off) (k := 45) rfl)

theorem fbBits_z (f : FB) : (fbBits f).extractLsb' 25 10 = f.z :=
  ((field_low f.d (f.z ++ f.off) (k := 45) rfl 25 10 (by decide)).trans (field_high f.z f.off (k := 35) rfl))

theorem fbBits_off (f : FB) : (fbBits f).extractLsb' 0 25 = f.off :=
  ((field_low f.d (f.z ++ f.off) (k := 45) rfl 0 25 (by decide)).trans ((field_low f.z f.off (k := 35) rfl 0 25 (by decide)).trans (BitVec.extractLsb'_eq_self)))

@[simp] theorem fbOf_mkWord (e : BitVec 3) (j : BitVec 5) (n : BitVec 6) (h : Hdr) (f : FB) :
    fbOf (mkWord e j n h (fbBits f)) = f := by
  simp [fbOf, body_mkWord, fbBits_d, fbBits_z, fbBits_off]

theorem fmBits_d (f : FM) : (fmBits f).extractLsb' 35 10 = f.d :=
  (field_high f.d (f.a ++ (f.b ++ (f.sz ++ (f.v ++ f.off)))) (k := 45) rfl)

theorem fmBits_a (f : FM) : (fmBits f).extractLsb' 25 10 = f.a :=
  ((field_low f.d (f.a ++ (f.b ++ (f.sz ++ (f.v ++ f.off)))) (k := 45) rfl 25 10 (by decide)).trans (field_high f.a (f.b ++ (f.sz ++ (f.v ++ f.off))) (k := 35) rfl))

theorem fmBits_b (f : FM) : (fmBits f).extractLsb' 15 10 = f.b :=
  ((field_low f.d (f.a ++ (f.b ++ (f.sz ++ (f.v ++ f.off)))) (k := 45) rfl 15 10 (by decide)).trans ((field_low f.a (f.b ++ (f.sz ++ (f.v ++ f.off))) (k := 35) rfl 15 10 (by decide)).trans (field_high f.b (f.sz ++ (f.v ++ f.off)) (k := 25) rfl)))

theorem fmBits_sz (f : FM) : (fmBits f).extractLsb' 13 2 = f.sz :=
  ((field_low f.d (f.a ++ (f.b ++ (f.sz ++ (f.v ++ f.off)))) (k := 45) rfl 13 2 (by decide)).trans ((field_low f.a (f.b ++ (f.sz ++ (f.v ++ f.off))) (k := 35) rfl 13 2 (by decide)).trans ((field_low f.b (f.sz ++ (f.v ++ f.off)) (k := 25) rfl 13 2 (by decide)).trans (field_high f.sz (f.v ++ f.off) (k := 15) rfl))))

theorem fmBits_v (f : FM) : (fmBits f).extractLsb' 12 1 = f.v :=
  ((field_low f.d (f.a ++ (f.b ++ (f.sz ++ (f.v ++ f.off)))) (k := 45) rfl 12 1 (by decide)).trans ((field_low f.a (f.b ++ (f.sz ++ (f.v ++ f.off))) (k := 35) rfl 12 1 (by decide)).trans ((field_low f.b (f.sz ++ (f.v ++ f.off)) (k := 25) rfl 12 1 (by decide)).trans ((field_low f.sz (f.v ++ f.off) (k := 15) rfl 12 1 (by decide)).trans (field_high f.v f.off (k := 13) rfl)))))

theorem fmBits_off (f : FM) : (fmBits f).extractLsb' 0 12 = f.off :=
  ((field_low f.d (f.a ++ (f.b ++ (f.sz ++ (f.v ++ f.off)))) (k := 45) rfl 0 12 (by decide)).trans ((field_low f.a (f.b ++ (f.sz ++ (f.v ++ f.off))) (k := 35) rfl 0 12 (by decide)).trans ((field_low f.b (f.sz ++ (f.v ++ f.off)) (k := 25) rfl 0 12 (by decide)).trans ((field_low f.sz (f.v ++ f.off) (k := 15) rfl 0 12 (by decide)).trans ((field_low f.v f.off (k := 13) rfl 0 12 (by decide)).trans (BitVec.extractLsb'_eq_self))))))

@[simp] theorem fmOf_mkWord (e : BitVec 3) (j : BitVec 5) (n : BitVec 6) (h : Hdr) (f : FM) :
    fmOf (mkWord e j n h (fmBits f)) = f := by
  simp [fmOf, body_mkWord, fmBits_d, fmBits_a, fmBits_b, fmBits_sz, fmBits_v, fmBits_off]

theorem feBits_kp (f : FE) : (feBits f).extractLsb' 39 6 = f.kp :=
  (field_high f.kp (f.kc1 ++ (f.kc2 ++ (f.kc3 ++ (f.bnd ++ (f.x ++ f.ch))))) (k := 45) rfl)

theorem feBits_kc1 (f : FE) : (feBits f).extractLsb' 33 6 = f.kc1 :=
  ((field_low f.kp (f.kc1 ++ (f.kc2 ++ (f.kc3 ++ (f.bnd ++ (f.x ++ f.ch))))) (k := 45) rfl 33 6 (by decide)).trans (field_high f.kc1 (f.kc2 ++ (f.kc3 ++ (f.bnd ++ (f.x ++ f.ch)))) (k := 39) rfl))

theorem feBits_kc2 (f : FE) : (feBits f).extractLsb' 27 6 = f.kc2 :=
  ((field_low f.kp (f.kc1 ++ (f.kc2 ++ (f.kc3 ++ (f.bnd ++ (f.x ++ f.ch))))) (k := 45) rfl 27 6 (by decide)).trans ((field_low f.kc1 (f.kc2 ++ (f.kc3 ++ (f.bnd ++ (f.x ++ f.ch)))) (k := 39) rfl 27 6 (by decide)).trans (field_high f.kc2 (f.kc3 ++ (f.bnd ++ (f.x ++ f.ch))) (k := 33) rfl)))

theorem feBits_kc3 (f : FE) : (feBits f).extractLsb' 21 6 = f.kc3 :=
  ((field_low f.kp (f.kc1 ++ (f.kc2 ++ (f.kc3 ++ (f.bnd ++ (f.x ++ f.ch))))) (k := 45) rfl 21 6 (by decide)).trans ((field_low f.kc1 (f.kc2 ++ (f.kc3 ++ (f.bnd ++ (f.x ++ f.ch)))) (k := 39) rfl 21 6 (by decide)).trans ((field_low f.kc2 (f.kc3 ++ (f.bnd ++ (f.x ++ f.ch))) (k := 33) rfl 21 6 (by decide)).trans (field_high f.kc3 (f.bnd ++ (f.x ++ f.ch)) (k := 27) rfl))))

theorem feBits_bnd (f : FE) : (feBits f).extractLsb' 13 8 = f.bnd :=
  ((field_low f.kp (f.kc1 ++ (f.kc2 ++ (f.kc3 ++ (f.bnd ++ (f.x ++ f.ch))))) (k := 45) rfl 13 8 (by decide)).trans ((field_low f.kc1 (f.kc2 ++ (f.kc3 ++ (f.bnd ++ (f.x ++ f.ch)))) (k := 39) rfl 13 8 (by decide)).trans ((field_low f.kc2 (f.kc3 ++ (f.bnd ++ (f.x ++ f.ch))) (k := 33) rfl 13 8 (by decide)).trans ((field_low f.kc3 (f.bnd ++ (f.x ++ f.ch)) (k := 27) rfl 13 8 (by decide)).trans (field_high f.bnd (f.x ++ f.ch) (k := 21) rfl)))))

theorem feBits_x (f : FE) : (feBits f).extractLsb' 3 10 = f.x :=
  ((field_low f.kp (f.kc1 ++ (f.kc2 ++ (f.kc3 ++ (f.bnd ++ (f.x ++ f.ch))))) (k := 45) rfl 3 10 (by decide)).trans ((field_low f.kc1 (f.kc2 ++ (f.kc3 ++ (f.bnd ++ (f.x ++ f.ch)))) (k := 39) rfl 3 10 (by decide)).trans ((field_low f.kc2 (f.kc3 ++ (f.bnd ++ (f.x ++ f.ch))) (k := 33) rfl 3 10 (by decide)).trans ((field_low f.kc3 (f.bnd ++ (f.x ++ f.ch)) (k := 27) rfl 3 10 (by decide)).trans ((field_low f.bnd (f.x ++ f.ch) (k := 21) rfl 3 10 (by decide)).trans (field_high f.x f.ch (k := 13) rfl))))))

theorem feBits_ch (f : FE) : (feBits f).extractLsb' 0 3 = f.ch :=
  ((field_low f.kp (f.kc1 ++ (f.kc2 ++ (f.kc3 ++ (f.bnd ++ (f.x ++ f.ch))))) (k := 45) rfl 0 3 (by decide)).trans ((field_low f.kc1 (f.kc2 ++ (f.kc3 ++ (f.bnd ++ (f.x ++ f.ch)))) (k := 39) rfl 0 3 (by decide)).trans ((field_low f.kc2 (f.kc3 ++ (f.bnd ++ (f.x ++ f.ch))) (k := 33) rfl 0 3 (by decide)).trans ((field_low f.kc3 (f.bnd ++ (f.x ++ f.ch)) (k := 27) rfl 0 3 (by decide)).trans ((field_low f.bnd (f.x ++ f.ch) (k := 21) rfl 0 3 (by decide)).trans ((field_low f.x f.ch (k := 13) rfl 0 3 (by decide)).trans (BitVec.extractLsb'_eq_self)))))))

@[simp] theorem feOf_mkWord (e : BitVec 3) (j : BitVec 5) (n : BitVec 6) (h : Hdr) (f : FE) :
    feOf (mkWord e j n h (feBits f)) = f := by
  simp [feOf, body_mkWord, feBits_kp, feBits_kc1, feBits_kc2, feBits_kc3, feBits_bnd, feBits_x, feBits_ch]

theorem fwBits_pd (f : FW) : (fwBits f).extractLsb' 42 3 = f.pd :=
  (field_high f.pd (f.all ++ (f.wmask ++ (f.timeout ++ f.z))) (k := 45) rfl)

theorem fwBits_all (f : FW) : (fwBits f).extractLsb' 41 1 = f.all :=
  ((field_low f.pd (f.all ++ (f.wmask ++ (f.timeout ++ f.z))) (k := 45) rfl 41 1 (by decide)).trans (field_high f.all (f.wmask ++ (f.timeout ++ f.z)) (k := 42) rfl))

theorem fwBits_wmask (f : FW) : (fwBits f).extractLsb' 37 4 = f.wmask :=
  ((field_low f.pd (f.all ++ (f.wmask ++ (f.timeout ++ f.z))) (k := 45) rfl 37 4 (by decide)).trans ((field_low f.all (f.wmask ++ (f.timeout ++ f.z)) (k := 42) rfl 37 4 (by decide)).trans (field_high f.wmask (f.timeout ++ f.z) (k := 41) rfl)))

theorem fwBits_timeout (f : FW) : (fwBits f).extractLsb' 17 20 = f.timeout :=
  ((field_low f.pd (f.all ++ (f.wmask ++ (f.timeout ++ f.z))) (k := 45) rfl 17 20 (by decide)).trans ((field_low f.all (f.wmask ++ (f.timeout ++ f.z)) (k := 42) rfl 17 20 (by decide)).trans ((field_low f.wmask (f.timeout ++ f.z) (k := 41) rfl 17 20 (by decide)).trans (field_high f.timeout f.z (k := 37) rfl))))

theorem fwBits_z (f : FW) : (fwBits f).extractLsb' 0 17 = f.z :=
  ((field_low f.pd (f.all ++ (f.wmask ++ (f.timeout ++ f.z))) (k := 45) rfl 0 17 (by decide)).trans ((field_low f.all (f.wmask ++ (f.timeout ++ f.z)) (k := 42) rfl 0 17 (by decide)).trans ((field_low f.wmask (f.timeout ++ f.z) (k := 41) rfl 0 17 (by decide)).trans ((field_low f.timeout f.z (k := 37) rfl 0 17 (by decide)).trans (BitVec.extractLsb'_eq_self)))))

@[simp] theorem fwOf_mkWord (e : BitVec 3) (j : BitVec 5) (n : BitVec 6) (h : Hdr) (f : FW) :
    fwOf (mkWord e j n h (fwBits f)) = f := by
  simp [fwOf, body_mkWord, fwBits_pd, fwBits_all, fwBits_wmask, fwBits_timeout, fwBits_z]

theorem fsBits_d (f : FS) : (fsBits f).extractLsb' 35 10 = f.d :=
  (field_high f.d (f.a ++ f.num) (k := 45) rfl)

theorem fsBits_a (f : FS) : (fsBits f).extractLsb' 25 10 = f.a :=
  ((field_low f.d (f.a ++ f.num) (k := 45) rfl 25 10 (by decide)).trans (field_high f.a f.num (k := 35) rfl))

theorem fsBits_num (f : FS) : (fsBits f).extractLsb' 0 25 = f.num :=
  ((field_low f.d (f.a ++ f.num) (k := 45) rfl 0 25 (by decide)).trans ((field_low f.a f.num (k := 35) rfl 0 25 (by decide)).trans (BitVec.extractLsb'_eq_self)))

@[simp] theorem fsOf_mkWord (e : BitVec 3) (j : BitVec 5) (n : BitVec 6) (h : Hdr) (f : FS) :
    fsOf (mkWord e j n h (fsBits f)) = f := by
  simp [fsOf, body_mkWord, fsBits_d, fsBits_a, fsBits_num]

@[simp] theorem numOf_mkWord (e : BitVec 3) (j : BitVec 5) (n : BitVec 6) (h : Hdr) (f : FS) :
    numOf (mkWord e j n h (fsBits f)) = f.num.toNat := by
  simp [numOf, body_mkWord, fsBits_num]

@[simp] theorem numLow_mkWord (e : BitVec 3) (j : BitVec 5) (n : BitVec 6) (h : Hdr) (f : FS) :
    numLow (mkWord e j n h (fsBits f)) = f.num.toNat % 16 := by
  have : (mkWord e j n h (fsBits f)).extractLsb' 0 4 = f.num.extractLsb' 0 4 := by
    rw [body_mkWord _ _ _ _ _ 0 4 (by decide), ← fsBits_num f]
    ext i hi
    simp
  simp [numLow, this]

end Sys2Proof
end

