-- ==== Sys2Proof/Laws/Tables.lean ====
section
/-! SUPPORT. The laws of tables: what a key reads after another key, or the same one, has been written. -/

namespace Sys2Proof.Machine

theorem tfind_tput_same {α : Type} (t : Table α) (k : Nat) (v : α) : tfind (tput t k v) k = some v := by
  induction t with
  | nil => simp [tput, tfind]
  | cons p r ih =>
    obtain ⟨a, x⟩ := p
    by_cases h : a = k
    · simp [tput, tfind, h]
    · by_cases h2 : k < a
      · simp [tput, tfind, h, h2]
      · simp [tput, tfind, h, h2, ih]

theorem tfind_tput_other {α : Type} (t : Table α) (k j : Nat) (v : α) (h : j ≠ k) : tfind (tput t k v) j = tfind t j := by
  induction t with
  | nil => simp [tput, tfind, Ne.symm h]
  | cons p r ih =>
    obtain ⟨a, x⟩ := p
    by_cases h1 : a = k
    · subst h1; simp [tput, tfind, Ne.symm h]
    · by_cases h2 : k < a
      · simp [tput, tfind, h1, h2, Ne.symm h]
      · simp only [tput, h1, h2, if_false, tfind, ih]

@[simp] theorem tget_tput_same {α : Type} (t : Table α) (k : Nat) (v d : α) : tget (tput t k v) k d = v := by
  simp [tget, tfind_tput_same]

theorem tget_tput_other {α : Type} (t : Table α) (k j : Nat) (v d : α) (h : j ≠ k) : tget (tput t k v) j d = tget t j d := by
  simp [tget, tfind_tput_other t k j v h]

theorem tfind_filter {α : Type} (t : Table α) (p : Nat → Bool) (j : Nat) :
    tfind (t.filter (fun c => p c.1)) j = if p j then tfind t j else none := by
  induction t with
  | nil => simp [tfind]
  | cons c r ih =>
    obtain ⟨a, x⟩ := c
    by_cases h : p a <;> by_cases h2 : a = j <;> simp_all [tfind]

theorem tfind_append {α : Type} (t u : Table α) (j : Nat) : tfind (t ++ u) j = (tfind t j).or (tfind u j) := by
  induction t with
  | nil => simp [tfind]
  | cons c r ih =>
    obtain ⟨a, x⟩ := c
    by_cases h : a = j <;> simp_all [tfind]

@[simp] theorem tget_tset_same {α : Type} [DecidableEq α] (t : Table α) (k : Nat) (v d : α) : tget (tset t k v d) k d = v := by
  unfold tset
  split
  · rename_i h; simp [tget, tdel, tfind_filter t (fun a => a != k), h]
  · simp

theorem tget_tset_other {α : Type} [DecidableEq α] (t : Table α) (k j : Nat) (v d : α) (h : j ≠ k) :
    tget (tset t k v d) j d = tget t j d := by
  unfold tset
  split
  · simp [tget, tdel, tfind_filter t (fun a => a != k), h]
  · exact tget_tput_other t k j v d h

end Sys2Proof.Machine
end

