-- ==== Sys2Proof/Laws/Memory.lean ====
section
/-! SUPPORT. The laws of byte memory: a read after a write, and the canonical form, which every write keeps. -/

namespace Sys2Proof.Machine

theorem tfind_cellsOf (a : Nat) (bs : List Byte) (x : Nat) :
    (tfind (cellsOf a bs) x).getD 0 = if a ≤ x then bs.getD (x - a) 0 else 0 := by
  induction bs generalizing a with
  | nil => simp [cellsOf, tfind]
  | cons b r ih =>
    have key : (tfind ((a, b) :: cellsOf (a + 1) r) x).getD 0 = if a ≤ x then (b :: r).getD (x - a) 0 else 0 := by
      by_cases h : a = x
      · simp [tfind, h]
      · simp only [tfind, h, if_false, ih]
        by_cases h2 : a ≤ x
        · obtain ⟨n, rfl⟩ : ∃ n, x = a + 1 + n := ⟨x - a - 1, by omega⟩
          have e : a + 1 + n - a = n + 1 := by omega
          simp [e, show a ≤ a + 1 + n by omega]
        · simp [h2, show ¬ a + 1 ≤ x by omega]
    unfold cellsOf
    split
    · rename_i hb
      subst hb
      rw [ih, ← key]
      by_cases h : a = x
      · simp only [tfind, h, if_true, if_neg (show ¬ x + 1 ≤ x by omega), Option.getD_some]
      · simp only [tfind, h, if_false, ih]
    · exact key

theorem cellsOf_none (a : Nat) (bs : List Byte) (x : Nat) (h : x < a ∨ a + bs.length ≤ x) : tfind (cellsOf a bs) x = none := by
  induction bs generalizing a with
  | nil => simp [cellsOf, tfind]
  | cons b r ih =>
    have : tfind (cellsOf (a + 1) r) x = none := ih (a + 1) (by simp at h; omega)
    unfold cellsOf
    split
    · exact this
    · simp only [tfind, this]; simp at h; simp; omega

/-- A read after a write of bytes: the byte written inside the run, the byte as it was outside it. -/
theorem byteAt_writeBytes (m : Memory) (a : Nat) (bs : List Byte) (x : Nat) :
    byteAt (writeBytes m a bs) x = if a ≤ x ∧ x < a + bs.length then bs.getD (x - a) 0 else byteAt m x := by
  have hl : ∀ x, tfind (m.filter (fun c => decide (c.1 < a))) x = if x < a then tfind m x else none := by
    intro x; have := tfind_filter m (fun k => decide (k < a)) x; simpa using this
  have hr : ∀ x, tfind (m.filter (fun c => decide (a + bs.length ≤ c.1))) x = if a + bs.length ≤ x then tfind m x else none := by
    intro x; have := tfind_filter m (fun k => decide (a + bs.length ≤ k)) x; simpa using this
  unfold byteAt writeBytes tget
  rw [tfind_append, tfind_append, hl, hr]
  by_cases h1 : x < a
  · rw [cellsOf_none a bs x (.inl h1)]
    simp [h1, show ¬ a ≤ x by omega, show ¬ a + bs.length ≤ x by omega]
  · by_cases h2 : x < a + bs.length
    · have := tfind_cellsOf a bs x
      simp [h1, h2, show a ≤ x by omega, show ¬ a + bs.length ≤ x by omega] at this ⊢
      exact this
    · rw [cellsOf_none a bs x (.inr (by omega))]
      simp [h1, h2, show a + bs.length ≤ x by omega]

theorem byteAt_writeBytes_outside (m : Memory) (a : Nat) (bs : List Byte) (x : Nat) (h : x < a ∨ a + bs.length ≤ x) :
    byteAt (writeBytes m a bs) x = byteAt m x := by
  rw [byteAt_writeBytes, if_neg (by omega)]

theorem cellsOf_mem (a : Nat) (bs : List Byte) : ∀ c ∈ cellsOf a bs, a ≤ c.1 ∧ c.1 < a + bs.length ∧ c.2 ≠ 0 := by
  induction bs generalizing a with
  | nil => simp [cellsOf]
  | cons b r ih =>
    intro c hc
    unfold cellsOf at hc
    split at hc
    · obtain ⟨h1, h2, h3⟩ := ih (a + 1) c hc
      exact ⟨by omega, by simp; omega, h3⟩
    · rename_i hb
      rcases List.mem_cons.1 hc with rfl | hc
      · exact ⟨by simp, by simp, hb⟩
      · obtain ⟨h1, h2, h3⟩ := ih (a + 1) c hc
        exact ⟨by omega, by simp; omega, h3⟩

theorem cellsOf_rising (a : Nat) (bs : List Byte) : (cellsOf a bs).Pairwise (fun x y => x.1 < y.1) := by
  induction bs generalizing a with
  | nil => simp [cellsOf]
  | cons b r ih =>
    unfold cellsOf
    split
    · exact ih (a + 1)
    · exact List.pairwise_cons.2 ⟨fun c hc => by have := cellsOf_mem (a + 1) r c hc; simp; omega, ih (a + 1)⟩

/-- Every write of bytes keeps the canonical form. -/
theorem writeBytes_wf (m : Memory) (a : Nat) (bs : List Byte) (h : m.wf) : (writeBytes m a bs).wf := by
  obtain ⟨hp, hz⟩ := h
  refine ⟨?_, ?_⟩
  · unfold writeBytes
    refine List.pairwise_append.2 ⟨List.pairwise_append.2 ⟨hp.filter _, cellsOf_rising a bs, ?_⟩, hp.filter _, ?_⟩
    · intro x hx y hy
      have h1 := (List.mem_filter.1 hx).2
      have h2 := cellsOf_mem a bs y hy
      simp at h1; omega
    · intro x hx y hy
      have h2 := (List.mem_filter.1 hy).2
      simp at h2
      rcases List.mem_append.1 hx with hx | hx
      · have h1 := (List.mem_filter.1 hx).2; simp at h1; omega
      · have h1 := cellsOf_mem a bs x hx; omega
  · intro c hc
    unfold writeBytes at hc
    rcases List.mem_append.1 hc with hc | hc
    · rcases List.mem_append.1 hc with hc | hc
      · exact hz c (List.mem_filter.1 hc).1
      · exact (cellsOf_mem a bs c hc).2.2
    · exact hz c (List.mem_filter.1 hc).1

theorem putNat_wf (m : Memory) (a n x : Nat) (h : m.wf) : (putNat m a n x).wf := writeBytes_wf m a _ h

/-- The bytes of a run are the bytes at its addresses. -/
theorem bytesAt_eq (m : Memory) (a n : Nat) : bytesAt m a n = (List.range n).map (fun i => byteAt m (a + i)) := by
  unfold bytesAt
  refine List.map_congr_left (fun i hi => ?_)
  have hi := List.mem_range.1 hi
  have := tfind_filter m (fun k => decide (a ≤ k) && decide (k < a + n)) (a + i)
  simp only [byteAt, tget]
  rw [this]
  simp [hi]

/-- A run read back after it was written. -/
theorem bytesAt_writeBytes (m : Memory) (a : Nat) (bs : List Byte) : bytesAt (writeBytes m a bs) a bs.length = bs := by
  rw [bytesAt_eq]
  refine List.ext_getElem (by simp) (fun i h1 h2 => ?_)
  have hi : i < bs.length := h2
  simp [byteAt_writeBytes, hi]

theorem State.reset_mem_wf : Memory.wf State.reset.mem := ⟨by simp [State.reset], by simp [State.reset]⟩

end Sys2Proof.Machine
end

