-- ==== Sys2Proof/Laws/PerInstr.lean ====
section
/-! SUPPORT. A law of each instruction as syntax: it has a 64-bit word, or a courier word, or neither, never both. -/

namespace Sys2Proof.Laws

/-- An instruction has at most one of the two encodings. -/
def OneEncoding.Statement (i : Instr) : Prop := encodeWord i = none ∨ encodeCourier i = none

theorem OneEncoding.resultLand (u : Agent) : OneEncoding.Statement (.resultLand u) := .inl rfl
theorem OneEncoding.aqEntryLand (die core q id : Nat) : OneEncoding.Statement (.aqEntryLand die core q id) := .inl rfl
theorem OneEncoding.waitReread (p : Proc) : OneEncoding.Statement (.waitReread p) := .inl rfl
theorem OneEncoding.waitTimeout (p : Proc) : OneEncoding.Statement (.waitTimeout p) := .inl rfl
theorem OneEncoding.twaitTimeout (die ctx : Nat) : OneEncoding.Statement (.twaitTimeout die ctx) := .inl rfl
theorem OneEncoding.checkerMatch (die : Nat) (same : Bool) : OneEncoding.Statement (.checkerMatch die same) := .inl rfl
theorem OneEncoding.contextQuantumSwitch (die : Nat) : OneEncoding.Statement (.contextQuantumSwitch die) := .inl rfl
theorem OneEncoding.monitorEvent (die code : Nat) : OneEncoding.Statement (.monitorEvent die code) := .inl rfl
theorem OneEncoding.overlapCheckComplete (die serial : Nat) : OneEncoding.Statement (.overlapCheckComplete die serial) := .inl rfl
theorem OneEncoding.dispatchPlace (die : Nat) : OneEncoding.Statement (.dispatchPlace die) := .inl rfl
theorem OneEncoding.gangFairnessTimeout (die serial : Nat) : OneEncoding.Statement (.gangFairnessTimeout die serial) := .inl rfl
theorem OneEncoding.steal (die : Nat) : OneEncoding.Statement (.steal die) := .inl rfl
theorem OneEncoding.preloadComplete (die serial shard : Nat) : OneEncoding.Statement (.preloadComplete die serial shard) := .inl rfl
theorem OneEncoding.shadowFillComplete (die serial : Nat) : OneEncoding.Statement (.shadowFillComplete die serial) := .inl rfl
theorem OneEncoding.taskStart (die serial shard : Nat) : OneEncoding.Statement (.taskStart die serial shard) := .inl rfl
theorem OneEncoding.discardComplete (die serial shard : Nat) : OneEncoding.Statement (.discardComplete die serial shard) := .inl rfl
theorem OneEncoding.taskHalted (die serial : Nat) : OneEncoding.Statement (.taskHalted die serial) := .inl rfl
theorem OneEncoding.copyBackStart (die serial : Nat) : OneEncoding.Statement (.copyBackStart die serial) := .inl rfl
theorem OneEncoding.copyBackComplete (die serial : Nat) : OneEncoding.Statement (.copyBackComplete die serial) := .inl rfl
theorem OneEncoding.taskRetire (die serial : Nat) : OneEncoding.Statement (.taskRetire die serial) := .inl rfl
theorem OneEncoding.cancelPropagate (die serial : Nat) : OneEncoding.Statement (.cancelPropagate die serial) := .inl rfl
theorem OneEncoding.engineCommandStart (die core id : Nat) : OneEncoding.Statement (.engineCommandStart die core id) := .inl rfl
theorem OneEncoding.engineUnitLand (die core id : Nat) : OneEncoding.Statement (.engineUnitLand die core id) := .inl rfl
theorem OneEncoding.engineCommandComplete (die core id : Nat) : OneEncoding.Statement (.engineCommandComplete die core id) := .inl rfl
theorem OneEncoding.boundOverrun (die core id : Nat) : OneEncoding.Statement (.boundOverrun die core id) := .inl rfl
theorem OneEncoding.trellisCommandStart (die core id : Nat) : OneEncoding.Statement (.trellisCommandStart die core id) := .inl rfl
theorem OneEncoding.wloadComplete (die core id : Nat) : OneEncoding.Statement (.wloadComplete die core id) := .inl rfl
theorem OneEncoding.streamRowEnter (die core id : Nat) : OneEncoding.Statement (.streamRowEnter die core id) := .inl rfl
theorem OneEncoding.streamRowLand (die core id : Nat) : OneEncoding.Statement (.streamRowLand die core id) := .inl rfl
theorem OneEncoding.mvstreamColumnLand (die core id : Nat) : OneEncoding.Statement (.mvstreamColumnLand die core id) := .inl rfl
theorem OneEncoding.releaseDrainEnd (die core claim : Nat) : OneEncoding.Statement (.releaseDrainEnd die core claim) := .inl rfl
theorem OneEncoding.phaseRestart (die core : Nat) : OneEncoding.Statement (.phaseRestart die core) := .inl rfl
theorem OneEncoding.tlbWalkComplete (die core asid vint va : Nat) : OneEncoding.Statement (.tlbWalkComplete die core asid vint va) := .inl rfl
theorem OneEncoding.shootdownComplete (id : Nat) : OneEncoding.Statement (.shootdownComplete id) := .inl rfl
theorem OneEncoding.cellReady (id : Nat) : OneEncoding.Statement (.cellReady id) := .inl rfl
theorem OneEncoding.cellWaitTimeout (id : Nat) : OneEncoding.Statement (.cellWaitTimeout id) := .inl rfl
theorem OneEncoding.vintageFree (asid vint : Nat) : OneEncoding.Statement (.vintageFree asid vint) := .inl rfl
theorem OneEncoding.foldTaskStart (die serial : Nat) : OneEncoding.Statement (.foldTaskStart die serial) := .inl rfl
theorem OneEncoding.foldTaskRetire (die serial : Nat) : OneEncoding.Statement (.foldTaskRetire die serial) := .inl rfl
theorem OneEncoding.patrolScrub (pa : Nat) (found : Finding) : OneEncoding.Statement (.patrolScrub pa found) := .inl rfl
theorem OneEncoding.scoreHalve : OneEncoding.Statement (.scoreHalve) := .inl rfl
theorem OneEncoding.targetedTestStart (u : HwUnit) : OneEncoding.Statement (.targetedTestStart u) := .inl rfl
theorem OneEncoding.targetedTestEnd (u : HwUnit) (bad : Bool) : OneEncoding.Statement (.targetedTestEnd u bad) := .inl rfl
theorem OneEncoding.powerReport (watts : Nat) : OneEncoding.Statement (.powerReport watts) := .inl rfl
theorem OneEncoding.temperatureSample (die10 inlet10 : Nat) : OneEncoding.Statement (.temperatureSample die10 inlet10) := .inl rfl
theorem OneEncoding.eventResend (number : Nat) : OneEncoding.Statement (.eventResend number) := .inl rfl
theorem OneEncoding.uftPut (f : Frame) : OneEncoding.Statement (.uftPut f) := .inl rfl
theorem OneEncoding.uftEnd (f : Frame) : OneEncoding.Statement (.uftEnd f) := .inl rfl
theorem OneEncoding.uftGet (f : Frame) : OneEncoding.Statement (.uftGet f) := .inl rfl
theorem OneEncoding.uftGetdata (f : Frame) : OneEncoding.Statement (.uftGetdata f) := .inl rfl
theorem OneEncoding.uftAmo (f : Frame) : OneEncoding.Statement (.uftAmo f) := .inl rfl
theorem OneEncoding.uftPost (f : Frame) : OneEncoding.Statement (.uftPost f) := .inl rfl
theorem OneEncoding.uftNotify (f : Frame) : OneEncoding.Statement (.uftNotify f) := .inl rfl
theorem OneEncoding.uftCancel (f : Frame) : OneEncoding.Statement (.uftCancel f) := .inl rfl
theorem OneEncoding.uftMcast (f : Frame) : OneEncoding.Statement (.uftMcast f) := .inl rfl
theorem OneEncoding.uftResult (f : Frame) : OneEncoding.Statement (.uftResult f) := .inl rfl
theorem OneEncoding.uftAck (f : Frame) : OneEncoding.Statement (.uftAck f) := .inl rfl
theorem OneEncoding.uftReset (f : Frame) : OneEncoding.Statement (.uftReset f) := .inl rfl
theorem OneEncoding.frameDiscard (port : Nat) : OneEncoding.Statement (.frameDiscard port) := .inl rfl
theorem OneEncoding.ackTimer (peer : Nat) : OneEncoding.Statement (.ackTimer peer) := .inl rfl
theorem OneEncoding.retransmitTimeout (peer psn : Nat) : OneEncoding.Statement (.retransmitTimeout peer psn) := .inl rfl
theorem OneEncoding.rateIncreaseTimer (peer : Nat) : OneEncoding.Statement (.rateIncreaseTimer peer) := .inl rfl
theorem OneEncoding.resetResend (peer : Nat) : OneEncoding.Statement (.resetResend peer) := .inl rfl
theorem OneEncoding.mcastReceiptWrite (op : Nat) : OneEncoding.Statement (.mcastReceiptWrite op) := .inl rfl
theorem OneEncoding.portLinkUp (port : Nat) : OneEncoding.Statement (.portLinkUp port) := .inl rfl
theorem OneEncoding.portLinkDown (port : Nat) : OneEncoding.Statement (.portLinkDown port) := .inl rfl
theorem OneEncoding.memread (m : HostMsg) : OneEncoding.Statement (.memread m) := .inl rfl
theorem OneEncoding.memwrite (m : HostMsg) : OneEncoding.Statement (.memwrite m) := .inl rfl
theorem OneEncoding.pmemread (m : HostMsg) : OneEncoding.Statement (.pmemread m) := .inl rfl
theorem OneEncoding.pmemwrite (m : HostMsg) : OneEncoding.Statement (.pmemwrite m) := .inl rfl
theorem OneEncoding.launch (m : HostMsg) : OneEncoding.Statement (.launch m) := .inl rfl
theorem OneEncoding.ptroot (m : HostMsg) : OneEncoding.Statement (.ptroot m) := .inl rfl
theorem OneEncoding.inval (m : HostMsg) : OneEncoding.Statement (.inval m) := .inl rfl
theorem OneEncoding.migrate (m : HostMsg) : OneEncoding.Statement (.migrate m) := .inl rfl
theorem OneEncoding.pagein (m : HostMsg) : OneEncoding.Statement (.pagein m) := .inl rfl
theorem OneEncoding.setid (m : HostMsg) : OneEncoding.Statement (.setid m) := .inl rfl
theorem OneEncoding.listset (m : HostMsg) : OneEncoding.Statement (.listset m) := .inl rfl
theorem OneEncoding.amoquery (m : HostMsg) : OneEncoding.Statement (.amoquery m) := .inl rfl
theorem OneEncoding.eventack (m : HostMsg) : OneEncoding.Statement (.eventack m) := .inl rfl
theorem OneEncoding.uctBadOp (m : HostMsg) : OneEncoding.Statement (.uctBadOp m) := .inl rfl
theorem OneEncoding.hello (m : HostMsg) : OneEncoding.Statement (.hello m) := .inl rfl
theorem OneEncoding.keyx (m : HostMsg) : OneEncoding.Statement (.keyx m) := .inl rfl
theorem OneEncoding.boot (m : HostMsg) : OneEncoding.Statement (.boot m) := .inl rfl
theorem OneEncoding.fwwrite (m : HostMsg) : OneEncoding.Statement (.fwwrite m) := .inl rfl
theorem OneEncoding.ownerset (m : HostMsg) : OneEncoding.Statement (.ownerset m) := .inl rfl
theorem OneEncoding.resume (m : HostMsg) : OneEncoding.Statement (.resume m) := .inl rfl
theorem OneEncoding.powerOn : OneEncoding.Statement (.powerOn) := .inl rfl
theorem OneEncoding.bootStepTimeout : OneEncoding.Statement (.bootStepTimeout) := .inl rfl
theorem OneEncoding.handoffTimeout : OneEncoding.Statement (.handoffTimeout) := .inl rfl
theorem OneEncoding.boardReset : OneEncoding.Statement .boardReset := .inl rfl
theorem OneEncoding.boardRecovRequest : OneEncoding.Statement .boardRecovRequest := .inl rfl
theorem OneEncoding.ckptStreamStart : OneEncoding.Statement (.ckptStreamStart) := .inl rfl
theorem OneEncoding.ckptStreamEnd (outcome : CkptEnd) : OneEncoding.Statement (.ckptStreamEnd outcome) := .inl rfl
theorem OneEncoding.encodingNotInstruction (p : Proc) (why : DecodeError) : OneEncoding.Statement (.encodingNotInstruction p why) := .inl rfl
theorem OneEncoding.courierIllegalWord (w : BitVec 32) : OneEncoding.Statement (.courierIllegalWord w) := .inl rfl
theorem OneEncoding.windowRecordsCommitted (die serial shard : Nat) : OneEncoding.Statement (.windowRecordsCommitted die serial shard) := .inl rfl
theorem OneEncoding.writePerformedAtHome (id : Nat) : OneEncoding.Statement (.writePerformedAtHome id) := .inl rfl
theorem OneEncoding.answerTableExpiry (peer opid : Nat) : OneEncoding.Statement (.answerTableExpiry peer opid) := .inl rfl
theorem OneEncoding.powerLoss : OneEncoding.Statement (.powerLoss) := .inl rfl
theorem OneEncoding.ccAdd (h : Hdr) (f : F3) : OneEncoding.Statement (.ccAdd h f) := .inr rfl
theorem OneEncoding.ccSub (h : Hdr) (f : F3) : OneEncoding.Statement (.ccSub h f) := .inr rfl
theorem OneEncoding.ccAnd (h : Hdr) (f : F3) : OneEncoding.Statement (.ccAnd h f) := .inr rfl
theorem OneEncoding.ccOr (h : Hdr) (f : F3) : OneEncoding.Statement (.ccOr h f) := .inr rfl
theorem OneEncoding.ccXor (h : Hdr) (f : F3) : OneEncoding.Statement (.ccXor h f) := .inr rfl
theorem OneEncoding.ccShl (h : Hdr) (f : F3) : OneEncoding.Statement (.ccShl h f) := .inr rfl
theorem OneEncoding.ccShr (h : Hdr) (f : F3) : OneEncoding.Statement (.ccShr h f) := .inr rfl
theorem OneEncoding.ccSar (h : Hdr) (f : F3) : OneEncoding.Statement (.ccSar h f) := .inr rfl
theorem OneEncoding.ccMul (h : Hdr) (f : F3) : OneEncoding.Statement (.ccMul h f) := .inr rfl
theorem OneEncoding.ccMulh (h : Hdr) (f : F3) : OneEncoding.Statement (.ccMulh h f) := .inr rfl
theorem OneEncoding.ccDiv (h : Hdr) (f : F3) : OneEncoding.Statement (.ccDiv h f) := .inr rfl
theorem OneEncoding.ccDivu (h : Hdr) (f : F3) : OneEncoding.Statement (.ccDivu h f) := .inr rfl
theorem OneEncoding.ccRem (h : Hdr) (f : F3) : OneEncoding.Statement (.ccRem h f) := .inr rfl
theorem OneEncoding.ccRemu (h : Hdr) (f : F3) : OneEncoding.Statement (.ccRemu h f) := .inr rfl
theorem OneEncoding.ccMin (h : Hdr) (f : F3) : OneEncoding.Statement (.ccMin h f) := .inr rfl
theorem OneEncoding.ccMax (h : Hdr) (f : F3) : OneEncoding.Statement (.ccMax h f) := .inr rfl
theorem OneEncoding.ccMinu (h : Hdr) (f : F3) : OneEncoding.Statement (.ccMinu h f) := .inr rfl
theorem OneEncoding.ccMaxu (h : Hdr) (f : F3) : OneEncoding.Statement (.ccMaxu h f) := .inr rfl
theorem OneEncoding.ccSel (h : Hdr) (f : F3) : OneEncoding.Statement (.ccSel h f) := .inr rfl
theorem OneEncoding.ccAddi (h : Hdr) (f : FI) : OneEncoding.Statement (.ccAddi h f) := .inr rfl
theorem OneEncoding.ccAndi (h : Hdr) (f : FI) : OneEncoding.Statement (.ccAndi h f) := .inr rfl
theorem OneEncoding.ccOri (h : Hdr) (f : FI) : OneEncoding.Statement (.ccOri h f) := .inr rfl
theorem OneEncoding.ccXori (h : Hdr) (f : FI) : OneEncoding.Statement (.ccXori h f) := .inr rfl
theorem OneEncoding.ccShli (h : Hdr) (f : FI) : OneEncoding.Statement (.ccShli h f) := .inr rfl
theorem OneEncoding.ccShri (h : Hdr) (f : FI) : OneEncoding.Statement (.ccShri h f) := .inr rfl
theorem OneEncoding.ccSari (h : Hdr) (f : FI) : OneEncoding.Statement (.ccSari h f) := .inr rfl
theorem OneEncoding.ccMuli (h : Hdr) (f : FI) : OneEncoding.Statement (.ccMuli h f) := .inr rfl
theorem OneEncoding.ccLui (h : Hdr) (f : FI) : OneEncoding.Statement (.ccLui h f) := .inr rfl
theorem OneEncoding.ccCmpEq (h : Hdr) (f : F3) : OneEncoding.Statement (.ccCmpEq h f) := .inr rfl
theorem OneEncoding.ccCmpNe (h : Hdr) (f : F3) : OneEncoding.Statement (.ccCmpNe h f) := .inr rfl
theorem OneEncoding.ccCmpLt (h : Hdr) (f : F3) : OneEncoding.Statement (.ccCmpLt h f) := .inr rfl
theorem OneEncoding.ccCmpLe (h : Hdr) (f : F3) : OneEncoding.Statement (.ccCmpLe h f) := .inr rfl
theorem OneEncoding.ccCmpLtu (h : Hdr) (f : F3) : OneEncoding.Statement (.ccCmpLtu h f) := .inr rfl
theorem OneEncoding.ccCmpLeu (h : Hdr) (f : F3) : OneEncoding.Statement (.ccCmpLeu h f) := .inr rfl
theorem OneEncoding.ccCmpiEq (h : Hdr) (f : FI) : OneEncoding.Statement (.ccCmpiEq h f) := .inr rfl
theorem OneEncoding.ccCmpiNe (h : Hdr) (f : FI) : OneEncoding.Statement (.ccCmpiNe h f) := .inr rfl
theorem OneEncoding.ccCmpiLt (h : Hdr) (f : FI) : OneEncoding.Statement (.ccCmpiLt h f) := .inr rfl
theorem OneEncoding.ccCmpiLe (h : Hdr) (f : FI) : OneEncoding.Statement (.ccCmpiLe h f) := .inr rfl
theorem OneEncoding.ccCmpiLtu (h : Hdr) (f : FI) : OneEncoding.Statement (.ccCmpiLtu h f) := .inr rfl
theorem OneEncoding.ccCmpiLeu (h : Hdr) (f : FI) : OneEncoding.Statement (.ccCmpiLeu h f) := .inr rfl
theorem OneEncoding.ccPand (h : Hdr) (f : F3) : OneEncoding.Statement (.ccPand h f) := .inr rfl
theorem OneEncoding.ccPor (h : Hdr) (f : F3) : OneEncoding.Statement (.ccPor h f) := .inr rfl
theorem OneEncoding.ccPxor (h : Hdr) (f : F3) : OneEncoding.Statement (.ccPxor h f) := .inr rfl
theorem OneEncoding.ccPnot (h : Hdr) (f : F3) : OneEncoding.Statement (.ccPnot h f) := .inr rfl
theorem OneEncoding.ccBr (h : Hdr) (f : FB) : OneEncoding.Statement (.ccBr h f) := .inr rfl
theorem OneEncoding.ccJmp (h : Hdr) (f : FB) : OneEncoding.Statement (.ccJmp h f) := .inr rfl
theorem OneEncoding.ccJmpr (h : Hdr) (f : FB) : OneEncoding.Statement (.ccJmpr h f) := .inr rfl
theorem OneEncoding.ccCall (h : Hdr) (f : FB) : OneEncoding.Statement (.ccCall h f) := .inr rfl
theorem OneEncoding.ccCallr (h : Hdr) (f : FB) : OneEncoding.Statement (.ccCallr h f) := .inr rfl
theorem OneEncoding.ccRet (h : Hdr) (f : FB) : OneEncoding.Statement (.ccRet h f) := .inr rfl
theorem OneEncoding.ccLd (h : Hdr) (f : FM) : OneEncoding.Statement (.ccLd h f) := .inr rfl
theorem OneEncoding.ccLds (h : Hdr) (f : FM) : OneEncoding.Statement (.ccLds h f) := .inr rfl
theorem OneEncoding.ccSt (h : Hdr) (f : FM) : OneEncoding.Statement (.ccSt h f) := .inr rfl
theorem OneEncoding.ccLda (h : Hdr) (f : FM) : OneEncoding.Statement (.ccLda h f) := .inr rfl
theorem OneEncoding.ccStl (h : Hdr) (f : FM) : OneEncoding.Statement (.ccStl h f) := .inr rfl
theorem OneEncoding.ccAmoAdd (h : Hdr) (f : FM) : OneEncoding.Statement (.ccAmoAdd h f) := .inr rfl
theorem OneEncoding.ccAmoAnd (h : Hdr) (f : FM) : OneEncoding.Statement (.ccAmoAnd h f) := .inr rfl
theorem OneEncoding.ccAmoOr (h : Hdr) (f : FM) : OneEncoding.Statement (.ccAmoOr h f) := .inr rfl
theorem OneEncoding.ccAmoXor (h : Hdr) (f : FM) : OneEncoding.Statement (.ccAmoXor h f) := .inr rfl
theorem OneEncoding.ccAmoMin (h : Hdr) (f : FM) : OneEncoding.Statement (.ccAmoMin h f) := .inr rfl
theorem OneEncoding.ccAmoMax (h : Hdr) (f : FM) : OneEncoding.Statement (.ccAmoMax h f) := .inr rfl
theorem OneEncoding.ccAmoMinu (h : Hdr) (f : FM) : OneEncoding.Statement (.ccAmoMinu h f) := .inr rfl
theorem OneEncoding.ccAmoMaxu (h : Hdr) (f : FM) : OneEncoding.Statement (.ccAmoMaxu h f) := .inr rfl
theorem OneEncoding.ccAmoSwap (h : Hdr) (f : FM) : OneEncoding.Statement (.ccAmoSwap h f) := .inr rfl
theorem OneEncoding.ccAmoCas (h : Hdr) (f : FM) : OneEncoding.Statement (.ccAmoCas h f) := .inr rfl
theorem OneEncoding.ccFenceCore (h : Hdr) (f : FS) : OneEncoding.Statement (.ccFenceCore h f) := .inr rfl
theorem OneEncoding.ccFenceDie (h : Hdr) (f : FS) : OneEncoding.Statement (.ccFenceDie h f) := .inr rfl
theorem OneEncoding.ccFenceDev (h : Hdr) (f : FS) : OneEncoding.Statement (.ccFenceDev h f) := .inr rfl
theorem OneEncoding.ccFenceDom (h : Hdr) (f : FS) : OneEncoding.Statement (.ccFenceDom h f) := .inr rfl
theorem OneEncoding.post (h : Hdr) (f : FS) : OneEncoding.Statement (.post h f) := .inr rfl
theorem OneEncoding.postNb (h : Hdr) (f : FS) : OneEncoding.Statement (.postNb h f) := .inr rfl
theorem OneEncoding.postG (h : Hdr) (f : FS) : OneEncoding.Statement (.postG h f) := .inr rfl
theorem OneEncoding.rpost (h : Hdr) (f : FS) : OneEncoding.Statement (.rpost h f) := .inr rfl
theorem OneEncoding.cancel (h : Hdr) (f : FS) : OneEncoding.Statement (.cancel h f) := .inr rfl
theorem OneEncoding.twait (h : Hdr) (f : FS) : OneEncoding.Statement (.twait h f) := .inr rfl
theorem OneEncoding.wincfgDispatchHold (h : Hdr) (f : FS) : OneEncoding.Statement (.wincfgDispatchHold h f) := .inr rfl
theorem OneEncoding.wincfgLetterboxAccept (h : Hdr) (f : FS) : OneEncoding.Statement (.wincfgLetterboxAccept h f) := .inr rfl
theorem OneEncoding.wincfgPriorityCeiling (h : Hdr) (f : FS) : OneEncoding.Statement (.wincfgPriorityCeiling h f) := .inr rfl
theorem OneEncoding.winqLiveEntries (h : Hdr) (f : FS) : OneEncoding.Statement (.winqLiveEntries h f) := .inr rfl
theorem OneEncoding.winqFreeEntries (h : Hdr) (f : FS) : OneEncoding.Statement (.winqFreeEntries h f) := .inr rfl
theorem OneEncoding.winqLetterbox (h : Hdr) (f : FS) : OneEncoding.Statement (.winqLetterbox h f) := .inr rfl
theorem OneEncoding.winqNextSerial (h : Hdr) (f : FS) : OneEncoding.Statement (.winqNextSerial h f) := .inr rfl
theorem OneEncoding.winqLowestLive (h : Hdr) (f : FS) : OneEncoding.Statement (.winqLowestLive h f) := .inr rfl
theorem OneEncoding.winqFreeRename (h : Hdr) (f : FS) : OneEncoding.Statement (.winqFreeRename h f) := .inr rfl
theorem OneEncoding.winqTaskState (h : Hdr) (f : FS) : OneEncoding.Statement (.winqTaskState h f) := .inr rfl
theorem OneEncoding.valloc (h : Hdr) (f : FS) : OneEncoding.Statement (.valloc h f) := .inr rfl
theorem OneEncoding.vallocNb (h : Hdr) (f : FS) : OneEncoding.Statement (.vallocNb h f) := .inr rfl
theorem OneEncoding.vret (h : Hdr) (f : FS) : OneEncoding.Statement (.vret h f) := .inr rfl
theorem OneEncoding.vfold (h : Hdr) (f : FS) : OneEncoding.Statement (.vfold h f) := .inr rfl
theorem OneEncoding.vqueryState (h : Hdr) (f : FS) : OneEncoding.Statement (.vqueryState h f) := .inr rfl
theorem OneEncoding.vqueryAvailable (h : Hdr) (f : FS) : OneEncoding.Statement (.vqueryAvailable h f) := .inr rfl
theorem OneEncoding.ccWaitAny (h : Hdr) (f : FW) : OneEncoding.Statement (.ccWaitAny h f) := .inr rfl
theorem OneEncoding.ccWaitAll (h : Hdr) (f : FW) : OneEncoding.Statement (.ccWaitAll h f) := .inr rfl
theorem OneEncoding.trap (h : Hdr) (f : FS) : OneEncoding.Statement (.trap h f) := .inr rfl
theorem OneEncoding.eret (h : Hdr) (f : FS) : OneEncoding.Statement (.eret h f) := .inr rfl
theorem OneEncoding.sysr (h : Hdr) (f : FS) : OneEncoding.Statement (.sysr h f) := .inr rfl
theorem OneEncoding.sysw (h : Hdr) (f : FS) : OneEncoding.Statement (.sysw h f) := .inr rfl
theorem OneEncoding.syswVlim (h : Hdr) (f : FS) : OneEncoding.Statement (.syswVlim h f) := .inr rfl
theorem OneEncoding.syswCtxst (h : Hdr) (f : FS) : OneEncoding.Statement (.syswCtxst h f) := .inr rfl
theorem OneEncoding.sysrChkcnt (h : Hdr) (f : FS) : OneEncoding.Statement (.sysrChkcnt h f) := .inr rfl
theorem OneEncoding.syswInj (h : Hdr) (f : FS) : OneEncoding.Statement (.syswInj h f) := .inr rfl
theorem OneEncoding.syswInjmem (h : Hdr) (f : FS) : OneEncoding.Statement (.syswInjmem h f) := .inr rfl
theorem OneEncoding.ccHalt (h : Hdr) (f : FS) : OneEncoding.Statement (.ccHalt h f) := .inr rfl
theorem OneEncoding.nop (h : Hdr) (f : FS) : OneEncoding.Statement (.nop h f) := .inr rfl
theorem OneEncoding.ctxsw (h : Hdr) (f : FS) : OneEncoding.Statement (.ctxsw h f) := .inr rfl
theorem OneEncoding.ckpt (h : Hdr) (f : FS) : OneEncoding.Statement (.ckpt h f) := .inr rfl
theorem OneEncoding.apAdd (h : Hdr) (f : F3) : OneEncoding.Statement (.apAdd h f) := .inr rfl
theorem OneEncoding.apSub (h : Hdr) (f : F3) : OneEncoding.Statement (.apSub h f) := .inr rfl
theorem OneEncoding.apAnd (h : Hdr) (f : F3) : OneEncoding.Statement (.apAnd h f) := .inr rfl
theorem OneEncoding.apOr (h : Hdr) (f : F3) : OneEncoding.Statement (.apOr h f) := .inr rfl
theorem OneEncoding.apXor (h : Hdr) (f : F3) : OneEncoding.Statement (.apXor h f) := .inr rfl
theorem OneEncoding.apShl (h : Hdr) (f : F3) : OneEncoding.Statement (.apShl h f) := .inr rfl
theorem OneEncoding.apShr (h : Hdr) (f : F3) : OneEncoding.Statement (.apShr h f) := .inr rfl
theorem OneEncoding.apMul (h : Hdr) (f : F3) : OneEncoding.Statement (.apMul h f) := .inr rfl
theorem OneEncoding.apMadd (h : Hdr) (f : F3) : OneEncoding.Statement (.apMadd h f) := .inr rfl
theorem OneEncoding.apMin (h : Hdr) (f : F3) : OneEncoding.Statement (.apMin h f) := .inr rfl
theorem OneEncoding.apMax (h : Hdr) (f : F3) : OneEncoding.Statement (.apMax h f) := .inr rfl
theorem OneEncoding.apSel (h : Hdr) (f : F3) : OneEncoding.Statement (.apSel h f) := .inr rfl
theorem OneEncoding.apAddi (h : Hdr) (f : FI) : OneEncoding.Statement (.apAddi h f) := .inr rfl
theorem OneEncoding.apAndi (h : Hdr) (f : FI) : OneEncoding.Statement (.apAndi h f) := .inr rfl
theorem OneEncoding.apOri (h : Hdr) (f : FI) : OneEncoding.Statement (.apOri h f) := .inr rfl
theorem OneEncoding.apShli (h : Hdr) (f : FI) : OneEncoding.Statement (.apShli h f) := .inr rfl
theorem OneEncoding.apShri (h : Hdr) (f : FI) : OneEncoding.Statement (.apShri h f) := .inr rfl
theorem OneEncoding.apMuli (h : Hdr) (f : FI) : OneEncoding.Statement (.apMuli h f) := .inr rfl
theorem OneEncoding.apLui (h : Hdr) (f : FI) : OneEncoding.Statement (.apLui h f) := .inr rfl
theorem OneEncoding.apCmpEq (h : Hdr) (f : F3) : OneEncoding.Statement (.apCmpEq h f) := .inr rfl
theorem OneEncoding.apCmpNe (h : Hdr) (f : F3) : OneEncoding.Statement (.apCmpNe h f) := .inr rfl
theorem OneEncoding.apCmpLt (h : Hdr) (f : F3) : OneEncoding.Statement (.apCmpLt h f) := .inr rfl
theorem OneEncoding.apCmpLe (h : Hdr) (f : F3) : OneEncoding.Statement (.apCmpLe h f) := .inr rfl
theorem OneEncoding.apCmpLtu (h : Hdr) (f : F3) : OneEncoding.Statement (.apCmpLtu h f) := .inr rfl
theorem OneEncoding.apCmpLeu (h : Hdr) (f : F3) : OneEncoding.Statement (.apCmpLeu h f) := .inr rfl
theorem OneEncoding.apCmpiEq (h : Hdr) (f : FI) : OneEncoding.Statement (.apCmpiEq h f) := .inr rfl
theorem OneEncoding.apCmpiNe (h : Hdr) (f : FI) : OneEncoding.Statement (.apCmpiNe h f) := .inr rfl
theorem OneEncoding.apCmpiLt (h : Hdr) (f : FI) : OneEncoding.Statement (.apCmpiLt h f) := .inr rfl
theorem OneEncoding.apCmpiLe (h : Hdr) (f : FI) : OneEncoding.Statement (.apCmpiLe h f) := .inr rfl
theorem OneEncoding.apCmpiLtu (h : Hdr) (f : FI) : OneEncoding.Statement (.apCmpiLtu h f) := .inr rfl
theorem OneEncoding.apCmpiLeu (h : Hdr) (f : FI) : OneEncoding.Statement (.apCmpiLeu h f) := .inr rfl
theorem OneEncoding.apPand (h : Hdr) (f : F3) : OneEncoding.Statement (.apPand h f) := .inr rfl
theorem OneEncoding.apPor (h : Hdr) (f : F3) : OneEncoding.Statement (.apPor h f) := .inr rfl
theorem OneEncoding.apPnot (h : Hdr) (f : F3) : OneEncoding.Statement (.apPnot h f) := .inr rfl
theorem OneEncoding.apBr (h : Hdr) (f : FB) : OneEncoding.Statement (.apBr h f) := .inr rfl
theorem OneEncoding.apJmp (h : Hdr) (f : FB) : OneEncoding.Statement (.apJmp h f) := .inr rfl
theorem OneEncoding.brq (h : Hdr) (f : FB) : OneEncoding.Statement (.brq h f) := .inr rfl
theorem OneEncoding.ldq (h : Hdr) (f : FM) : OneEncoding.Statement (.ldq h f) := .inr rfl
theorem OneEncoding.ldqV (h : Hdr) (f : FM) : OneEncoding.Statement (.ldqV h f) := .inr rfl
theorem OneEncoding.gathq (h : Hdr) (f : FM) : OneEncoding.Statement (.gathq h f) := .inr rfl
theorem OneEncoding.apLds (h : Hdr) (f : FM) : OneEncoding.Statement (.apLds h f) := .inr rfl
theorem OneEncoding.apLdsV (h : Hdr) (f : FM) : OneEncoding.Statement (.apLdsV h f) := .inr rfl
theorem OneEncoding.sts (h : Hdr) (f : FM) : OneEncoding.Statement (.sts h f) := .inr rfl
theorem OneEncoding.stq (h : Hdr) (f : FM) : OneEncoding.Statement (.stq h f) := .inr rfl
theorem OneEncoding.stqM (h : Hdr) (f : FM) : OneEncoding.Statement (.stqM h f) := .inr rfl
theorem OneEncoding.scatq (h : Hdr) (f : FM) : OneEncoding.Statement (.scatq h f) := .inr rfl
theorem OneEncoding.mtest (h : Hdr) (f : FS) : OneEncoding.Statement (.mtest h f) := .inr rfl
theorem OneEncoding.pgreq (h : Hdr) (f : FS) : OneEncoding.Statement (.pgreq h f) := .inr rfl
theorem OneEncoding.pgquery (h : Hdr) (f : FS) : OneEncoding.Statement (.pgquery h f) := .inr rfl
theorem OneEncoding.apAmoAdd (h : Hdr) (f : FM) : OneEncoding.Statement (.apAmoAdd h f) := .inr rfl
theorem OneEncoding.apAmoAnd (h : Hdr) (f : FM) : OneEncoding.Statement (.apAmoAnd h f) := .inr rfl
theorem OneEncoding.apAmoOr (h : Hdr) (f : FM) : OneEncoding.Statement (.apAmoOr h f) := .inr rfl
theorem OneEncoding.apAmoXor (h : Hdr) (f : FM) : OneEncoding.Statement (.apAmoXor h f) := .inr rfl
theorem OneEncoding.apAmoMin (h : Hdr) (f : FM) : OneEncoding.Statement (.apAmoMin h f) := .inr rfl
theorem OneEncoding.apAmoMax (h : Hdr) (f : FM) : OneEncoding.Statement (.apAmoMax h f) := .inr rfl
theorem OneEncoding.apAmoMinu (h : Hdr) (f : FM) : OneEncoding.Statement (.apAmoMinu h f) := .inr rfl
theorem OneEncoding.apAmoMaxu (h : Hdr) (f : FM) : OneEncoding.Statement (.apAmoMaxu h f) := .inr rfl
theorem OneEncoding.apAmoSwap (h : Hdr) (f : FM) : OneEncoding.Statement (.apAmoSwap h f) := .inr rfl
theorem OneEncoding.apAmoCas (h : Hdr) (f : FM) : OneEncoding.Statement (.apAmoCas h f) := .inr rfl
theorem OneEncoding.fadd (h : Hdr) (f : FM) : OneEncoding.Statement (.fadd h f) := .inr rfl
theorem OneEncoding.apLda (h : Hdr) (f : FM) : OneEncoding.Statement (.apLda h f) := .inr rfl
theorem OneEncoding.apStl (h : Hdr) (f : FM) : OneEncoding.Statement (.apStl h f) := .inr rfl
theorem OneEncoding.apFenceCore (h : Hdr) (f : FS) : OneEncoding.Statement (.apFenceCore h f) := .inr rfl
theorem OneEncoding.apFenceDie (h : Hdr) (f : FS) : OneEncoding.Statement (.apFenceDie h f) := .inr rfl
theorem OneEncoding.apFenceDev (h : Hdr) (f : FS) : OneEncoding.Statement (.apFenceDev h f) := .inr rfl
theorem OneEncoding.apFenceDom (h : Hdr) (f : FS) : OneEncoding.Statement (.apFenceDom h f) := .inr rfl
theorem OneEncoding.barinit (h : Hdr) (f : FM) : OneEncoding.Statement (.barinit h f) := .inr rfl
theorem OneEncoding.barexp (h : Hdr) (f : FM) : OneEncoding.Statement (.barexp h f) := .inr rfl
theorem OneEncoding.bararr (h : Hdr) (f : FM) : OneEncoding.Statement (.bararr h f) := .inr rfl
theorem OneEncoding.barq (h : Hdr) (f : FM) : OneEncoding.Statement (.barq h f) := .inr rfl
theorem OneEncoding.seal (h : Hdr) (f : FS) : OneEncoding.Statement (.seal h f) := .inr rfl
theorem OneEncoding.unseal (h : Hdr) (f : FS) : OneEncoding.Statement (.unseal h f) := .inr rfl
theorem OneEncoding.apWaitAny (h : Hdr) (f : FW) : OneEncoding.Statement (.apWaitAny h f) := .inr rfl
theorem OneEncoding.apWaitAll (h : Hdr) (f : FW) : OneEncoding.Statement (.apWaitAll h f) := .inr rfl
theorem OneEncoding.wprd (h : Hdr) (f : FS) : OneEncoding.Statement (.wprd h f) := .inr rfl
theorem OneEncoding.tkclr (h : Hdr) (f : FS) : OneEncoding.Statement (.tkclr h f) := .inr rfl
theorem OneEncoding.tktest (h : Hdr) (f : FS) : OneEncoding.Statement (.tktest h f) := .inr rfl
theorem OneEncoding.ecCopy (h : Hdr) (f : FE) : OneEncoding.Statement (.ecCopy h f) := .inr rfl
theorem OneEncoding.ecCopyV (h : Hdr) (f : FE) : OneEncoding.Statement (.ecCopyV h f) := .inr rfl
theorem OneEncoding.ecFill (h : Hdr) (f : FE) : OneEncoding.Statement (.ecFill h f) := .inr rfl
theorem OneEncoding.gather (h : Hdr) (f : FE) : OneEncoding.Statement (.gather h f) := .inr rfl
theorem OneEncoding.scatter (h : Hdr) (f : FE) : OneEncoding.Statement (.scatter h f) := .inr rfl
theorem OneEncoding.cstream (h : Hdr) (f : FE) : OneEncoding.Statement (.cstream h f) := .inr rfl
theorem OneEncoding.route (h : Hdr) (f : FE) : OneEncoding.Statement (.route h f) := .inr rfl
theorem OneEncoding.rcsnap (h : Hdr) (f : FE) : OneEncoding.Statement (.rcsnap h f) := .inr rfl
theorem OneEncoding.rcread (h : Hdr) (f : FE) : OneEncoding.Statement (.rcread h f) := .inr rfl
theorem OneEncoding.courier (h : Hdr) (f : FE) : OneEncoding.Statement (.courier h f) := .inr rfl
theorem OneEncoding.spawn (h : Hdr) (f : FE) : OneEncoding.Statement (.spawn h f) := .inr rfl
theorem OneEncoding.rput (h : Hdr) (f : FE) : OneEncoding.Statement (.rput h f) := .inr rfl
theorem OneEncoding.rget (h : Hdr) (f : FE) : OneEncoding.Statement (.rget h f) := .inr rfl
theorem OneEncoding.ramo (h : Hdr) (f : FE) : OneEncoding.Statement (.ramo h f) := .inr rfl
theorem OneEncoding.mcast (h : Hdr) (f : FE) : OneEncoding.Statement (.mcast h f) := .inr rfl
theorem OneEncoding.cwCopy (c : BitVec 4) (n : BitVec 24) : OneEncoding.Statement (.cwCopy c n) := .inl rfl
theorem OneEncoding.cwWait (c : BitVec 4) (n : BitVec 24) : OneEncoding.Statement (.cwWait c n) := .inl rfl
theorem OneEncoding.cwFlag (v : BitVec 24) : OneEncoding.Statement (.cwFlag v) := .inl rfl
theorem OneEncoding.cwLoop (cnt back : BitVec 12) : OneEncoding.Statement (.cwLoop cnt back) := .inl rfl
theorem OneEncoding.cwAdd (d : BitVec 24) : OneEncoding.Statement (.cwAdd d) := .inl rfl
theorem OneEncoding.cwEnd : OneEncoding.Statement (.cwEnd) := .inl rfl
theorem OneEncoding.xpAdd (h : Hdr) (f : F3) : OneEncoding.Statement (.xpAdd h f) := .inr rfl
theorem OneEncoding.xpSub (h : Hdr) (f : F3) : OneEncoding.Statement (.xpSub h f) := .inr rfl
theorem OneEncoding.xpMul (h : Hdr) (f : F3) : OneEncoding.Statement (.xpMul h f) := .inr rfl
theorem OneEncoding.xpAnd (h : Hdr) (f : F3) : OneEncoding.Statement (.xpAnd h f) := .inr rfl
theorem OneEncoding.xpOr (h : Hdr) (f : F3) : OneEncoding.Statement (.xpOr h f) := .inr rfl
theorem OneEncoding.xpXor (h : Hdr) (f : F3) : OneEncoding.Statement (.xpXor h f) := .inr rfl
theorem OneEncoding.xpShl (h : Hdr) (f : F3) : OneEncoding.Statement (.xpShl h f) := .inr rfl
theorem OneEncoding.xpShr (h : Hdr) (f : F3) : OneEncoding.Statement (.xpShr h f) := .inr rfl
theorem OneEncoding.xpSel (h : Hdr) (f : F3) : OneEncoding.Statement (.xpSel h f) := .inr rfl
theorem OneEncoding.xpAddi (h : Hdr) (f : FI) : OneEncoding.Statement (.xpAddi h f) := .inr rfl
theorem OneEncoding.xpMovi (h : Hdr) (f : FI) : OneEncoding.Statement (.xpMovi h f) := .inr rfl
theorem OneEncoding.xpShli (h : Hdr) (f : FI) : OneEncoding.Statement (.xpShli h f) := .inr rfl
theorem OneEncoding.xpCmpEq (h : Hdr) (f : F3) : OneEncoding.Statement (.xpCmpEq h f) := .inr rfl
theorem OneEncoding.xpCmpNe (h : Hdr) (f : F3) : OneEncoding.Statement (.xpCmpNe h f) := .inr rfl
theorem OneEncoding.xpCmpLt (h : Hdr) (f : F3) : OneEncoding.Statement (.xpCmpLt h f) := .inr rfl
theorem OneEncoding.xpCmpLe (h : Hdr) (f : F3) : OneEncoding.Statement (.xpCmpLe h f) := .inr rfl
theorem OneEncoding.xpCmpLtu (h : Hdr) (f : F3) : OneEncoding.Statement (.xpCmpLtu h f) := .inr rfl
theorem OneEncoding.xpCmpLeu (h : Hdr) (f : F3) : OneEncoding.Statement (.xpCmpLeu h f) := .inr rfl
theorem OneEncoding.xpPand (h : Hdr) (f : F3) : OneEncoding.Statement (.xpPand h f) := .inr rfl
theorem OneEncoding.xpPor (h : Hdr) (f : F3) : OneEncoding.Statement (.xpPor h f) := .inr rfl
theorem OneEncoding.xpPnot (h : Hdr) (f : F3) : OneEncoding.Statement (.xpPnot h f) := .inr rfl
theorem OneEncoding.xpBr (h : Hdr) (f : FB) : OneEncoding.Statement (.xpBr h f) := .inr rfl
theorem OneEncoding.xpJmp (h : Hdr) (f : FB) : OneEncoding.Statement (.xpJmp h f) := .inr rfl
theorem OneEncoding.brb (h : Hdr) (f : FB) : OneEncoding.Statement (.brb h f) := .inr rfl
theorem OneEncoding.vadd (h : Hdr) (f : F3) : OneEncoding.Statement (.vadd h f) := .inr rfl
theorem OneEncoding.vsub (h : Hdr) (f : F3) : OneEncoding.Statement (.vsub h f) := .inr rfl
theorem OneEncoding.vmul (h : Hdr) (f : F3) : OneEncoding.Statement (.vmul h f) := .inr rfl
theorem OneEncoding.vmulh (h : Hdr) (f : F3) : OneEncoding.Statement (.vmulh h f) := .inr rfl
theorem OneEncoding.vmin (h : Hdr) (f : F3) : OneEncoding.Statement (.vmin h f) := .inr rfl
theorem OneEncoding.vmax (h : Hdr) (f : F3) : OneEncoding.Statement (.vmax h f) := .inr rfl
theorem OneEncoding.vminu (h : Hdr) (f : F3) : OneEncoding.Statement (.vminu h f) := .inr rfl
theorem OneEncoding.vmaxu (h : Hdr) (f : F3) : OneEncoding.Statement (.vmaxu h f) := .inr rfl
theorem OneEncoding.vand (h : Hdr) (f : F3) : OneEncoding.Statement (.vand h f) := .inr rfl
theorem OneEncoding.vor (h : Hdr) (f : F3) : OneEncoding.Statement (.vor h f) := .inr rfl
theorem OneEncoding.vxor (h : Hdr) (f : F3) : OneEncoding.Statement (.vxor h f) := .inr rfl
theorem OneEncoding.vabsd (h : Hdr) (f : F3) : OneEncoding.Statement (.vabsd h f) := .inr rfl
theorem OneEncoding.vshl (h : Hdr) (f : F3) : OneEncoding.Statement (.vshl h f) := .inr rfl
theorem OneEncoding.vshr (h : Hdr) (f : F3) : OneEncoding.Statement (.vshr h f) := .inr rfl
theorem OneEncoding.vsar (h : Hdr) (f : F3) : OneEncoding.Statement (.vsar h f) := .inr rfl
theorem OneEncoding.vfshl (h : Hdr) (f : F3) : OneEncoding.Statement (.vfshl h f) := .inr rfl
theorem OneEncoding.vfshr (h : Hdr) (f : F3) : OneEncoding.Statement (.vfshr h f) := .inr rfl
theorem OneEncoding.vclz (h : Hdr) (f : F3) : OneEncoding.Statement (.vclz h f) := .inr rfl
theorem OneEncoding.vpopc (h : Hdr) (f : F3) : OneEncoding.Statement (.vpopc h f) := .inr rfl
theorem OneEncoding.vcmpEq (h : Hdr) (f : F3) : OneEncoding.Statement (.vcmpEq h f) := .inr rfl
theorem OneEncoding.vcmpNe (h : Hdr) (f : F3) : OneEncoding.Statement (.vcmpNe h f) := .inr rfl
theorem OneEncoding.vcmpLt (h : Hdr) (f : F3) : OneEncoding.Statement (.vcmpLt h f) := .inr rfl
theorem OneEncoding.vcmpLe (h : Hdr) (f : F3) : OneEncoding.Statement (.vcmpLe h f) := .inr rfl
theorem OneEncoding.vcmpLtu (h : Hdr) (f : F3) : OneEncoding.Statement (.vcmpLtu h f) := .inr rfl
theorem OneEncoding.vcmpLeu (h : Hdr) (f : F3) : OneEncoding.Statement (.vcmpLeu h f) := .inr rfl
theorem OneEncoding.vsel (h : Hdr) (f : F3) : OneEncoding.Statement (.vsel h f) := .inr rfl
theorem OneEncoding.mand (h : Hdr) (f : F3) : OneEncoding.Statement (.mand h f) := .inr rfl
theorem OneEncoding.mor (h : Hdr) (f : F3) : OneEncoding.Statement (.mor h f) := .inr rfl
theorem OneEncoding.mnot (h : Hdr) (f : F3) : OneEncoding.Statement (.mnot h f) := .inr rfl
theorem OneEncoding.mpopc (h : Hdr) (f : F3) : OneEncoding.Statement (.mpopc h f) := .inr rfl
theorem OneEncoding.vfadd (h : Hdr) (f : F3) : OneEncoding.Statement (.vfadd h f) := .inr rfl
theorem OneEncoding.vfsub (h : Hdr) (f : F3) : OneEncoding.Statement (.vfsub h f) := .inr rfl
theorem OneEncoding.vfmul (h : Hdr) (f : F3) : OneEncoding.Statement (.vfmul h f) := .inr rfl
theorem OneEncoding.vfma (h : Hdr) (f : F3) : OneEncoding.Statement (.vfma h f) := .inr rfl
theorem OneEncoding.vfms (h : Hdr) (f : F3) : OneEncoding.Statement (.vfms h f) := .inr rfl
theorem OneEncoding.vfmin (h : Hdr) (f : F3) : OneEncoding.Statement (.vfmin h f) := .inr rfl
theorem OneEncoding.vfmax (h : Hdr) (f : F3) : OneEncoding.Statement (.vfmax h f) := .inr rfl
theorem OneEncoding.vfabs (h : Hdr) (f : F3) : OneEncoding.Statement (.vfabs h f) := .inr rfl
theorem OneEncoding.vfneg (h : Hdr) (f : F3) : OneEncoding.Statement (.vfneg h f) := .inr rfl
theorem OneEncoding.vfrcp (h : Hdr) (f : F3) : OneEncoding.Statement (.vfrcp h f) := .inr rfl
theorem OneEncoding.vfrsq (h : Hdr) (f : F3) : OneEncoding.Statement (.vfrsq h f) := .inr rfl
theorem OneEncoding.vfexp2 (h : Hdr) (f : F3) : OneEncoding.Statement (.vfexp2 h f) := .inr rfl
theorem OneEncoding.vflog2 (h : Hdr) (f : F3) : OneEncoding.Statement (.vflog2 h f) := .inr rfl
theorem OneEncoding.vfsqrt (h : Hdr) (f : F3) : OneEncoding.Statement (.vfsqrt h f) := .inr rfl
theorem OneEncoding.vfdiv (h : Hdr) (f : F3) : OneEncoding.Statement (.vfdiv h f) := .inr rfl
theorem OneEncoding.vcvt (h : Hdr) (f : F3) : OneEncoding.Statement (.vcvt h f) := .inr rfl
theorem OneEncoding.vsrnd (h : Hdr) (f : F3) : OneEncoding.Statement (.vsrnd h f) := .inr rfl
theorem OneEncoding.vquant (h : Hdr) (f : F3) : OneEncoding.Statement (.vquant h f) := .inr rfl
theorem OneEncoding.vdeq (h : Hdr) (f : F3) : OneEncoding.Statement (.vdeq h f) := .inr rfl
theorem OneEncoding.vplane (h : Hdr) (f : F3) : OneEncoding.Statement (.vplane h f) := .inr rfl
theorem OneEncoding.vunplane (h : Hdr) (f : F3) : OneEncoding.Statement (.vunplane h f) := .inr rfl
theorem OneEncoding.vrsum (h : Hdr) (f : F3) : OneEncoding.Statement (.vrsum h f) := .inr rfl
theorem OneEncoding.vrmax (h : Hdr) (f : F3) : OneEncoding.Statement (.vrmax h f) := .inr rfl
theorem OneEncoding.vrmin (h : Hdr) (f : F3) : OneEncoding.Statement (.vrmin h f) := .inr rfl
theorem OneEncoding.vrmaxi (h : Hdr) (f : F3) : OneEncoding.Statement (.vrmaxi h f) := .inr rfl
theorem OneEncoding.vpsum (h : Hdr) (f : F3) : OneEncoding.Statement (.vpsum h f) := .inr rfl
theorem OneEncoding.vgmax (h : Hdr) (f : F3) : OneEncoding.Statement (.vgmax h f) := .inr rfl
theorem OneEncoding.vgsum (h : Hdr) (f : F3) : OneEncoding.Statement (.vgsum h f) := .inr rfl
theorem OneEncoding.vperm (h : Hdr) (f : F3) : OneEncoding.Statement (.vperm h f) := .inr rfl
theorem OneEncoding.vbcast (h : Hdr) (f : F3) : OneEncoding.Statement (.vbcast h f) := .inr rfl
theorem OneEncoding.vslide (h : Hdr) (f : F3) : OneEncoding.Statement (.vslide h f) := .inr rfl
theorem OneEncoding.vcomp (h : Hdr) (f : F3) : OneEncoding.Statement (.vcomp h f) := .inr rfl
theorem OneEncoding.vexp (h : Hdr) (f : F3) : OneEncoding.Statement (.vexp h f) := .inr rfl
theorem OneEncoding.vmovi (h : Hdr) (f : FI) : OneEncoding.Statement (.vmovi h f) := .inr rfl
theorem OneEncoding.qpop (h : Hdr) (f : F3) : OneEncoding.Statement (.qpop h f) := .inr rfl
theorem OneEncoding.qpopm (h : Hdr) (f : F3) : OneEncoding.Statement (.qpopm h f) := .inr rfl
theorem OneEncoding.qpush (h : Hdr) (f : F3) : OneEncoding.Statement (.qpush h f) := .inr rfl
theorem OneEncoding.qpushm (h : Hdr) (f : F3) : OneEncoding.Statement (.qpushm h f) := .inr rfl
theorem OneEncoding.qcnt (h : Hdr) (f : F3) : OneEncoding.Statement (.qcnt h f) := .inr rfl
theorem OneEncoding.vldb (h : Hdr) (f : FM) : OneEncoding.Statement (.vldb h f) := .inr rfl
theorem OneEncoding.vstb (h : Hdr) (f : FM) : OneEncoding.Statement (.vstb h f) := .inr rfl
theorem OneEncoding.vstbm (h : Hdr) (f : FM) : OneEncoding.Statement (.vstbm h f) := .inr rfl
theorem OneEncoding.loop (h : Hdr) (f : FL) : OneEncoding.Statement (.loop h f) := .inr rfl
theorem OneEncoding.lbrk (h : Hdr) (f : FS) : OneEncoding.Statement (.lbrk h f) := .inr rfl
theorem OneEncoding.oset (h : Hdr) (f : FI) : OneEncoding.Statement (.oset h f) := .inr rfl
theorem OneEncoding.oadd (h : Hdr) (f : FI) : OneEncoding.Statement (.oadd h f) := .inr rfl
theorem OneEncoding.defer (h : Hdr) (f : F3) : OneEncoding.Statement (.defer h f) := .inr rfl
theorem OneEncoding.defcnt (h : Hdr) (f : F3) : OneEncoding.Statement (.defcnt h f) := .inr rfl
theorem OneEncoding.deftake (h : Hdr) (f : F3) : OneEncoding.Statement (.deftake h f) := .inr rfl
theorem OneEncoding.xpose (h : Hdr) (f : FE) : OneEncoding.Statement (.xpose h f) := .inr rfl
theorem OneEncoding.xposeP (h : Hdr) (f : FE) : OneEncoding.Statement (.xposeP h f) := .inr rfl
theorem OneEncoding.spill (h : Hdr) (f : FE) : OneEncoding.Statement (.spill h f) := .inr rfl
theorem OneEncoding.xpFill (h : Hdr) (f : FE) : OneEncoding.Statement (.xpFill h f) := .inr rfl
theorem OneEncoding.view (h : Hdr) (f : FS) : OneEncoding.Statement (.view h f) := .inr rfl
theorem OneEncoding.xpWaitAny (h : Hdr) (f : FW) : OneEncoding.Statement (.xpWaitAny h f) := .inr rfl
theorem OneEncoding.xpWaitAll (h : Hdr) (f : FW) : OneEncoding.Statement (.xpWaitAll h f) := .inr rfl
theorem OneEncoding.claim (h : Hdr) (f : FE) : OneEncoding.Statement (.claim h f) := .inr rfl
theorem OneEncoding.release (h : Hdr) (f : FE) : OneEncoding.Statement (.release h f) := .inr rfl
theorem OneEncoding.tpri (h : Hdr) (f : FE) : OneEncoding.Statement (.tpri h f) := .inr rfl
theorem OneEncoding.wload (h : Hdr) (f : FE) : OneEncoding.Statement (.wload h f) := .inr rfl
theorem OneEncoding.wloadp (h : Hdr) (f : FE) : OneEncoding.Statement (.wloadp h f) := .inr rfl
theorem OneEncoding.mstream (h : Hdr) (f : FE) : OneEncoding.Statement (.mstream h f) := .inr rfl
theorem OneEncoding.mstreamp (h : Hdr) (f : FE) : OneEncoding.Statement (.mstreamp h f) := .inr rfl
theorem OneEncoding.mvstream (h : Hdr) (f : FE) : OneEncoding.Statement (.mvstream h f) := .inr rfl
theorem OneEncoding.teob (h : Hdr) (f : FE) : OneEncoding.Statement (.teob h f) := .inr rfl
theorem OneEncoding.tdrain (h : Hdr) (f : FE) : OneEncoding.Statement (.tdrain h f) := .inr rfl
theorem OneEncoding.tacs (h : Hdr) (f : FS) : OneEncoding.Statement (.tacs h f) := .inr rfl
theorem OneEncoding.tacsClr (h : Hdr) (f : FS) : OneEncoding.Statement (.tacsClr h f) := .inr rfl
theorem OneEncoding.tchk (h : Hdr) (f : FS) : OneEncoding.Statement (.tchk h f) := .inr rfl
theorem OneEncoding.tchkClr (h : Hdr) (f : FS) : OneEncoding.Statement (.tchkClr h f) := .inr rfl
theorem OneEncoding.swap (h : Hdr) (f : FS) : OneEncoding.Statement (.swap h f) := .inr rfl
theorem OneEncoding.commit (h : Hdr) (f : FS) : OneEncoding.Statement (.commit h f) := .inr rfl
theorem OneEncoding.halt (h : Hdr) (f : FS) : OneEncoding.Statement (.halt h f) := .inr rfl
theorem OneEncoding.slip (h : Hdr) (f : FS) : OneEncoding.Statement (.slip h f) := .inr rfl
theorem OneEncoding.mark (h : Hdr) (f : FS) : OneEncoding.Statement (.mark h f) := .inr rfl

end Sys2Proof.Laws
end

