-- ==== Sys2Proof/Laws/State.lean ====
section
/-! SUPPORT. One lemma for each field of the state and each of the named updates: what an update leaves as it was, and what it reads
afterwards where it writes. -/

namespace Sys2Proof.Machine

/-! ## One die, one core, one address space replaced -/

@[simp] theorem putDie_cycle (s : State) (d : Nat) (x : Die) : (putDie s d x).cycle = s.cycle := rfl
@[simp] theorem putDie_focus (s : State) (d : Nat) (x : Die) : (putDie s d x).focus = s.focus := rfl
@[simp] theorem putDie_agenda (s : State) (d : Nat) (x : Die) : (putDie s d x).agenda = s.agenda := rfl
@[simp] theorem putDie_timers (s : State) (d : Nat) (x : Die) : (putDie s d x).timers = s.timers := rfl
@[simp] theorem putDie_inbox (s : State) (d : Nat) (x : Die) : (putDie s d x).inbox = s.inbox := rfl
@[simp] theorem putDie_outbox (s : State) (d : Nat) (x : Die) : (putDie s d x).outbox = s.outbox := rfl
@[simp] theorem putDie_fresh (s : State) (d : Nat) (x : Die) : (putDie s d x).fresh = s.fresh := rfl
@[simp] theorem putDie_seq (s : State) (d : Nat) (x : Die) : (putDie s d x).seq = s.seq := rfl
@[simp] theorem putDie_mem (s : State) (d : Nat) (x : Die) : (putDie s d x).mem = s.mem := rfl
@[simp] theorem putDie_poison (s : State) (d : Nat) (x : Die) : (putDie s d x).poison = s.poison := rfl
@[simp] theorem putDie_cores (s : State) (d : Nat) (x : Die) : (putDie s d x).cores = s.cores := rfl
@[simp] theorem putDie_spaces (s : State) (d : Nat) (x : Die) : (putDie s d x).spaces = s.spaces := rfl
@[simp] theorem putDie_cells (s : State) (d : Nat) (x : Die) : (putDie s d x).cells = s.cells := rfl
@[simp] theorem putDie_making (s : State) (d : Nat) (x : Die) : (putDie s d x).making = s.making := rfl
@[simp] theorem putDie_cellWaits (s : State) (d : Nat) (x : Die) : (putDie s d x).cellWaits = s.cellWaits := rfl
@[simp] theorem putDie_writes (s : State) (d : Nat) (x : Die) : (putDie s d x).writes = s.writes := rfl
@[simp] theorem putDie_order (s : State) (d : Nat) (x : Die) : (putDie s d x).order = s.order := rfl
@[simp] theorem putDie_shoots (s : State) (d : Nat) (x : Die) : (putDie s d x).shoots = s.shoots := rfl
@[simp] theorem putDie_poste (s : State) (d : Nat) (x : Die) : (putDie s d x).poste = s.poste := rfl
@[simp] theorem putDie_posteSeq (s : State) (d : Nat) (x : Die) : (putDie s d x).posteSeq = s.posteSeq := rfl
@[simp] theorem putDie_faults (s : State) (d : Nat) (x : Die) : (putDie s d x).faults = s.faults := rfl
@[simp] theorem putDie_failed (s : State) (d : Nat) (x : Die) : (putDie s d x).failed = s.failed := rfl
@[simp] theorem putDie_walkers (s : State) (d : Nat) (x : Die) : (putDie s d x).walkers = s.walkers := rfl
@[simp] theorem putDie_launches (s : State) (d : Nat) (x : Die) : (putDie s d x).launches = s.launches := rfl
@[simp] theorem putDie_launchNo (s : State) (d : Nat) (x : Die) : (putDie s d x).launchNo = s.launchNo := rfl
@[simp] theorem putDie_devid (s : State) (d : Nat) (x : Die) : (putDie s d x).devid = s.devid := rfl
@[simp] theorem putDie_ipPrefix (s : State) (d : Nat) (x : Die) : (putDie s d x).ipPrefix = s.ipPrefix := rfl
@[simp] theorem putDie_lists (s : State) (d : Nat) (x : Die) : (putDie s d x).lists = s.lists := rfl
@[simp] theorem putDie_flows (s : State) (d : Nat) (x : Die) : (putDie s d x).flows = s.flows := rfl
@[simp] theorem putDie_listSend (s : State) (d : Nat) (x : Die) : (putDie s d x).listSend = s.listSend := rfl
@[simp] theorem putDie_listRecv (s : State) (d : Nat) (x : Die) : (putDie s d x).listRecv = s.listRecv := rfl
@[simp] theorem putDie_answers (s : State) (d : Nat) (x : Die) : (putDie s d x).answers = s.answers := rfl
@[simp] theorem putDie_ops (s : State) (d : Nat) (x : Die) : (putDie s d x).ops = s.ops := rfl
@[simp] theorem putDie_mcasts (s : State) (d : Nat) (x : Die) : (putDie s d x).mcasts = s.mcasts := rfl
@[simp] theorem putDie_served (s : State) (d : Nat) (x : Die) : (putDie s d x).served = s.served := rfl
@[simp] theorem putDie_epoch (s : State) (d : Nat) (x : Die) : (putDie s d x).epoch = s.epoch := rfl
@[simp] theorem putDie_ports (s : State) (d : Nat) (x : Die) : (putDie s d x).ports = s.ports := rfl
@[simp] theorem putDie_discards (s : State) (d : Nat) (x : Die) : (putDie s d x).discards = s.discards := rfl
@[simp] theorem putDie_uctAnswers (s : State) (d : Nat) (x : Die) : (putDie s d x).uctAnswers = s.uctAnswers := rfl
@[simp] theorem putDie_events (s : State) (d : Nat) (x : Die) : (putDie s d x).events = s.events := rfl
@[simp] theorem putDie_nextEvent (s : State) (d : Nat) (x : Die) : (putDie s d x).nextEvent = s.nextEvent := rfl
@[simp] theorem putDie_hscore (s : State) (d : Nat) (x : Die) : (putDie s d x).hscore = s.hscore := rfl
@[simp] theorem putDie_fscore (s : State) (d : Nat) (x : Die) : (putDie s d x).fscore = s.fscore := rfl
@[simp] theorem putDie_injHub (s : State) (d : Nat) (x : Die) : (putDie s d x).injHub = s.injHub := rfl
@[simp] theorem putDie_injPool (s : State) (d : Nat) (x : Die) : (putDie s d x).injPool = s.injPool := rfl
@[simp] theorem putDie_reserve (s : State) (d : Nat) (x : Die) : (putDie s d x).reserve = s.reserve := rfl
@[simp] theorem putDie_withdrawn (s : State) (d : Nat) (x : Die) : (putDie s d x).withdrawn = s.withdrawn := rfl
@[simp] theorem putDie_fencedPairs (s : State) (d : Nat) (x : Die) : (putDie s d x).fencedPairs = s.fencedPairs := rfl
@[simp] theorem putDie_partition (s : State) (d : Nat) (x : Die) : (putDie s d x).partition = s.partition := rfl
@[simp] theorem putDie_corrected (s : State) (d : Nat) (x : Die) : (putDie s d x).corrected = s.corrected := rfl
@[simp] theorem putDie_boot (s : State) (d : Nat) (x : Die) : (putDie s d x).boot = s.boot := rfl
@[simp] theorem putDie_board (s : State) (d : Nat) (x : Die) : (putDie s d x).board = s.board := rfl
@[simp] theorem putDie_powerLog (s : State) (d : Nat) (x : Die) : (putDie s d x).powerLog = s.powerLog := rfl
@[simp] theorem putDie_powerHold (s : State) (d : Nat) (x : Die) : (putDie s d x).powerHold = s.powerHold := rfl
@[simp] theorem putDie_tempHold (s : State) (d : Nat) (x : Die) : (putDie s d x).tempHold = s.tempHold := rfl
@[simp] theorem putDie_hotInlet (s : State) (d : Nat) (x : Die) : (putDie s d x).hotInlet = s.hotInlet := rfl
@[simp] theorem putDie_ckpt (s : State) (d : Nat) (x : Die) : (putDie s d x).ckpt = s.ckpt := rfl
@[simp] theorem putDie_cellar (s : State) (d : Nat) (x : Die) : (putDie s d x).cellar = s.cellar := rfl
@[simp] theorem putDie_cellarLink (s : State) (d : Nat) (x : Die) : (putDie s d x).cellarLink = s.cellarLink := rfl
@[simp] theorem putDie_strikes (s : State) (d : Nat) (x : Die) : (putDie s d x).strikes = s.strikes := rfl
@[simp] theorem putDie_barriers (s : State) (d : Nat) (x : Die) : (putDie s d x).barriers = s.barriers := rfl
@[simp] theorem putDie_heldReads (s : State) (d : Nat) (x : Die) : (putDie s d x).heldReads = s.heldReads := rfl
@[simp] theorem putDie_ended (s : State) (d : Nat) (x : Die) : (putDie s d x).ended = s.ended := rfl
@[simp] theorem putCore_cycle (s : State) (d c : Nat) (x : Core) : (putCore s d c x).cycle = s.cycle := rfl
@[simp] theorem putCore_focus (s : State) (d c : Nat) (x : Core) : (putCore s d c x).focus = s.focus := rfl
@[simp] theorem putCore_agenda (s : State) (d c : Nat) (x : Core) : (putCore s d c x).agenda = s.agenda := rfl
@[simp] theorem putCore_timers (s : State) (d c : Nat) (x : Core) : (putCore s d c x).timers = s.timers := rfl
@[simp] theorem putCore_inbox (s : State) (d c : Nat) (x : Core) : (putCore s d c x).inbox = s.inbox := rfl
@[simp] theorem putCore_outbox (s : State) (d c : Nat) (x : Core) : (putCore s d c x).outbox = s.outbox := rfl
@[simp] theorem putCore_fresh (s : State) (d c : Nat) (x : Core) : (putCore s d c x).fresh = s.fresh := rfl
@[simp] theorem putCore_seq (s : State) (d c : Nat) (x : Core) : (putCore s d c x).seq = s.seq := rfl
@[simp] theorem putCore_mem (s : State) (d c : Nat) (x : Core) : (putCore s d c x).mem = s.mem := rfl
@[simp] theorem putCore_poison (s : State) (d c : Nat) (x : Core) : (putCore s d c x).poison = s.poison := rfl
@[simp] theorem putCore_dies (s : State) (d c : Nat) (x : Core) : (putCore s d c x).dies = s.dies := rfl
@[simp] theorem putCore_spaces (s : State) (d c : Nat) (x : Core) : (putCore s d c x).spaces = s.spaces := rfl
@[simp] theorem putCore_cells (s : State) (d c : Nat) (x : Core) : (putCore s d c x).cells = s.cells := rfl
@[simp] theorem putCore_making (s : State) (d c : Nat) (x : Core) : (putCore s d c x).making = s.making := rfl
@[simp] theorem putCore_cellWaits (s : State) (d c : Nat) (x : Core) : (putCore s d c x).cellWaits = s.cellWaits := rfl
@[simp] theorem putCore_writes (s : State) (d c : Nat) (x : Core) : (putCore s d c x).writes = s.writes := rfl
@[simp] theorem putCore_order (s : State) (d c : Nat) (x : Core) : (putCore s d c x).order = s.order := rfl
@[simp] theorem putCore_shoots (s : State) (d c : Nat) (x : Core) : (putCore s d c x).shoots = s.shoots := rfl
@[simp] theorem putCore_poste (s : State) (d c : Nat) (x : Core) : (putCore s d c x).poste = s.poste := rfl
@[simp] theorem putCore_posteSeq (s : State) (d c : Nat) (x : Core) : (putCore s d c x).posteSeq = s.posteSeq := rfl
@[simp] theorem putCore_faults (s : State) (d c : Nat) (x : Core) : (putCore s d c x).faults = s.faults := rfl
@[simp] theorem putCore_failed (s : State) (d c : Nat) (x : Core) : (putCore s d c x).failed = s.failed := rfl
@[simp] theorem putCore_walkers (s : State) (d c : Nat) (x : Core) : (putCore s d c x).walkers = s.walkers := rfl
@[simp] theorem putCore_launches (s : State) (d c : Nat) (x : Core) : (putCore s d c x).launches = s.launches := rfl
@[simp] theorem putCore_launchNo (s : State) (d c : Nat) (x : Core) : (putCore s d c x).launchNo = s.launchNo := rfl
@[simp] theorem putCore_devid (s : State) (d c : Nat) (x : Core) : (putCore s d c x).devid = s.devid := rfl
@[simp] theorem putCore_ipPrefix (s : State) (d c : Nat) (x : Core) : (putCore s d c x).ipPrefix = s.ipPrefix := rfl
@[simp] theorem putCore_lists (s : State) (d c : Nat) (x : Core) : (putCore s d c x).lists = s.lists := rfl
@[simp] theorem putCore_flows (s : State) (d c : Nat) (x : Core) : (putCore s d c x).flows = s.flows := rfl
@[simp] theorem putCore_listSend (s : State) (d c : Nat) (x : Core) : (putCore s d c x).listSend = s.listSend := rfl
@[simp] theorem putCore_listRecv (s : State) (d c : Nat) (x : Core) : (putCore s d c x).listRecv = s.listRecv := rfl
@[simp] theorem putCore_answers (s : State) (d c : Nat) (x : Core) : (putCore s d c x).answers = s.answers := rfl
@[simp] theorem putCore_ops (s : State) (d c : Nat) (x : Core) : (putCore s d c x).ops = s.ops := rfl
@[simp] theorem putCore_mcasts (s : State) (d c : Nat) (x : Core) : (putCore s d c x).mcasts = s.mcasts := rfl
@[simp] theorem putCore_served (s : State) (d c : Nat) (x : Core) : (putCore s d c x).served = s.served := rfl
@[simp] theorem putCore_epoch (s : State) (d c : Nat) (x : Core) : (putCore s d c x).epoch = s.epoch := rfl
@[simp] theorem putCore_ports (s : State) (d c : Nat) (x : Core) : (putCore s d c x).ports = s.ports := rfl
@[simp] theorem putCore_discards (s : State) (d c : Nat) (x : Core) : (putCore s d c x).discards = s.discards := rfl
@[simp] theorem putCore_uctAnswers (s : State) (d c : Nat) (x : Core) : (putCore s d c x).uctAnswers = s.uctAnswers := rfl
@[simp] theorem putCore_events (s : State) (d c : Nat) (x : Core) : (putCore s d c x).events = s.events := rfl
@[simp] theorem putCore_nextEvent (s : State) (d c : Nat) (x : Core) : (putCore s d c x).nextEvent = s.nextEvent := rfl
@[simp] theorem putCore_hscore (s : State) (d c : Nat) (x : Core) : (putCore s d c x).hscore = s.hscore := rfl
@[simp] theorem putCore_fscore (s : State) (d c : Nat) (x : Core) : (putCore s d c x).fscore = s.fscore := rfl
@[simp] theorem putCore_injHub (s : State) (d c : Nat) (x : Core) : (putCore s d c x).injHub = s.injHub := rfl
@[simp] theorem putCore_injPool (s : State) (d c : Nat) (x : Core) : (putCore s d c x).injPool = s.injPool := rfl
@[simp] theorem putCore_reserve (s : State) (d c : Nat) (x : Core) : (putCore s d c x).reserve = s.reserve := rfl
@[simp] theorem putCore_withdrawn (s : State) (d c : Nat) (x : Core) : (putCore s d c x).withdrawn = s.withdrawn := rfl
@[simp] theorem putCore_fencedPairs (s : State) (d c : Nat) (x : Core) : (putCore s d c x).fencedPairs = s.fencedPairs := rfl
@[simp] theorem putCore_partition (s : State) (d c : Nat) (x : Core) : (putCore s d c x).partition = s.partition := rfl
@[simp] theorem putCore_corrected (s : State) (d c : Nat) (x : Core) : (putCore s d c x).corrected = s.corrected := rfl
@[simp] theorem putCore_boot (s : State) (d c : Nat) (x : Core) : (putCore s d c x).boot = s.boot := rfl
@[simp] theorem putCore_board (s : State) (d c : Nat) (x : Core) : (putCore s d c x).board = s.board := rfl
@[simp] theorem putCore_powerLog (s : State) (d c : Nat) (x : Core) : (putCore s d c x).powerLog = s.powerLog := rfl
@[simp] theorem putCore_powerHold (s : State) (d c : Nat) (x : Core) : (putCore s d c x).powerHold = s.powerHold := rfl
@[simp] theorem putCore_tempHold (s : State) (d c : Nat) (x : Core) : (putCore s d c x).tempHold = s.tempHold := rfl
@[simp] theorem putCore_hotInlet (s : State) (d c : Nat) (x : Core) : (putCore s d c x).hotInlet = s.hotInlet := rfl
@[simp] theorem putCore_ckpt (s : State) (d c : Nat) (x : Core) : (putCore s d c x).ckpt = s.ckpt := rfl
@[simp] theorem putCore_cellar (s : State) (d c : Nat) (x : Core) : (putCore s d c x).cellar = s.cellar := rfl
@[simp] theorem putCore_cellarLink (s : State) (d c : Nat) (x : Core) : (putCore s d c x).cellarLink = s.cellarLink := rfl
@[simp] theorem putCore_strikes (s : State) (d c : Nat) (x : Core) : (putCore s d c x).strikes = s.strikes := rfl
@[simp] theorem putCore_barriers (s : State) (d c : Nat) (x : Core) : (putCore s d c x).barriers = s.barriers := rfl
@[simp] theorem putCore_heldReads (s : State) (d c : Nat) (x : Core) : (putCore s d c x).heldReads = s.heldReads := rfl
@[simp] theorem putCore_ended (s : State) (d c : Nat) (x : Core) : (putCore s d c x).ended = s.ended := rfl
@[simp] theorem onDie_cycle (s : State) (d : Nat) (f : Die → Die) : (onDie s d f).cycle = s.cycle := rfl
@[simp] theorem onDie_focus (s : State) (d : Nat) (f : Die → Die) : (onDie s d f).focus = s.focus := rfl
@[simp] theorem onDie_agenda (s : State) (d : Nat) (f : Die → Die) : (onDie s d f).agenda = s.agenda := rfl
@[simp] theorem onDie_timers (s : State) (d : Nat) (f : Die → Die) : (onDie s d f).timers = s.timers := rfl
@[simp] theorem onDie_inbox (s : State) (d : Nat) (f : Die → Die) : (onDie s d f).inbox = s.inbox := rfl
@[simp] theorem onDie_outbox (s : State) (d : Nat) (f : Die → Die) : (onDie s d f).outbox = s.outbox := rfl
@[simp] theorem onDie_fresh (s : State) (d : Nat) (f : Die → Die) : (onDie s d f).fresh = s.fresh := rfl
@[simp] theorem onDie_seq (s : State) (d : Nat) (f : Die → Die) : (onDie s d f).seq = s.seq := rfl
@[simp] theorem onDie_mem (s : State) (d : Nat) (f : Die → Die) : (onDie s d f).mem = s.mem := rfl
@[simp] theorem onDie_poison (s : State) (d : Nat) (f : Die → Die) : (onDie s d f).poison = s.poison := rfl
@[simp] theorem onDie_cores (s : State) (d : Nat) (f : Die → Die) : (onDie s d f).cores = s.cores := rfl
@[simp] theorem onDie_spaces (s : State) (d : Nat) (f : Die → Die) : (onDie s d f).spaces = s.spaces := rfl
@[simp] theorem onDie_cells (s : State) (d : Nat) (f : Die → Die) : (onDie s d f).cells = s.cells := rfl
@[simp] theorem onDie_making (s : State) (d : Nat) (f : Die → Die) : (onDie s d f).making = s.making := rfl
@[simp] theorem onDie_cellWaits (s : State) (d : Nat) (f : Die → Die) : (onDie s d f).cellWaits = s.cellWaits := rfl
@[simp] theorem onDie_writes (s : State) (d : Nat) (f : Die → Die) : (onDie s d f).writes = s.writes := rfl
@[simp] theorem onDie_order (s : State) (d : Nat) (f : Die → Die) : (onDie s d f).order = s.order := rfl
@[simp] theorem onDie_shoots (s : State) (d : Nat) (f : Die → Die) : (onDie s d f).shoots = s.shoots := rfl
@[simp] theorem onDie_poste (s : State) (d : Nat) (f : Die → Die) : (onDie s d f).poste = s.poste := rfl
@[simp] theorem onDie_posteSeq (s : State) (d : Nat) (f : Die → Die) : (onDie s d f).posteSeq = s.posteSeq := rfl
@[simp] theorem onDie_faults (s : State) (d : Nat) (f : Die → Die) : (onDie s d f).faults = s.faults := rfl
@[simp] theorem onDie_failed (s : State) (d : Nat) (f : Die → Die) : (onDie s d f).failed = s.failed := rfl
@[simp] theorem onDie_walkers (s : State) (d : Nat) (f : Die → Die) : (onDie s d f).walkers = s.walkers := rfl
@[simp] theorem onDie_launches (s : State) (d : Nat) (f : Die → Die) : (onDie s d f).launches = s.launches := rfl
@[simp] theorem onDie_launchNo (s : State) (d : Nat) (f : Die → Die) : (onDie s d f).launchNo = s.launchNo := rfl
@[simp] theorem onDie_devid (s : State) (d : Nat) (f : Die → Die) : (onDie s d f).devid = s.devid := rfl
@[simp] theorem onDie_ipPrefix (s : State) (d : Nat) (f : Die → Die) : (onDie s d f).ipPrefix = s.ipPrefix := rfl
@[simp] theorem onDie_lists (s : State) (d : Nat) (f : Die → Die) : (onDie s d f).lists = s.lists := rfl
@[simp] theorem onDie_flows (s : State) (d : Nat) (f : Die → Die) : (onDie s d f).flows = s.flows := rfl
@[simp] theorem onDie_listSend (s : State) (d : Nat) (f : Die → Die) : (onDie s d f).listSend = s.listSend := rfl
@[simp] theorem onDie_listRecv (s : State) (d : Nat) (f : Die → Die) : (onDie s d f).listRecv = s.listRecv := rfl
@[simp] theorem onDie_answers (s : State) (d : Nat) (f : Die → Die) : (onDie s d f).answers = s.answers := rfl
@[simp] theorem onDie_ops (s : State) (d : Nat) (f : Die → Die) : (onDie s d f).ops = s.ops := rfl
@[simp] theorem onDie_mcasts (s : State) (d : Nat) (f : Die → Die) : (onDie s d f).mcasts = s.mcasts := rfl
@[simp] theorem onDie_served (s : State) (d : Nat) (f : Die → Die) : (onDie s d f).served = s.served := rfl
@[simp] theorem onDie_epoch (s : State) (d : Nat) (f : Die → Die) : (onDie s d f).epoch = s.epoch := rfl
@[simp] theorem onDie_ports (s : State) (d : Nat) (f : Die → Die) : (onDie s d f).ports = s.ports := rfl
@[simp] theorem onDie_discards (s : State) (d : Nat) (f : Die → Die) : (onDie s d f).discards = s.discards := rfl
@[simp] theorem onDie_uctAnswers (s : State) (d : Nat) (f : Die → Die) : (onDie s d f).uctAnswers = s.uctAnswers := rfl
@[simp] theorem onDie_events (s : State) (d : Nat) (f : Die → Die) : (onDie s d f).events = s.events := rfl
@[simp] theorem onDie_nextEvent (s : State) (d : Nat) (f : Die → Die) : (onDie s d f).nextEvent = s.nextEvent := rfl
@[simp] theorem onDie_hscore (s : State) (d : Nat) (f : Die → Die) : (onDie s d f).hscore = s.hscore := rfl
@[simp] theorem onDie_fscore (s : State) (d : Nat) (f : Die → Die) : (onDie s d f).fscore = s.fscore := rfl
@[simp] theorem onDie_injHub (s : State) (d : Nat) (f : Die → Die) : (onDie s d f).injHub = s.injHub := rfl
@[simp] theorem onDie_injPool (s : State) (d : Nat) (f : Die → Die) : (onDie s d f).injPool = s.injPool := rfl
@[simp] theorem onDie_reserve (s : State) (d : Nat) (f : Die → Die) : (onDie s d f).reserve = s.reserve := rfl
@[simp] theorem onDie_withdrawn (s : State) (d : Nat) (f : Die → Die) : (onDie s d f).withdrawn = s.withdrawn := rfl
@[simp] theorem onDie_fencedPairs (s : State) (d : Nat) (f : Die → Die) : (onDie s d f).fencedPairs = s.fencedPairs := rfl
@[simp] theorem onDie_partition (s : State) (d : Nat) (f : Die → Die) : (onDie s d f).partition = s.partition := rfl
@[simp] theorem onDie_corrected (s : State) (d : Nat) (f : Die → Die) : (onDie s d f).corrected = s.corrected := rfl
@[simp] theorem onDie_boot (s : State) (d : Nat) (f : Die → Die) : (onDie s d f).boot = s.boot := rfl
@[simp] theorem onDie_board (s : State) (d : Nat) (f : Die → Die) : (onDie s d f).board = s.board := rfl
@[simp] theorem onDie_powerLog (s : State) (d : Nat) (f : Die → Die) : (onDie s d f).powerLog = s.powerLog := rfl
@[simp] theorem onDie_powerHold (s : State) (d : Nat) (f : Die → Die) : (onDie s d f).powerHold = s.powerHold := rfl
@[simp] theorem onDie_tempHold (s : State) (d : Nat) (f : Die → Die) : (onDie s d f).tempHold = s.tempHold := rfl
@[simp] theorem onDie_hotInlet (s : State) (d : Nat) (f : Die → Die) : (onDie s d f).hotInlet = s.hotInlet := rfl
@[simp] theorem onDie_ckpt (s : State) (d : Nat) (f : Die → Die) : (onDie s d f).ckpt = s.ckpt := rfl
@[simp] theorem onDie_cellar (s : State) (d : Nat) (f : Die → Die) : (onDie s d f).cellar = s.cellar := rfl
@[simp] theorem onDie_cellarLink (s : State) (d : Nat) (f : Die → Die) : (onDie s d f).cellarLink = s.cellarLink := rfl
@[simp] theorem onDie_strikes (s : State) (d : Nat) (f : Die → Die) : (onDie s d f).strikes = s.strikes := rfl
@[simp] theorem onDie_barriers (s : State) (d : Nat) (f : Die → Die) : (onDie s d f).barriers = s.barriers := rfl
@[simp] theorem onDie_heldReads (s : State) (d : Nat) (f : Die → Die) : (onDie s d f).heldReads = s.heldReads := rfl
@[simp] theorem onDie_ended (s : State) (d : Nat) (f : Die → Die) : (onDie s d f).ended = s.ended := rfl
@[simp] theorem onCore_cycle (s : State) (d c : Nat) (f : Core → Core) : (onCore s d c f).cycle = s.cycle := rfl
@[simp] theorem onCore_focus (s : State) (d c : Nat) (f : Core → Core) : (onCore s d c f).focus = s.focus := rfl
@[simp] theorem onCore_agenda (s : State) (d c : Nat) (f : Core → Core) : (onCore s d c f).agenda = s.agenda := rfl
@[simp] theorem onCore_timers (s : State) (d c : Nat) (f : Core → Core) : (onCore s d c f).timers = s.timers := rfl
@[simp] theorem onCore_inbox (s : State) (d c : Nat) (f : Core → Core) : (onCore s d c f).inbox = s.inbox := rfl
@[simp] theorem onCore_outbox (s : State) (d c : Nat) (f : Core → Core) : (onCore s d c f).outbox = s.outbox := rfl
@[simp] theorem onCore_fresh (s : State) (d c : Nat) (f : Core → Core) : (onCore s d c f).fresh = s.fresh := rfl
@[simp] theorem onCore_seq (s : State) (d c : Nat) (f : Core → Core) : (onCore s d c f).seq = s.seq := rfl
@[simp] theorem onCore_mem (s : State) (d c : Nat) (f : Core → Core) : (onCore s d c f).mem = s.mem := rfl
@[simp] theorem onCore_poison (s : State) (d c : Nat) (f : Core → Core) : (onCore s d c f).poison = s.poison := rfl
@[simp] theorem onCore_dies (s : State) (d c : Nat) (f : Core → Core) : (onCore s d c f).dies = s.dies := rfl
@[simp] theorem onCore_spaces (s : State) (d c : Nat) (f : Core → Core) : (onCore s d c f).spaces = s.spaces := rfl
@[simp] theorem onCore_cells (s : State) (d c : Nat) (f : Core → Core) : (onCore s d c f).cells = s.cells := rfl
@[simp] theorem onCore_making (s : State) (d c : Nat) (f : Core → Core) : (onCore s d c f).making = s.making := rfl
@[simp] theorem onCore_cellWaits (s : State) (d c : Nat) (f : Core → Core) : (onCore s d c f).cellWaits = s.cellWaits := rfl
@[simp] theorem onCore_writes (s : State) (d c : Nat) (f : Core → Core) : (onCore s d c f).writes = s.writes := rfl
@[simp] theorem onCore_order (s : State) (d c : Nat) (f : Core → Core) : (onCore s d c f).order = s.order := rfl
@[simp] theorem onCore_shoots (s : State) (d c : Nat) (f : Core → Core) : (onCore s d c f).shoots = s.shoots := rfl
@[simp] theorem onCore_poste (s : State) (d c : Nat) (f : Core → Core) : (onCore s d c f).poste = s.poste := rfl
@[simp] theorem onCore_posteSeq (s : State) (d c : Nat) (f : Core → Core) : (onCore s d c f).posteSeq = s.posteSeq := rfl
@[simp] theorem onCore_faults (s : State) (d c : Nat) (f : Core → Core) : (onCore s d c f).faults = s.faults := rfl
@[simp] theorem onCore_failed (s : State) (d c : Nat) (f : Core → Core) : (onCore s d c f).failed = s.failed := rfl
@[simp] theorem onCore_walkers (s : State) (d c : Nat) (f : Core → Core) : (onCore s d c f).walkers = s.walkers := rfl
@[simp] theorem onCore_launches (s : State) (d c : Nat) (f : Core → Core) : (onCore s d c f).launches = s.launches := rfl
@[simp] theorem onCore_launchNo (s : State) (d c : Nat) (f : Core → Core) : (onCore s d c f).launchNo = s.launchNo := rfl
@[simp] theorem onCore_devid (s : State) (d c : Nat) (f : Core → Core) : (onCore s d c f).devid = s.devid := rfl
@[simp] theorem onCore_ipPrefix (s : State) (d c : Nat) (f : Core → Core) : (onCore s d c f).ipPrefix = s.ipPrefix := rfl
@[simp] theorem onCore_lists (s : State) (d c : Nat) (f : Core → Core) : (onCore s d c f).lists = s.lists := rfl
@[simp] theorem onCore_flows (s : State) (d c : Nat) (f : Core → Core) : (onCore s d c f).flows = s.flows := rfl
@[simp] theorem onCore_listSend (s : State) (d c : Nat) (f : Core → Core) : (onCore s d c f).listSend = s.listSend := rfl
@[simp] theorem onCore_listRecv (s : State) (d c : Nat) (f : Core → Core) : (onCore s d c f).listRecv = s.listRecv := rfl
@[simp] theorem onCore_answers (s : State) (d c : Nat) (f : Core → Core) : (onCore s d c f).answers = s.answers := rfl
@[simp] theorem onCore_ops (s : State) (d c : Nat) (f : Core → Core) : (onCore s d c f).ops = s.ops := rfl
@[simp] theorem onCore_mcasts (s : State) (d c : Nat) (f : Core → Core) : (onCore s d c f).mcasts = s.mcasts := rfl
@[simp] theorem onCore_served (s : State) (d c : Nat) (f : Core → Core) : (onCore s d c f).served = s.served := rfl
@[simp] theorem onCore_epoch (s : State) (d c : Nat) (f : Core → Core) : (onCore s d c f).epoch = s.epoch := rfl
@[simp] theorem onCore_ports (s : State) (d c : Nat) (f : Core → Core) : (onCore s d c f).ports = s.ports := rfl
@[simp] theorem onCore_discards (s : State) (d c : Nat) (f : Core → Core) : (onCore s d c f).discards = s.discards := rfl
@[simp] theorem onCore_uctAnswers (s : State) (d c : Nat) (f : Core → Core) : (onCore s d c f).uctAnswers = s.uctAnswers := rfl
@[simp] theorem onCore_events (s : State) (d c : Nat) (f : Core → Core) : (onCore s d c f).events = s.events := rfl
@[simp] theorem onCore_nextEvent (s : State) (d c : Nat) (f : Core → Core) : (onCore s d c f).nextEvent = s.nextEvent := rfl
@[simp] theorem onCore_hscore (s : State) (d c : Nat) (f : Core → Core) : (onCore s d c f).hscore = s.hscore := rfl
@[simp] theorem onCore_fscore (s : State) (d c : Nat) (f : Core → Core) : (onCore s d c f).fscore = s.fscore := rfl
@[simp] theorem onCore_injHub (s : State) (d c : Nat) (f : Core → Core) : (onCore s d c f).injHub = s.injHub := rfl
@[simp] theorem onCore_injPool (s : State) (d c : Nat) (f : Core → Core) : (onCore s d c f).injPool = s.injPool := rfl
@[simp] theorem onCore_reserve (s : State) (d c : Nat) (f : Core → Core) : (onCore s d c f).reserve = s.reserve := rfl
@[simp] theorem onCore_withdrawn (s : State) (d c : Nat) (f : Core → Core) : (onCore s d c f).withdrawn = s.withdrawn := rfl
@[simp] theorem onCore_fencedPairs (s : State) (d c : Nat) (f : Core → Core) : (onCore s d c f).fencedPairs = s.fencedPairs := rfl
@[simp] theorem onCore_partition (s : State) (d c : Nat) (f : Core → Core) : (onCore s d c f).partition = s.partition := rfl
@[simp] theorem onCore_corrected (s : State) (d c : Nat) (f : Core → Core) : (onCore s d c f).corrected = s.corrected := rfl
@[simp] theorem onCore_boot (s : State) (d c : Nat) (f : Core → Core) : (onCore s d c f).boot = s.boot := rfl
@[simp] theorem onCore_board (s : State) (d c : Nat) (f : Core → Core) : (onCore s d c f).board = s.board := rfl
@[simp] theorem onCore_powerLog (s : State) (d c : Nat) (f : Core → Core) : (onCore s d c f).powerLog = s.powerLog := rfl
@[simp] theorem onCore_powerHold (s : State) (d c : Nat) (f : Core → Core) : (onCore s d c f).powerHold = s.powerHold := rfl
@[simp] theorem onCore_tempHold (s : State) (d c : Nat) (f : Core → Core) : (onCore s d c f).tempHold = s.tempHold := rfl
@[simp] theorem onCore_hotInlet (s : State) (d c : Nat) (f : Core → Core) : (onCore s d c f).hotInlet = s.hotInlet := rfl
@[simp] theorem onCore_ckpt (s : State) (d c : Nat) (f : Core → Core) : (onCore s d c f).ckpt = s.ckpt := rfl
@[simp] theorem onCore_cellar (s : State) (d c : Nat) (f : Core → Core) : (onCore s d c f).cellar = s.cellar := rfl
@[simp] theorem onCore_cellarLink (s : State) (d c : Nat) (f : Core → Core) : (onCore s d c f).cellarLink = s.cellarLink := rfl
@[simp] theorem onCore_strikes (s : State) (d c : Nat) (f : Core → Core) : (onCore s d c f).strikes = s.strikes := rfl
@[simp] theorem onCore_barriers (s : State) (d c : Nat) (f : Core → Core) : (onCore s d c f).barriers = s.barriers := rfl
@[simp] theorem onCore_heldReads (s : State) (d c : Nat) (f : Core → Core) : (onCore s d c f).heldReads = s.heldReads := rfl
@[simp] theorem onCore_ended (s : State) (d c : Nat) (f : Core → Core) : (onCore s d c f).ended = s.ended := rfl
@[simp] theorem State.onCore_cycle (s : State) (f : Core → Core) : (s.onCore f).cycle = s.cycle := rfl
@[simp] theorem State.onCore_focus (s : State) (f : Core → Core) : (s.onCore f).focus = s.focus := rfl
@[simp] theorem State.onCore_agenda (s : State) (f : Core → Core) : (s.onCore f).agenda = s.agenda := rfl
@[simp] theorem State.onCore_timers (s : State) (f : Core → Core) : (s.onCore f).timers = s.timers := rfl
@[simp] theorem State.onCore_inbox (s : State) (f : Core → Core) : (s.onCore f).inbox = s.inbox := rfl
@[simp] theorem State.onCore_outbox (s : State) (f : Core → Core) : (s.onCore f).outbox = s.outbox := rfl
@[simp] theorem State.onCore_fresh (s : State) (f : Core → Core) : (s.onCore f).fresh = s.fresh := rfl
@[simp] theorem State.onCore_seq (s : State) (f : Core → Core) : (s.onCore f).seq = s.seq := rfl
@[simp] theorem State.onCore_mem (s : State) (f : Core → Core) : (s.onCore f).mem = s.mem := rfl
@[simp] theorem State.onCore_poison (s : State) (f : Core → Core) : (s.onCore f).poison = s.poison := rfl
@[simp] theorem State.onCore_dies (s : State) (f : Core → Core) : (s.onCore f).dies = s.dies := rfl
@[simp] theorem State.onCore_spaces (s : State) (f : Core → Core) : (s.onCore f).spaces = s.spaces := rfl
@[simp] theorem State.onCore_cells (s : State) (f : Core → Core) : (s.onCore f).cells = s.cells := rfl
@[simp] theorem State.onCore_making (s : State) (f : Core → Core) : (s.onCore f).making = s.making := rfl
@[simp] theorem State.onCore_cellWaits (s : State) (f : Core → Core) : (s.onCore f).cellWaits = s.cellWaits := rfl
@[simp] theorem State.onCore_writes (s : State) (f : Core → Core) : (s.onCore f).writes = s.writes := rfl
@[simp] theorem State.onCore_order (s : State) (f : Core → Core) : (s.onCore f).order = s.order := rfl
@[simp] theorem State.onCore_shoots (s : State) (f : Core → Core) : (s.onCore f).shoots = s.shoots := rfl
@[simp] theorem State.onCore_poste (s : State) (f : Core → Core) : (s.onCore f).poste = s.poste := rfl
@[simp] theorem State.onCore_posteSeq (s : State) (f : Core → Core) : (s.onCore f).posteSeq = s.posteSeq := rfl
@[simp] theorem State.onCore_faults (s : State) (f : Core → Core) : (s.onCore f).faults = s.faults := rfl
@[simp] theorem State.onCore_failed (s : State) (f : Core → Core) : (s.onCore f).failed = s.failed := rfl
@[simp] theorem State.onCore_walkers (s : State) (f : Core → Core) : (s.onCore f).walkers = s.walkers := rfl
@[simp] theorem State.onCore_launches (s : State) (f : Core → Core) : (s.onCore f).launches = s.launches := rfl
@[simp] theorem State.onCore_launchNo (s : State) (f : Core → Core) : (s.onCore f).launchNo = s.launchNo := rfl
@[simp] theorem State.onCore_devid (s : State) (f : Core → Core) : (s.onCore f).devid = s.devid := rfl
@[simp] theorem State.onCore_ipPrefix (s : State) (f : Core → Core) : (s.onCore f).ipPrefix = s.ipPrefix := rfl
@[simp] theorem State.onCore_lists (s : State) (f : Core → Core) : (s.onCore f).lists = s.lists := rfl
@[simp] theorem State.onCore_flows (s : State) (f : Core → Core) : (s.onCore f).flows = s.flows := rfl
@[simp] theorem State.onCore_listSend (s : State) (f : Core → Core) : (s.onCore f).listSend = s.listSend := rfl
@[simp] theorem State.onCore_listRecv (s : State) (f : Core → Core) : (s.onCore f).listRecv = s.listRecv := rfl
@[simp] theorem State.onCore_answers (s : State) (f : Core → Core) : (s.onCore f).answers = s.answers := rfl
@[simp] theorem State.onCore_ops (s : State) (f : Core → Core) : (s.onCore f).ops = s.ops := rfl
@[simp] theorem State.onCore_mcasts (s : State) (f : Core → Core) : (s.onCore f).mcasts = s.mcasts := rfl
@[simp] theorem State.onCore_served (s : State) (f : Core → Core) : (s.onCore f).served = s.served := rfl
@[simp] theorem State.onCore_epoch (s : State) (f : Core → Core) : (s.onCore f).epoch = s.epoch := rfl
@[simp] theorem State.onCore_ports (s : State) (f : Core → Core) : (s.onCore f).ports = s.ports := rfl
@[simp] theorem State.onCore_discards (s : State) (f : Core → Core) : (s.onCore f).discards = s.discards := rfl
@[simp] theorem State.onCore_uctAnswers (s : State) (f : Core → Core) : (s.onCore f).uctAnswers = s.uctAnswers := rfl
@[simp] theorem State.onCore_events (s : State) (f : Core → Core) : (s.onCore f).events = s.events := rfl
@[simp] theorem State.onCore_nextEvent (s : State) (f : Core → Core) : (s.onCore f).nextEvent = s.nextEvent := rfl
@[simp] theorem State.onCore_hscore (s : State) (f : Core → Core) : (s.onCore f).hscore = s.hscore := rfl
@[simp] theorem State.onCore_fscore (s : State) (f : Core → Core) : (s.onCore f).fscore = s.fscore := rfl
@[simp] theorem State.onCore_injHub (s : State) (f : Core → Core) : (s.onCore f).injHub = s.injHub := rfl
@[simp] theorem State.onCore_injPool (s : State) (f : Core → Core) : (s.onCore f).injPool = s.injPool := rfl
@[simp] theorem State.onCore_reserve (s : State) (f : Core → Core) : (s.onCore f).reserve = s.reserve := rfl
@[simp] theorem State.onCore_withdrawn (s : State) (f : Core → Core) : (s.onCore f).withdrawn = s.withdrawn := rfl
@[simp] theorem State.onCore_fencedPairs (s : State) (f : Core → Core) : (s.onCore f).fencedPairs = s.fencedPairs := rfl
@[simp] theorem State.onCore_partition (s : State) (f : Core → Core) : (s.onCore f).partition = s.partition := rfl
@[simp] theorem State.onCore_corrected (s : State) (f : Core → Core) : (s.onCore f).corrected = s.corrected := rfl
@[simp] theorem State.onCore_boot (s : State) (f : Core → Core) : (s.onCore f).boot = s.boot := rfl
@[simp] theorem State.onCore_board (s : State) (f : Core → Core) : (s.onCore f).board = s.board := rfl
@[simp] theorem State.onCore_powerLog (s : State) (f : Core → Core) : (s.onCore f).powerLog = s.powerLog := rfl
@[simp] theorem State.onCore_powerHold (s : State) (f : Core → Core) : (s.onCore f).powerHold = s.powerHold := rfl
@[simp] theorem State.onCore_tempHold (s : State) (f : Core → Core) : (s.onCore f).tempHold = s.tempHold := rfl
@[simp] theorem State.onCore_hotInlet (s : State) (f : Core → Core) : (s.onCore f).hotInlet = s.hotInlet := rfl
@[simp] theorem State.onCore_ckpt (s : State) (f : Core → Core) : (s.onCore f).ckpt = s.ckpt := rfl
@[simp] theorem State.onCore_cellar (s : State) (f : Core → Core) : (s.onCore f).cellar = s.cellar := rfl
@[simp] theorem State.onCore_cellarLink (s : State) (f : Core → Core) : (s.onCore f).cellarLink = s.cellarLink := rfl
@[simp] theorem State.onCore_strikes (s : State) (f : Core → Core) : (s.onCore f).strikes = s.strikes := rfl
@[simp] theorem State.onCore_barriers (s : State) (f : Core → Core) : (s.onCore f).barriers = s.barriers := rfl
@[simp] theorem State.onCore_heldReads (s : State) (f : Core → Core) : (s.onCore f).heldReads = s.heldReads := rfl
@[simp] theorem State.onCore_ended (s : State) (f : Core → Core) : (s.onCore f).ended = s.ended := rfl
@[simp] theorem onCtl_cycle (s : State) (d : Nat) (f : Ctl → Ctl) : (onCtl s d f).cycle = s.cycle := rfl
@[simp] theorem onCtl_focus (s : State) (d : Nat) (f : Ctl → Ctl) : (onCtl s d f).focus = s.focus := rfl
@[simp] theorem onCtl_agenda (s : State) (d : Nat) (f : Ctl → Ctl) : (onCtl s d f).agenda = s.agenda := rfl
@[simp] theorem onCtl_timers (s : State) (d : Nat) (f : Ctl → Ctl) : (onCtl s d f).timers = s.timers := rfl
@[simp] theorem onCtl_inbox (s : State) (d : Nat) (f : Ctl → Ctl) : (onCtl s d f).inbox = s.inbox := rfl
@[simp] theorem onCtl_outbox (s : State) (d : Nat) (f : Ctl → Ctl) : (onCtl s d f).outbox = s.outbox := rfl
@[simp] theorem onCtl_fresh (s : State) (d : Nat) (f : Ctl → Ctl) : (onCtl s d f).fresh = s.fresh := rfl
@[simp] theorem onCtl_seq (s : State) (d : Nat) (f : Ctl → Ctl) : (onCtl s d f).seq = s.seq := rfl
@[simp] theorem onCtl_mem (s : State) (d : Nat) (f : Ctl → Ctl) : (onCtl s d f).mem = s.mem := rfl
@[simp] theorem onCtl_poison (s : State) (d : Nat) (f : Ctl → Ctl) : (onCtl s d f).poison = s.poison := rfl
@[simp] theorem onCtl_cores (s : State) (d : Nat) (f : Ctl → Ctl) : (onCtl s d f).cores = s.cores := rfl
@[simp] theorem onCtl_spaces (s : State) (d : Nat) (f : Ctl → Ctl) : (onCtl s d f).spaces = s.spaces := rfl
@[simp] theorem onCtl_cells (s : State) (d : Nat) (f : Ctl → Ctl) : (onCtl s d f).cells = s.cells := rfl
@[simp] theorem onCtl_making (s : State) (d : Nat) (f : Ctl → Ctl) : (onCtl s d f).making = s.making := rfl
@[simp] theorem onCtl_cellWaits (s : State) (d : Nat) (f : Ctl → Ctl) : (onCtl s d f).cellWaits = s.cellWaits := rfl
@[simp] theorem onCtl_writes (s : State) (d : Nat) (f : Ctl → Ctl) : (onCtl s d f).writes = s.writes := rfl
@[simp] theorem onCtl_order (s : State) (d : Nat) (f : Ctl → Ctl) : (onCtl s d f).order = s.order := rfl
@[simp] theorem onCtl_shoots (s : State) (d : Nat) (f : Ctl → Ctl) : (onCtl s d f).shoots = s.shoots := rfl
@[simp] theorem onCtl_poste (s : State) (d : Nat) (f : Ctl → Ctl) : (onCtl s d f).poste = s.poste := rfl
@[simp] theorem onCtl_posteSeq (s : State) (d : Nat) (f : Ctl → Ctl) : (onCtl s d f).posteSeq = s.posteSeq := rfl
@[simp] theorem onCtl_faults (s : State) (d : Nat) (f : Ctl → Ctl) : (onCtl s d f).faults = s.faults := rfl
@[simp] theorem onCtl_failed (s : State) (d : Nat) (f : Ctl → Ctl) : (onCtl s d f).failed = s.failed := rfl
@[simp] theorem onCtl_walkers (s : State) (d : Nat) (f : Ctl → Ctl) : (onCtl s d f).walkers = s.walkers := rfl
@[simp] theorem onCtl_launches (s : State) (d : Nat) (f : Ctl → Ctl) : (onCtl s d f).launches = s.launches := rfl
@[simp] theorem onCtl_launchNo (s : State) (d : Nat) (f : Ctl → Ctl) : (onCtl s d f).launchNo = s.launchNo := rfl
@[simp] theorem onCtl_devid (s : State) (d : Nat) (f : Ctl → Ctl) : (onCtl s d f).devid = s.devid := rfl
@[simp] theorem onCtl_ipPrefix (s : State) (d : Nat) (f : Ctl → Ctl) : (onCtl s d f).ipPrefix = s.ipPrefix := rfl
@[simp] theorem onCtl_lists (s : State) (d : Nat) (f : Ctl → Ctl) : (onCtl s d f).lists = s.lists := rfl
@[simp] theorem onCtl_flows (s : State) (d : Nat) (f : Ctl → Ctl) : (onCtl s d f).flows = s.flows := rfl
@[simp] theorem onCtl_listSend (s : State) (d : Nat) (f : Ctl → Ctl) : (onCtl s d f).listSend = s.listSend := rfl
@[simp] theorem onCtl_listRecv (s : State) (d : Nat) (f : Ctl → Ctl) : (onCtl s d f).listRecv = s.listRecv := rfl
@[simp] theorem onCtl_answers (s : State) (d : Nat) (f : Ctl → Ctl) : (onCtl s d f).answers = s.answers := rfl
@[simp] theorem onCtl_ops (s : State) (d : Nat) (f : Ctl → Ctl) : (onCtl s d f).ops = s.ops := rfl
@[simp] theorem onCtl_mcasts (s : State) (d : Nat) (f : Ctl → Ctl) : (onCtl s d f).mcasts = s.mcasts := rfl
@[simp] theorem onCtl_served (s : State) (d : Nat) (f : Ctl → Ctl) : (onCtl s d f).served = s.served := rfl
@[simp] theorem onCtl_epoch (s : State) (d : Nat) (f : Ctl → Ctl) : (onCtl s d f).epoch = s.epoch := rfl
@[simp] theorem onCtl_ports (s : State) (d : Nat) (f : Ctl → Ctl) : (onCtl s d f).ports = s.ports := rfl
@[simp] theorem onCtl_discards (s : State) (d : Nat) (f : Ctl → Ctl) : (onCtl s d f).discards = s.discards := rfl
@[simp] theorem onCtl_uctAnswers (s : State) (d : Nat) (f : Ctl → Ctl) : (onCtl s d f).uctAnswers = s.uctAnswers := rfl
@[simp] theorem onCtl_events (s : State) (d : Nat) (f : Ctl → Ctl) : (onCtl s d f).events = s.events := rfl
@[simp] theorem onCtl_nextEvent (s : State) (d : Nat) (f : Ctl → Ctl) : (onCtl s d f).nextEvent = s.nextEvent := rfl
@[simp] theorem onCtl_hscore (s : State) (d : Nat) (f : Ctl → Ctl) : (onCtl s d f).hscore = s.hscore := rfl
@[simp] theorem onCtl_fscore (s : State) (d : Nat) (f : Ctl → Ctl) : (onCtl s d f).fscore = s.fscore := rfl
@[simp] theorem onCtl_injHub (s : State) (d : Nat) (f : Ctl → Ctl) : (onCtl s d f).injHub = s.injHub := rfl
@[simp] theorem onCtl_injPool (s : State) (d : Nat) (f : Ctl → Ctl) : (onCtl s d f).injPool = s.injPool := rfl
@[simp] theorem onCtl_reserve (s : State) (d : Nat) (f : Ctl → Ctl) : (onCtl s d f).reserve = s.reserve := rfl
@[simp] theorem onCtl_withdrawn (s : State) (d : Nat) (f : Ctl → Ctl) : (onCtl s d f).withdrawn = s.withdrawn := rfl
@[simp] theorem onCtl_fencedPairs (s : State) (d : Nat) (f : Ctl → Ctl) : (onCtl s d f).fencedPairs = s.fencedPairs := rfl
@[simp] theorem onCtl_partition (s : State) (d : Nat) (f : Ctl → Ctl) : (onCtl s d f).partition = s.partition := rfl
@[simp] theorem onCtl_corrected (s : State) (d : Nat) (f : Ctl → Ctl) : (onCtl s d f).corrected = s.corrected := rfl
@[simp] theorem onCtl_boot (s : State) (d : Nat) (f : Ctl → Ctl) : (onCtl s d f).boot = s.boot := rfl
@[simp] theorem onCtl_board (s : State) (d : Nat) (f : Ctl → Ctl) : (onCtl s d f).board = s.board := rfl
@[simp] theorem onCtl_powerLog (s : State) (d : Nat) (f : Ctl → Ctl) : (onCtl s d f).powerLog = s.powerLog := rfl
@[simp] theorem onCtl_powerHold (s : State) (d : Nat) (f : Ctl → Ctl) : (onCtl s d f).powerHold = s.powerHold := rfl
@[simp] theorem onCtl_tempHold (s : State) (d : Nat) (f : Ctl → Ctl) : (onCtl s d f).tempHold = s.tempHold := rfl
@[simp] theorem onCtl_hotInlet (s : State) (d : Nat) (f : Ctl → Ctl) : (onCtl s d f).hotInlet = s.hotInlet := rfl
@[simp] theorem onCtl_ckpt (s : State) (d : Nat) (f : Ctl → Ctl) : (onCtl s d f).ckpt = s.ckpt := rfl
@[simp] theorem onCtl_cellar (s : State) (d : Nat) (f : Ctl → Ctl) : (onCtl s d f).cellar = s.cellar := rfl
@[simp] theorem onCtl_cellarLink (s : State) (d : Nat) (f : Ctl → Ctl) : (onCtl s d f).cellarLink = s.cellarLink := rfl
@[simp] theorem onCtl_strikes (s : State) (d : Nat) (f : Ctl → Ctl) : (onCtl s d f).strikes = s.strikes := rfl
@[simp] theorem onCtl_barriers (s : State) (d : Nat) (f : Ctl → Ctl) : (onCtl s d f).barriers = s.barriers := rfl
@[simp] theorem onCtl_heldReads (s : State) (d : Nat) (f : Ctl → Ctl) : (onCtl s d f).heldReads = s.heldReads := rfl
@[simp] theorem onCtl_ended (s : State) (d : Nat) (f : Ctl → Ctl) : (onCtl s d f).ended = s.ended := rfl
@[simp] theorem onSpace_cycle (s : State) (asid : Nat) (f : Space → Space) : (onSpace s asid f).cycle = s.cycle := rfl
@[simp] theorem onSpace_focus (s : State) (asid : Nat) (f : Space → Space) : (onSpace s asid f).focus = s.focus := rfl
@[simp] theorem onSpace_agenda (s : State) (asid : Nat) (f : Space → Space) : (onSpace s asid f).agenda = s.agenda := rfl
@[simp] theorem onSpace_timers (s : State) (asid : Nat) (f : Space → Space) : (onSpace s asid f).timers = s.timers := rfl
@[simp] theorem onSpace_inbox (s : State) (asid : Nat) (f : Space → Space) : (onSpace s asid f).inbox = s.inbox := rfl
@[simp] theorem onSpace_outbox (s : State) (asid : Nat) (f : Space → Space) : (onSpace s asid f).outbox = s.outbox := rfl
@[simp] theorem onSpace_fresh (s : State) (asid : Nat) (f : Space → Space) : (onSpace s asid f).fresh = s.fresh := rfl
@[simp] theorem onSpace_seq (s : State) (asid : Nat) (f : Space → Space) : (onSpace s asid f).seq = s.seq := rfl
@[simp] theorem onSpace_mem (s : State) (asid : Nat) (f : Space → Space) : (onSpace s asid f).mem = s.mem := rfl
@[simp] theorem onSpace_poison (s : State) (asid : Nat) (f : Space → Space) : (onSpace s asid f).poison = s.poison := rfl
@[simp] theorem onSpace_dies (s : State) (asid : Nat) (f : Space → Space) : (onSpace s asid f).dies = s.dies := rfl
@[simp] theorem onSpace_cores (s : State) (asid : Nat) (f : Space → Space) : (onSpace s asid f).cores = s.cores := rfl
@[simp] theorem onSpace_cells (s : State) (asid : Nat) (f : Space → Space) : (onSpace s asid f).cells = s.cells := rfl
@[simp] theorem onSpace_making (s : State) (asid : Nat) (f : Space → Space) : (onSpace s asid f).making = s.making := rfl
@[simp] theorem onSpace_cellWaits (s : State) (asid : Nat) (f : Space → Space) : (onSpace s asid f).cellWaits = s.cellWaits := rfl
@[simp] theorem onSpace_writes (s : State) (asid : Nat) (f : Space → Space) : (onSpace s asid f).writes = s.writes := rfl
@[simp] theorem onSpace_order (s : State) (asid : Nat) (f : Space → Space) : (onSpace s asid f).order = s.order := rfl
@[simp] theorem onSpace_shoots (s : State) (asid : Nat) (f : Space → Space) : (onSpace s asid f).shoots = s.shoots := rfl
@[simp] theorem onSpace_poste (s : State) (asid : Nat) (f : Space → Space) : (onSpace s asid f).poste = s.poste := rfl
@[simp] theorem onSpace_posteSeq (s : State) (asid : Nat) (f : Space → Space) : (onSpace s asid f).posteSeq = s.posteSeq := rfl
@[simp] theorem onSpace_faults (s : State) (asid : Nat) (f : Space → Space) : (onSpace s asid f).faults = s.faults := rfl
@[simp] theorem onSpace_failed (s : State) (asid : Nat) (f : Space → Space) : (onSpace s asid f).failed = s.failed := rfl
@[simp] theorem onSpace_walkers (s : State) (asid : Nat) (f : Space → Space) : (onSpace s asid f).walkers = s.walkers := rfl
@[simp] theorem onSpace_launches (s : State) (asid : Nat) (f : Space → Space) : (onSpace s asid f).launches = s.launches := rfl
@[simp] theorem onSpace_launchNo (s : State) (asid : Nat) (f : Space → Space) : (onSpace s asid f).launchNo = s.launchNo := rfl
@[simp] theorem onSpace_devid (s : State) (asid : Nat) (f : Space → Space) : (onSpace s asid f).devid = s.devid := rfl
@[simp] theorem onSpace_ipPrefix (s : State) (asid : Nat) (f : Space → Space) : (onSpace s asid f).ipPrefix = s.ipPrefix := rfl
@[simp] theorem onSpace_lists (s : State) (asid : Nat) (f : Space → Space) : (onSpace s asid f).lists = s.lists := rfl
@[simp] theorem onSpace_flows (s : State) (asid : Nat) (f : Space → Space) : (onSpace s asid f).flows = s.flows := rfl
@[simp] theorem onSpace_listSend (s : State) (asid : Nat) (f : Space → Space) : (onSpace s asid f).listSend = s.listSend := rfl
@[simp] theorem onSpace_listRecv (s : State) (asid : Nat) (f : Space → Space) : (onSpace s asid f).listRecv = s.listRecv := rfl
@[simp] theorem onSpace_answers (s : State) (asid : Nat) (f : Space → Space) : (onSpace s asid f).answers = s.answers := rfl
@[simp] theorem onSpace_ops (s : State) (asid : Nat) (f : Space → Space) : (onSpace s asid f).ops = s.ops := rfl
@[simp] theorem onSpace_mcasts (s : State) (asid : Nat) (f : Space → Space) : (onSpace s asid f).mcasts = s.mcasts := rfl
@[simp] theorem onSpace_served (s : State) (asid : Nat) (f : Space → Space) : (onSpace s asid f).served = s.served := rfl
@[simp] theorem onSpace_epoch (s : State) (asid : Nat) (f : Space → Space) : (onSpace s asid f).epoch = s.epoch := rfl
@[simp] theorem onSpace_ports (s : State) (asid : Nat) (f : Space → Space) : (onSpace s asid f).ports = s.ports := rfl
@[simp] theorem onSpace_discards (s : State) (asid : Nat) (f : Space → Space) : (onSpace s asid f).discards = s.discards := rfl
@[simp] theorem onSpace_uctAnswers (s : State) (asid : Nat) (f : Space → Space) : (onSpace s asid f).uctAnswers = s.uctAnswers := rfl
@[simp] theorem onSpace_events (s : State) (asid : Nat) (f : Space → Space) : (onSpace s asid f).events = s.events := rfl
@[simp] theorem onSpace_nextEvent (s : State) (asid : Nat) (f : Space → Space) : (onSpace s asid f).nextEvent = s.nextEvent := rfl
@[simp] theorem onSpace_hscore (s : State) (asid : Nat) (f : Space → Space) : (onSpace s asid f).hscore = s.hscore := rfl
@[simp] theorem onSpace_fscore (s : State) (asid : Nat) (f : Space → Space) : (onSpace s asid f).fscore = s.fscore := rfl
@[simp] theorem onSpace_injHub (s : State) (asid : Nat) (f : Space → Space) : (onSpace s asid f).injHub = s.injHub := rfl
@[simp] theorem onSpace_injPool (s : State) (asid : Nat) (f : Space → Space) : (onSpace s asid f).injPool = s.injPool := rfl
@[simp] theorem onSpace_reserve (s : State) (asid : Nat) (f : Space → Space) : (onSpace s asid f).reserve = s.reserve := rfl
@[simp] theorem onSpace_withdrawn (s : State) (asid : Nat) (f : Space → Space) : (onSpace s asid f).withdrawn = s.withdrawn := rfl
@[simp] theorem onSpace_fencedPairs (s : State) (asid : Nat) (f : Space → Space) : (onSpace s asid f).fencedPairs = s.fencedPairs := rfl
@[simp] theorem onSpace_partition (s : State) (asid : Nat) (f : Space → Space) : (onSpace s asid f).partition = s.partition := rfl
@[simp] theorem onSpace_corrected (s : State) (asid : Nat) (f : Space → Space) : (onSpace s asid f).corrected = s.corrected := rfl
@[simp] theorem onSpace_boot (s : State) (asid : Nat) (f : Space → Space) : (onSpace s asid f).boot = s.boot := rfl
@[simp] theorem onSpace_board (s : State) (asid : Nat) (f : Space → Space) : (onSpace s asid f).board = s.board := rfl
@[simp] theorem onSpace_powerLog (s : State) (asid : Nat) (f : Space → Space) : (onSpace s asid f).powerLog = s.powerLog := rfl
@[simp] theorem onSpace_powerHold (s : State) (asid : Nat) (f : Space → Space) : (onSpace s asid f).powerHold = s.powerHold := rfl
@[simp] theorem onSpace_tempHold (s : State) (asid : Nat) (f : Space → Space) : (onSpace s asid f).tempHold = s.tempHold := rfl
@[simp] theorem onSpace_hotInlet (s : State) (asid : Nat) (f : Space → Space) : (onSpace s asid f).hotInlet = s.hotInlet := rfl
@[simp] theorem onSpace_ckpt (s : State) (asid : Nat) (f : Space → Space) : (onSpace s asid f).ckpt = s.ckpt := rfl
@[simp] theorem onSpace_cellar (s : State) (asid : Nat) (f : Space → Space) : (onSpace s asid f).cellar = s.cellar := rfl
@[simp] theorem onSpace_cellarLink (s : State) (asid : Nat) (f : Space → Space) : (onSpace s asid f).cellarLink = s.cellarLink := rfl
@[simp] theorem onSpace_strikes (s : State) (asid : Nat) (f : Space → Space) : (onSpace s asid f).strikes = s.strikes := rfl
@[simp] theorem onSpace_barriers (s : State) (asid : Nat) (f : Space → Space) : (onSpace s asid f).barriers = s.barriers := rfl
@[simp] theorem onSpace_heldReads (s : State) (asid : Nat) (f : Space → Space) : (onSpace s asid f).heldReads = s.heldReads := rfl
@[simp] theorem onSpace_ended (s : State) (asid : Nat) (f : Space → Space) : (onSpace s asid f).ended = s.ended := rfl

/-! ## The clock, the agenda and what is sent out -/

@[simp] theorem at'_cycle (s : State) (due : Nat) (i : Instr) : (at' s due i).cycle = s.cycle := by unfold at'; split <;> rfl
@[simp] theorem at'_focus (s : State) (due : Nat) (i : Instr) : (at' s due i).focus = s.focus := by unfold at'; split <;> rfl
@[simp] theorem at'_inbox (s : State) (due : Nat) (i : Instr) : (at' s due i).inbox = s.inbox := by unfold at'; split <;> rfl
@[simp] theorem at'_outbox (s : State) (due : Nat) (i : Instr) : (at' s due i).outbox = s.outbox := by unfold at'; split <;> rfl
@[simp] theorem at'_fresh (s : State) (due : Nat) (i : Instr) : (at' s due i).fresh = s.fresh := by unfold at'; split <;> rfl
@[simp] theorem at'_seq (s : State) (due : Nat) (i : Instr) : (at' s due i).seq = s.seq := by unfold at'; split <;> rfl
@[simp] theorem at'_mem (s : State) (due : Nat) (i : Instr) : (at' s due i).mem = s.mem := by unfold at'; split <;> rfl
@[simp] theorem at'_poison (s : State) (due : Nat) (i : Instr) : (at' s due i).poison = s.poison := by unfold at'; split <;> rfl
@[simp] theorem at'_dies (s : State) (due : Nat) (i : Instr) : (at' s due i).dies = s.dies := by unfold at'; split <;> rfl
@[simp] theorem at'_cores (s : State) (due : Nat) (i : Instr) : (at' s due i).cores = s.cores := by unfold at'; split <;> rfl
@[simp] theorem at'_spaces (s : State) (due : Nat) (i : Instr) : (at' s due i).spaces = s.spaces := by unfold at'; split <;> rfl
@[simp] theorem at'_cells (s : State) (due : Nat) (i : Instr) : (at' s due i).cells = s.cells := by unfold at'; split <;> rfl
@[simp] theorem at'_making (s : State) (due : Nat) (i : Instr) : (at' s due i).making = s.making := by unfold at'; split <;> rfl
@[simp] theorem at'_cellWaits (s : State) (due : Nat) (i : Instr) : (at' s due i).cellWaits = s.cellWaits := by unfold at'; split <;> rfl
@[simp] theorem at'_writes (s : State) (due : Nat) (i : Instr) : (at' s due i).writes = s.writes := by unfold at'; split <;> rfl
@[simp] theorem at'_order (s : State) (due : Nat) (i : Instr) : (at' s due i).order = s.order := by unfold at'; split <;> rfl
@[simp] theorem at'_shoots (s : State) (due : Nat) (i : Instr) : (at' s due i).shoots = s.shoots := by unfold at'; split <;> rfl
@[simp] theorem at'_poste (s : State) (due : Nat) (i : Instr) : (at' s due i).poste = s.poste := by unfold at'; split <;> rfl
@[simp] theorem at'_posteSeq (s : State) (due : Nat) (i : Instr) : (at' s due i).posteSeq = s.posteSeq := by unfold at'; split <;> rfl
@[simp] theorem at'_faults (s : State) (due : Nat) (i : Instr) : (at' s due i).faults = s.faults := by unfold at'; split <;> rfl
@[simp] theorem at'_failed (s : State) (due : Nat) (i : Instr) : (at' s due i).failed = s.failed := by unfold at'; split <;> rfl
@[simp] theorem at'_walkers (s : State) (due : Nat) (i : Instr) : (at' s due i).walkers = s.walkers := by unfold at'; split <;> rfl
@[simp] theorem at'_launches (s : State) (due : Nat) (i : Instr) : (at' s due i).launches = s.launches := by unfold at'; split <;> rfl
@[simp] theorem at'_launchNo (s : State) (due : Nat) (i : Instr) : (at' s due i).launchNo = s.launchNo := by unfold at'; split <;> rfl
@[simp] theorem at'_devid (s : State) (due : Nat) (i : Instr) : (at' s due i).devid = s.devid := by unfold at'; split <;> rfl
@[simp] theorem at'_ipPrefix (s : State) (due : Nat) (i : Instr) : (at' s due i).ipPrefix = s.ipPrefix := by unfold at'; split <;> rfl
@[simp] theorem at'_lists (s : State) (due : Nat) (i : Instr) : (at' s due i).lists = s.lists := by unfold at'; split <;> rfl
@[simp] theorem at'_flows (s : State) (due : Nat) (i : Instr) : (at' s due i).flows = s.flows := by unfold at'; split <;> rfl
@[simp] theorem at'_listSend (s : State) (due : Nat) (i : Instr) : (at' s due i).listSend = s.listSend := by unfold at'; split <;> rfl
@[simp] theorem at'_listRecv (s : State) (due : Nat) (i : Instr) : (at' s due i).listRecv = s.listRecv := by unfold at'; split <;> rfl
@[simp] theorem at'_answers (s : State) (due : Nat) (i : Instr) : (at' s due i).answers = s.answers := by unfold at'; split <;> rfl
@[simp] theorem at'_ops (s : State) (due : Nat) (i : Instr) : (at' s due i).ops = s.ops := by unfold at'; split <;> rfl
@[simp] theorem at'_mcasts (s : State) (due : Nat) (i : Instr) : (at' s due i).mcasts = s.mcasts := by unfold at'; split <;> rfl
@[simp] theorem at'_served (s : State) (due : Nat) (i : Instr) : (at' s due i).served = s.served := by unfold at'; split <;> rfl
@[simp] theorem at'_epoch (s : State) (due : Nat) (i : Instr) : (at' s due i).epoch = s.epoch := by unfold at'; split <;> rfl
@[simp] theorem at'_ports (s : State) (due : Nat) (i : Instr) : (at' s due i).ports = s.ports := by unfold at'; split <;> rfl
@[simp] theorem at'_discards (s : State) (due : Nat) (i : Instr) : (at' s due i).discards = s.discards := by unfold at'; split <;> rfl
@[simp] theorem at'_uctAnswers (s : State) (due : Nat) (i : Instr) : (at' s due i).uctAnswers = s.uctAnswers := by unfold at'; split <;> rfl
@[simp] theorem at'_events (s : State) (due : Nat) (i : Instr) : (at' s due i).events = s.events := by unfold at'; split <;> rfl
@[simp] theorem at'_nextEvent (s : State) (due : Nat) (i : Instr) : (at' s due i).nextEvent = s.nextEvent := by unfold at'; split <;> rfl
@[simp] theorem at'_hscore (s : State) (due : Nat) (i : Instr) : (at' s due i).hscore = s.hscore := by unfold at'; split <;> rfl
@[simp] theorem at'_fscore (s : State) (due : Nat) (i : Instr) : (at' s due i).fscore = s.fscore := by unfold at'; split <;> rfl
@[simp] theorem at'_injHub (s : State) (due : Nat) (i : Instr) : (at' s due i).injHub = s.injHub := by unfold at'; split <;> rfl
@[simp] theorem at'_injPool (s : State) (due : Nat) (i : Instr) : (at' s due i).injPool = s.injPool := by unfold at'; split <;> rfl
@[simp] theorem at'_reserve (s : State) (due : Nat) (i : Instr) : (at' s due i).reserve = s.reserve := by unfold at'; split <;> rfl
@[simp] theorem at'_withdrawn (s : State) (due : Nat) (i : Instr) : (at' s due i).withdrawn = s.withdrawn := by unfold at'; split <;> rfl
@[simp] theorem at'_fencedPairs (s : State) (due : Nat) (i : Instr) : (at' s due i).fencedPairs = s.fencedPairs := by unfold at'; split <;> rfl
@[simp] theorem at'_partition (s : State) (due : Nat) (i : Instr) : (at' s due i).partition = s.partition := by unfold at'; split <;> rfl
@[simp] theorem at'_corrected (s : State) (due : Nat) (i : Instr) : (at' s due i).corrected = s.corrected := by unfold at'; split <;> rfl
@[simp] theorem at'_boot (s : State) (due : Nat) (i : Instr) : (at' s due i).boot = s.boot := by unfold at'; split <;> rfl
@[simp] theorem at'_board (s : State) (due : Nat) (i : Instr) : (at' s due i).board = s.board := by unfold at'; split <;> rfl
@[simp] theorem at'_powerLog (s : State) (due : Nat) (i : Instr) : (at' s due i).powerLog = s.powerLog := by unfold at'; split <;> rfl
@[simp] theorem at'_powerHold (s : State) (due : Nat) (i : Instr) : (at' s due i).powerHold = s.powerHold := by unfold at'; split <;> rfl
@[simp] theorem at'_tempHold (s : State) (due : Nat) (i : Instr) : (at' s due i).tempHold = s.tempHold := by unfold at'; split <;> rfl
@[simp] theorem at'_hotInlet (s : State) (due : Nat) (i : Instr) : (at' s due i).hotInlet = s.hotInlet := by unfold at'; split <;> rfl
@[simp] theorem at'_ckpt (s : State) (due : Nat) (i : Instr) : (at' s due i).ckpt = s.ckpt := by unfold at'; split <;> rfl
@[simp] theorem at'_cellar (s : State) (due : Nat) (i : Instr) : (at' s due i).cellar = s.cellar := by unfold at'; split <;> rfl
@[simp] theorem at'_cellarLink (s : State) (due : Nat) (i : Instr) : (at' s due i).cellarLink = s.cellarLink := by unfold at'; split <;> rfl
@[simp] theorem at'_strikes (s : State) (due : Nat) (i : Instr) : (at' s due i).strikes = s.strikes := by unfold at'; split <;> rfl
@[simp] theorem at'_barriers (s : State) (due : Nat) (i : Instr) : (at' s due i).barriers = s.barriers := by unfold at'; split <;> rfl
@[simp] theorem at'_heldReads (s : State) (due : Nat) (i : Instr) : (at' s due i).heldReads = s.heldReads := by unfold at'; split <;> rfl
@[simp] theorem at'_ended (s : State) (due : Nat) (i : Instr) : (at' s due i).ended = s.ended := by unfold at'; split <;> rfl
@[simp] theorem later_cycle (s : State) (a : Act) : (later s a).cycle = s.cycle := by unfold later; split <;> rfl
@[simp] theorem later_focus (s : State) (a : Act) : (later s a).focus = s.focus := by unfold later; split <;> rfl
@[simp] theorem later_timers (s : State) (a : Act) : (later s a).timers = s.timers := by unfold later; split <;> rfl
@[simp] theorem later_inbox (s : State) (a : Act) : (later s a).inbox = s.inbox := by unfold later; split <;> rfl
@[simp] theorem later_outbox (s : State) (a : Act) : (later s a).outbox = s.outbox := by unfold later; split <;> rfl
@[simp] theorem later_fresh (s : State) (a : Act) : (later s a).fresh = s.fresh := by unfold later; split <;> rfl
@[simp] theorem later_seq (s : State) (a : Act) : (later s a).seq = s.seq := by unfold later; split <;> rfl
@[simp] theorem later_mem (s : State) (a : Act) : (later s a).mem = s.mem := by unfold later; split <;> rfl
@[simp] theorem later_poison (s : State) (a : Act) : (later s a).poison = s.poison := by unfold later; split <;> rfl
@[simp] theorem later_dies (s : State) (a : Act) : (later s a).dies = s.dies := by unfold later; split <;> rfl
@[simp] theorem later_cores (s : State) (a : Act) : (later s a).cores = s.cores := by unfold later; split <;> rfl
@[simp] theorem later_spaces (s : State) (a : Act) : (later s a).spaces = s.spaces := by unfold later; split <;> rfl
@[simp] theorem later_cells (s : State) (a : Act) : (later s a).cells = s.cells := by unfold later; split <;> rfl
@[simp] theorem later_making (s : State) (a : Act) : (later s a).making = s.making := by unfold later; split <;> rfl
@[simp] theorem later_cellWaits (s : State) (a : Act) : (later s a).cellWaits = s.cellWaits := by unfold later; split <;> rfl
@[simp] theorem later_writes (s : State) (a : Act) : (later s a).writes = s.writes := by unfold later; split <;> rfl
@[simp] theorem later_order (s : State) (a : Act) : (later s a).order = s.order := by unfold later; split <;> rfl
@[simp] theorem later_shoots (s : State) (a : Act) : (later s a).shoots = s.shoots := by unfold later; split <;> rfl
@[simp] theorem later_poste (s : State) (a : Act) : (later s a).poste = s.poste := by unfold later; split <;> rfl
@[simp] theorem later_posteSeq (s : State) (a : Act) : (later s a).posteSeq = s.posteSeq := by unfold later; split <;> rfl
@[simp] theorem later_faults (s : State) (a : Act) : (later s a).faults = s.faults := by unfold later; split <;> rfl
@[simp] theorem later_failed (s : State) (a : Act) : (later s a).failed = s.failed := by unfold later; split <;> rfl
@[simp] theorem later_walkers (s : State) (a : Act) : (later s a).walkers = s.walkers := by unfold later; split <;> rfl
@[simp] theorem later_launches (s : State) (a : Act) : (later s a).launches = s.launches := by unfold later; split <;> rfl
@[simp] theorem later_launchNo (s : State) (a : Act) : (later s a).launchNo = s.launchNo := by unfold later; split <;> rfl
@[simp] theorem later_devid (s : State) (a : Act) : (later s a).devid = s.devid := by unfold later; split <;> rfl
@[simp] theorem later_ipPrefix (s : State) (a : Act) : (later s a).ipPrefix = s.ipPrefix := by unfold later; split <;> rfl
@[simp] theorem later_lists (s : State) (a : Act) : (later s a).lists = s.lists := by unfold later; split <;> rfl
@[simp] theorem later_flows (s : State) (a : Act) : (later s a).flows = s.flows := by unfold later; split <;> rfl
@[simp] theorem later_listSend (s : State) (a : Act) : (later s a).listSend = s.listSend := by unfold later; split <;> rfl
@[simp] theorem later_listRecv (s : State) (a : Act) : (later s a).listRecv = s.listRecv := by unfold later; split <;> rfl
@[simp] theorem later_answers (s : State) (a : Act) : (later s a).answers = s.answers := by unfold later; split <;> rfl
@[simp] theorem later_ops (s : State) (a : Act) : (later s a).ops = s.ops := by unfold later; split <;> rfl
@[simp] theorem later_mcasts (s : State) (a : Act) : (later s a).mcasts = s.mcasts := by unfold later; split <;> rfl
@[simp] theorem later_served (s : State) (a : Act) : (later s a).served = s.served := by unfold later; split <;> rfl
@[simp] theorem later_epoch (s : State) (a : Act) : (later s a).epoch = s.epoch := by unfold later; split <;> rfl
@[simp] theorem later_ports (s : State) (a : Act) : (later s a).ports = s.ports := by unfold later; split <;> rfl
@[simp] theorem later_discards (s : State) (a : Act) : (later s a).discards = s.discards := by unfold later; split <;> rfl
@[simp] theorem later_uctAnswers (s : State) (a : Act) : (later s a).uctAnswers = s.uctAnswers := by unfold later; split <;> rfl
@[simp] theorem later_events (s : State) (a : Act) : (later s a).events = s.events := by unfold later; split <;> rfl
@[simp] theorem later_nextEvent (s : State) (a : Act) : (later s a).nextEvent = s.nextEvent := by unfold later; split <;> rfl
@[simp] theorem later_hscore (s : State) (a : Act) : (later s a).hscore = s.hscore := by unfold later; split <;> rfl
@[simp] theorem later_fscore (s : State) (a : Act) : (later s a).fscore = s.fscore := by unfold later; split <;> rfl
@[simp] theorem later_injHub (s : State) (a : Act) : (later s a).injHub = s.injHub := by unfold later; split <;> rfl
@[simp] theorem later_injPool (s : State) (a : Act) : (later s a).injPool = s.injPool := by unfold later; split <;> rfl
@[simp] theorem later_reserve (s : State) (a : Act) : (later s a).reserve = s.reserve := by unfold later; split <;> rfl
@[simp] theorem later_withdrawn (s : State) (a : Act) : (later s a).withdrawn = s.withdrawn := by unfold later; split <;> rfl
@[simp] theorem later_fencedPairs (s : State) (a : Act) : (later s a).fencedPairs = s.fencedPairs := by unfold later; split <;> rfl
@[simp] theorem later_partition (s : State) (a : Act) : (later s a).partition = s.partition := by unfold later; split <;> rfl
@[simp] theorem later_corrected (s : State) (a : Act) : (later s a).corrected = s.corrected := by unfold later; split <;> rfl
@[simp] theorem later_boot (s : State) (a : Act) : (later s a).boot = s.boot := by unfold later; split <;> rfl
@[simp] theorem later_board (s : State) (a : Act) : (later s a).board = s.board := by unfold later; split <;> rfl
@[simp] theorem later_powerLog (s : State) (a : Act) : (later s a).powerLog = s.powerLog := by unfold later; split <;> rfl
@[simp] theorem later_powerHold (s : State) (a : Act) : (later s a).powerHold = s.powerHold := by unfold later; split <;> rfl
@[simp] theorem later_tempHold (s : State) (a : Act) : (later s a).tempHold = s.tempHold := by unfold later; split <;> rfl
@[simp] theorem later_hotInlet (s : State) (a : Act) : (later s a).hotInlet = s.hotInlet := by unfold later; split <;> rfl
@[simp] theorem later_ckpt (s : State) (a : Act) : (later s a).ckpt = s.ckpt := by unfold later; split <;> rfl
@[simp] theorem later_cellar (s : State) (a : Act) : (later s a).cellar = s.cellar := by unfold later; split <;> rfl
@[simp] theorem later_cellarLink (s : State) (a : Act) : (later s a).cellarLink = s.cellarLink := by unfold later; split <;> rfl
@[simp] theorem later_strikes (s : State) (a : Act) : (later s a).strikes = s.strikes := by unfold later; split <;> rfl
@[simp] theorem later_barriers (s : State) (a : Act) : (later s a).barriers = s.barriers := by unfold later; split <;> rfl
@[simp] theorem later_heldReads (s : State) (a : Act) : (later s a).heldReads = s.heldReads := by unfold later; split <;> rfl
@[simp] theorem later_ended (s : State) (a : Act) : (later s a).ended = s.ended := by unfold later; split <;> rfl
@[simp] theorem emit_cycle (s : State) (o : Output) : (emit s o).cycle = s.cycle := rfl
@[simp] theorem emit_focus (s : State) (o : Output) : (emit s o).focus = s.focus := rfl
@[simp] theorem emit_agenda (s : State) (o : Output) : (emit s o).agenda = s.agenda := rfl
@[simp] theorem emit_timers (s : State) (o : Output) : (emit s o).timers = s.timers := rfl
@[simp] theorem emit_inbox (s : State) (o : Output) : (emit s o).inbox = s.inbox := rfl
@[simp] theorem emit_fresh (s : State) (o : Output) : (emit s o).fresh = s.fresh := rfl
@[simp] theorem emit_seq (s : State) (o : Output) : (emit s o).seq = s.seq := rfl
@[simp] theorem emit_mem (s : State) (o : Output) : (emit s o).mem = s.mem := rfl
@[simp] theorem emit_poison (s : State) (o : Output) : (emit s o).poison = s.poison := rfl
@[simp] theorem emit_dies (s : State) (o : Output) : (emit s o).dies = s.dies := rfl
@[simp] theorem emit_cores (s : State) (o : Output) : (emit s o).cores = s.cores := rfl
@[simp] theorem emit_spaces (s : State) (o : Output) : (emit s o).spaces = s.spaces := rfl
@[simp] theorem emit_cells (s : State) (o : Output) : (emit s o).cells = s.cells := rfl
@[simp] theorem emit_making (s : State) (o : Output) : (emit s o).making = s.making := rfl
@[simp] theorem emit_cellWaits (s : State) (o : Output) : (emit s o).cellWaits = s.cellWaits := rfl
@[simp] theorem emit_writes (s : State) (o : Output) : (emit s o).writes = s.writes := rfl
@[simp] theorem emit_order (s : State) (o : Output) : (emit s o).order = s.order := rfl
@[simp] theorem emit_shoots (s : State) (o : Output) : (emit s o).shoots = s.shoots := rfl
@[simp] theorem emit_poste (s : State) (o : Output) : (emit s o).poste = s.poste := rfl
@[simp] theorem emit_posteSeq (s : State) (o : Output) : (emit s o).posteSeq = s.posteSeq := rfl
@[simp] theorem emit_faults (s : State) (o : Output) : (emit s o).faults = s.faults := rfl
@[simp] theorem emit_failed (s : State) (o : Output) : (emit s o).failed = s.failed := rfl
@[simp] theorem emit_walkers (s : State) (o : Output) : (emit s o).walkers = s.walkers := rfl
@[simp] theorem emit_launches (s : State) (o : Output) : (emit s o).launches = s.launches := rfl
@[simp] theorem emit_launchNo (s : State) (o : Output) : (emit s o).launchNo = s.launchNo := rfl
@[simp] theorem emit_devid (s : State) (o : Output) : (emit s o).devid = s.devid := rfl
@[simp] theorem emit_ipPrefix (s : State) (o : Output) : (emit s o).ipPrefix = s.ipPrefix := rfl
@[simp] theorem emit_lists (s : State) (o : Output) : (emit s o).lists = s.lists := rfl
@[simp] theorem emit_flows (s : State) (o : Output) : (emit s o).flows = s.flows := rfl
@[simp] theorem emit_listSend (s : State) (o : Output) : (emit s o).listSend = s.listSend := rfl
@[simp] theorem emit_listRecv (s : State) (o : Output) : (emit s o).listRecv = s.listRecv := rfl
@[simp] theorem emit_answers (s : State) (o : Output) : (emit s o).answers = s.answers := rfl
@[simp] theorem emit_ops (s : State) (o : Output) : (emit s o).ops = s.ops := rfl
@[simp] theorem emit_mcasts (s : State) (o : Output) : (emit s o).mcasts = s.mcasts := rfl
@[simp] theorem emit_served (s : State) (o : Output) : (emit s o).served = s.served := rfl
@[simp] theorem emit_epoch (s : State) (o : Output) : (emit s o).epoch = s.epoch := rfl
@[simp] theorem emit_ports (s : State) (o : Output) : (emit s o).ports = s.ports := rfl
@[simp] theorem emit_discards (s : State) (o : Output) : (emit s o).discards = s.discards := rfl
@[simp] theorem emit_uctAnswers (s : State) (o : Output) : (emit s o).uctAnswers = s.uctAnswers := rfl
@[simp] theorem emit_events (s : State) (o : Output) : (emit s o).events = s.events := rfl
@[simp] theorem emit_nextEvent (s : State) (o : Output) : (emit s o).nextEvent = s.nextEvent := rfl
@[simp] theorem emit_hscore (s : State) (o : Output) : (emit s o).hscore = s.hscore := rfl
@[simp] theorem emit_fscore (s : State) (o : Output) : (emit s o).fscore = s.fscore := rfl
@[simp] theorem emit_injHub (s : State) (o : Output) : (emit s o).injHub = s.injHub := rfl
@[simp] theorem emit_injPool (s : State) (o : Output) : (emit s o).injPool = s.injPool := rfl
@[simp] theorem emit_reserve (s : State) (o : Output) : (emit s o).reserve = s.reserve := rfl
@[simp] theorem emit_withdrawn (s : State) (o : Output) : (emit s o).withdrawn = s.withdrawn := rfl
@[simp] theorem emit_fencedPairs (s : State) (o : Output) : (emit s o).fencedPairs = s.fencedPairs := rfl
@[simp] theorem emit_partition (s : State) (o : Output) : (emit s o).partition = s.partition := rfl
@[simp] theorem emit_corrected (s : State) (o : Output) : (emit s o).corrected = s.corrected := rfl
@[simp] theorem emit_boot (s : State) (o : Output) : (emit s o).boot = s.boot := rfl
@[simp] theorem emit_board (s : State) (o : Output) : (emit s o).board = s.board := rfl
@[simp] theorem emit_powerLog (s : State) (o : Output) : (emit s o).powerLog = s.powerLog := rfl
@[simp] theorem emit_powerHold (s : State) (o : Output) : (emit s o).powerHold = s.powerHold := rfl
@[simp] theorem emit_tempHold (s : State) (o : Output) : (emit s o).tempHold = s.tempHold := rfl
@[simp] theorem emit_hotInlet (s : State) (o : Output) : (emit s o).hotInlet = s.hotInlet := rfl
@[simp] theorem emit_ckpt (s : State) (o : Output) : (emit s o).ckpt = s.ckpt := rfl
@[simp] theorem emit_cellar (s : State) (o : Output) : (emit s o).cellar = s.cellar := rfl
@[simp] theorem emit_cellarLink (s : State) (o : Output) : (emit s o).cellarLink = s.cellarLink := rfl
@[simp] theorem emit_strikes (s : State) (o : Output) : (emit s o).strikes = s.strikes := rfl
@[simp] theorem emit_barriers (s : State) (o : Output) : (emit s o).barriers = s.barriers := rfl
@[simp] theorem emit_heldReads (s : State) (o : Output) : (emit s o).heldReads = s.heldReads := rfl
@[simp] theorem emit_ended (s : State) (o : Output) : (emit s o).ended = s.ended := rfl
@[simp] theorem nextSeq_cycle (s : State) : ((nextSeq s).2).cycle = s.cycle := rfl
@[simp] theorem nextSeq_focus (s : State) : ((nextSeq s).2).focus = s.focus := rfl
@[simp] theorem nextSeq_agenda (s : State) : ((nextSeq s).2).agenda = s.agenda := rfl
@[simp] theorem nextSeq_timers (s : State) : ((nextSeq s).2).timers = s.timers := rfl
@[simp] theorem nextSeq_inbox (s : State) : ((nextSeq s).2).inbox = s.inbox := rfl
@[simp] theorem nextSeq_outbox (s : State) : ((nextSeq s).2).outbox = s.outbox := rfl
@[simp] theorem nextSeq_fresh (s : State) : ((nextSeq s).2).fresh = s.fresh := rfl
@[simp] theorem nextSeq_mem (s : State) : ((nextSeq s).2).mem = s.mem := rfl
@[simp] theorem nextSeq_poison (s : State) : ((nextSeq s).2).poison = s.poison := rfl
@[simp] theorem nextSeq_dies (s : State) : ((nextSeq s).2).dies = s.dies := rfl
@[simp] theorem nextSeq_cores (s : State) : ((nextSeq s).2).cores = s.cores := rfl
@[simp] theorem nextSeq_spaces (s : State) : ((nextSeq s).2).spaces = s.spaces := rfl
@[simp] theorem nextSeq_cells (s : State) : ((nextSeq s).2).cells = s.cells := rfl
@[simp] theorem nextSeq_making (s : State) : ((nextSeq s).2).making = s.making := rfl
@[simp] theorem nextSeq_cellWaits (s : State) : ((nextSeq s).2).cellWaits = s.cellWaits := rfl
@[simp] theorem nextSeq_writes (s : State) : ((nextSeq s).2).writes = s.writes := rfl
@[simp] theorem nextSeq_order (s : State) : ((nextSeq s).2).order = s.order := rfl
@[simp] theorem nextSeq_shoots (s : State) : ((nextSeq s).2).shoots = s.shoots := rfl
@[simp] theorem nextSeq_poste (s : State) : ((nextSeq s).2).poste = s.poste := rfl
@[simp] theorem nextSeq_posteSeq (s : State) : ((nextSeq s).2).posteSeq = s.posteSeq := rfl
@[simp] theorem nextSeq_faults (s : State) : ((nextSeq s).2).faults = s.faults := rfl
@[simp] theorem nextSeq_failed (s : State) : ((nextSeq s).2).failed = s.failed := rfl
@[simp] theorem nextSeq_walkers (s : State) : ((nextSeq s).2).walkers = s.walkers := rfl
@[simp] theorem nextSeq_launches (s : State) : ((nextSeq s).2).launches = s.launches := rfl
@[simp] theorem nextSeq_launchNo (s : State) : ((nextSeq s).2).launchNo = s.launchNo := rfl
@[simp] theorem nextSeq_devid (s : State) : ((nextSeq s).2).devid = s.devid := rfl
@[simp] theorem nextSeq_ipPrefix (s : State) : ((nextSeq s).2).ipPrefix = s.ipPrefix := rfl
@[simp] theorem nextSeq_lists (s : State) : ((nextSeq s).2).lists = s.lists := rfl
@[simp] theorem nextSeq_flows (s : State) : ((nextSeq s).2).flows = s.flows := rfl
@[simp] theorem nextSeq_listSend (s : State) : ((nextSeq s).2).listSend = s.listSend := rfl
@[simp] theorem nextSeq_listRecv (s : State) : ((nextSeq s).2).listRecv = s.listRecv := rfl
@[simp] theorem nextSeq_answers (s : State) : ((nextSeq s).2).answers = s.answers := rfl
@[simp] theorem nextSeq_ops (s : State) : ((nextSeq s).2).ops = s.ops := rfl
@[simp] theorem nextSeq_mcasts (s : State) : ((nextSeq s).2).mcasts = s.mcasts := rfl
@[simp] theorem nextSeq_served (s : State) : ((nextSeq s).2).served = s.served := rfl
@[simp] theorem nextSeq_epoch (s : State) : ((nextSeq s).2).epoch = s.epoch := rfl
@[simp] theorem nextSeq_ports (s : State) : ((nextSeq s).2).ports = s.ports := rfl
@[simp] theorem nextSeq_discards (s : State) : ((nextSeq s).2).discards = s.discards := rfl
@[simp] theorem nextSeq_uctAnswers (s : State) : ((nextSeq s).2).uctAnswers = s.uctAnswers := rfl
@[simp] theorem nextSeq_events (s : State) : ((nextSeq s).2).events = s.events := rfl
@[simp] theorem nextSeq_nextEvent (s : State) : ((nextSeq s).2).nextEvent = s.nextEvent := rfl
@[simp] theorem nextSeq_hscore (s : State) : ((nextSeq s).2).hscore = s.hscore := rfl
@[simp] theorem nextSeq_fscore (s : State) : ((nextSeq s).2).fscore = s.fscore := rfl
@[simp] theorem nextSeq_injHub (s : State) : ((nextSeq s).2).injHub = s.injHub := rfl
@[simp] theorem nextSeq_injPool (s : State) : ((nextSeq s).2).injPool = s.injPool := rfl
@[simp] theorem nextSeq_reserve (s : State) : ((nextSeq s).2).reserve = s.reserve := rfl
@[simp] theorem nextSeq_withdrawn (s : State) : ((nextSeq s).2).withdrawn = s.withdrawn := rfl
@[simp] theorem nextSeq_fencedPairs (s : State) : ((nextSeq s).2).fencedPairs = s.fencedPairs := rfl
@[simp] theorem nextSeq_partition (s : State) : ((nextSeq s).2).partition = s.partition := rfl
@[simp] theorem nextSeq_corrected (s : State) : ((nextSeq s).2).corrected = s.corrected := rfl
@[simp] theorem nextSeq_boot (s : State) : ((nextSeq s).2).boot = s.boot := rfl
@[simp] theorem nextSeq_board (s : State) : ((nextSeq s).2).board = s.board := rfl
@[simp] theorem nextSeq_powerLog (s : State) : ((nextSeq s).2).powerLog = s.powerLog := rfl
@[simp] theorem nextSeq_powerHold (s : State) : ((nextSeq s).2).powerHold = s.powerHold := rfl
@[simp] theorem nextSeq_tempHold (s : State) : ((nextSeq s).2).tempHold = s.tempHold := rfl
@[simp] theorem nextSeq_hotInlet (s : State) : ((nextSeq s).2).hotInlet = s.hotInlet := rfl
@[simp] theorem nextSeq_ckpt (s : State) : ((nextSeq s).2).ckpt = s.ckpt := rfl
@[simp] theorem nextSeq_cellar (s : State) : ((nextSeq s).2).cellar = s.cellar := rfl
@[simp] theorem nextSeq_cellarLink (s : State) : ((nextSeq s).2).cellarLink = s.cellarLink := rfl
@[simp] theorem nextSeq_strikes (s : State) : ((nextSeq s).2).strikes = s.strikes := rfl
@[simp] theorem nextSeq_barriers (s : State) : ((nextSeq s).2).barriers = s.barriers := rfl
@[simp] theorem nextSeq_heldReads (s : State) : ((nextSeq s).2).heldReads = s.heldReads := rfl
@[simp] theorem nextSeq_ended (s : State) : ((nextSeq s).2).ended = s.ended := rfl
@[simp] theorem freeOf_cycle (s : State) : ((freeOf s).2).cycle = s.cycle := rfl
@[simp] theorem freeOf_focus (s : State) : ((freeOf s).2).focus = s.focus := rfl
@[simp] theorem freeOf_agenda (s : State) : ((freeOf s).2).agenda = s.agenda := rfl
@[simp] theorem freeOf_timers (s : State) : ((freeOf s).2).timers = s.timers := rfl
@[simp] theorem freeOf_inbox (s : State) : ((freeOf s).2).inbox = s.inbox := rfl
@[simp] theorem freeOf_outbox (s : State) : ((freeOf s).2).outbox = s.outbox := rfl
@[simp] theorem freeOf_seq (s : State) : ((freeOf s).2).seq = s.seq := rfl
@[simp] theorem freeOf_mem (s : State) : ((freeOf s).2).mem = s.mem := rfl
@[simp] theorem freeOf_poison (s : State) : ((freeOf s).2).poison = s.poison := rfl
@[simp] theorem freeOf_dies (s : State) : ((freeOf s).2).dies = s.dies := rfl
@[simp] theorem freeOf_cores (s : State) : ((freeOf s).2).cores = s.cores := rfl
@[simp] theorem freeOf_spaces (s : State) : ((freeOf s).2).spaces = s.spaces := rfl
@[simp] theorem freeOf_cells (s : State) : ((freeOf s).2).cells = s.cells := rfl
@[simp] theorem freeOf_making (s : State) : ((freeOf s).2).making = s.making := rfl
@[simp] theorem freeOf_cellWaits (s : State) : ((freeOf s).2).cellWaits = s.cellWaits := rfl
@[simp] theorem freeOf_writes (s : State) : ((freeOf s).2).writes = s.writes := rfl
@[simp] theorem freeOf_order (s : State) : ((freeOf s).2).order = s.order := rfl
@[simp] theorem freeOf_shoots (s : State) : ((freeOf s).2).shoots = s.shoots := rfl
@[simp] theorem freeOf_poste (s : State) : ((freeOf s).2).poste = s.poste := rfl
@[simp] theorem freeOf_posteSeq (s : State) : ((freeOf s).2).posteSeq = s.posteSeq := rfl
@[simp] theorem freeOf_faults (s : State) : ((freeOf s).2).faults = s.faults := rfl
@[simp] theorem freeOf_failed (s : State) : ((freeOf s).2).failed = s.failed := rfl
@[simp] theorem freeOf_walkers (s : State) : ((freeOf s).2).walkers = s.walkers := rfl
@[simp] theorem freeOf_launches (s : State) : ((freeOf s).2).launches = s.launches := rfl
@[simp] theorem freeOf_launchNo (s : State) : ((freeOf s).2).launchNo = s.launchNo := rfl
@[simp] theorem freeOf_devid (s : State) : ((freeOf s).2).devid = s.devid := rfl
@[simp] theorem freeOf_ipPrefix (s : State) : ((freeOf s).2).ipPrefix = s.ipPrefix := rfl
@[simp] theorem freeOf_lists (s : State) : ((freeOf s).2).lists = s.lists := rfl
@[simp] theorem freeOf_flows (s : State) : ((freeOf s).2).flows = s.flows := rfl
@[simp] theorem freeOf_listSend (s : State) : ((freeOf s).2).listSend = s.listSend := rfl
@[simp] theorem freeOf_listRecv (s : State) : ((freeOf s).2).listRecv = s.listRecv := rfl
@[simp] theorem freeOf_answers (s : State) : ((freeOf s).2).answers = s.answers := rfl
@[simp] theorem freeOf_ops (s : State) : ((freeOf s).2).ops = s.ops := rfl
@[simp] theorem freeOf_mcasts (s : State) : ((freeOf s).2).mcasts = s.mcasts := rfl
@[simp] theorem freeOf_served (s : State) : ((freeOf s).2).served = s.served := rfl
@[simp] theorem freeOf_epoch (s : State) : ((freeOf s).2).epoch = s.epoch := rfl
@[simp] theorem freeOf_ports (s : State) : ((freeOf s).2).ports = s.ports := rfl
@[simp] theorem freeOf_discards (s : State) : ((freeOf s).2).discards = s.discards := rfl
@[simp] theorem freeOf_uctAnswers (s : State) : ((freeOf s).2).uctAnswers = s.uctAnswers := rfl
@[simp] theorem freeOf_events (s : State) : ((freeOf s).2).events = s.events := rfl
@[simp] theorem freeOf_nextEvent (s : State) : ((freeOf s).2).nextEvent = s.nextEvent := rfl
@[simp] theorem freeOf_hscore (s : State) : ((freeOf s).2).hscore = s.hscore := rfl
@[simp] theorem freeOf_fscore (s : State) : ((freeOf s).2).fscore = s.fscore := rfl
@[simp] theorem freeOf_injHub (s : State) : ((freeOf s).2).injHub = s.injHub := rfl
@[simp] theorem freeOf_injPool (s : State) : ((freeOf s).2).injPool = s.injPool := rfl
@[simp] theorem freeOf_reserve (s : State) : ((freeOf s).2).reserve = s.reserve := rfl
@[simp] theorem freeOf_withdrawn (s : State) : ((freeOf s).2).withdrawn = s.withdrawn := rfl
@[simp] theorem freeOf_fencedPairs (s : State) : ((freeOf s).2).fencedPairs = s.fencedPairs := rfl
@[simp] theorem freeOf_partition (s : State) : ((freeOf s).2).partition = s.partition := rfl
@[simp] theorem freeOf_corrected (s : State) : ((freeOf s).2).corrected = s.corrected := rfl
@[simp] theorem freeOf_boot (s : State) : ((freeOf s).2).boot = s.boot := rfl
@[simp] theorem freeOf_board (s : State) : ((freeOf s).2).board = s.board := rfl
@[simp] theorem freeOf_powerLog (s : State) : ((freeOf s).2).powerLog = s.powerLog := rfl
@[simp] theorem freeOf_powerHold (s : State) : ((freeOf s).2).powerHold = s.powerHold := rfl
@[simp] theorem freeOf_tempHold (s : State) : ((freeOf s).2).tempHold = s.tempHold := rfl
@[simp] theorem freeOf_hotInlet (s : State) : ((freeOf s).2).hotInlet = s.hotInlet := rfl
@[simp] theorem freeOf_ckpt (s : State) : ((freeOf s).2).ckpt = s.ckpt := rfl
@[simp] theorem freeOf_cellar (s : State) : ((freeOf s).2).cellar = s.cellar := rfl
@[simp] theorem freeOf_cellarLink (s : State) : ((freeOf s).2).cellarLink = s.cellarLink := rfl
@[simp] theorem freeOf_strikes (s : State) : ((freeOf s).2).strikes = s.strikes := rfl
@[simp] theorem freeOf_barriers (s : State) : ((freeOf s).2).barriers = s.barriers := rfl
@[simp] theorem freeOf_heldReads (s : State) : ((freeOf s).2).heldReads = s.heldReads := rfl
@[simp] theorem freeOf_ended (s : State) : ((freeOf s).2).ended = s.ended := rfl

/-! ## Results that land and traps -/

@[simp] theorem land_cycle (s : State) (u : Agent) (due : Nat) (ws : List RegWrite) : (land s u due ws).cycle = s.cycle := by simp only [land, landOf]; cases u <;> simp only [] <;> split <;> simp
@[simp] theorem land_focus (s : State) (u : Agent) (due : Nat) (ws : List RegWrite) : (land s u due ws).focus = s.focus := by simp only [land, landOf]; cases u <;> simp only [] <;> split <;> simp
@[simp] theorem land_inbox (s : State) (u : Agent) (due : Nat) (ws : List RegWrite) : (land s u due ws).inbox = s.inbox := by simp only [land, landOf]; cases u <;> simp only [] <;> split <;> simp
@[simp] theorem land_outbox (s : State) (u : Agent) (due : Nat) (ws : List RegWrite) : (land s u due ws).outbox = s.outbox := by simp only [land, landOf]; cases u <;> simp only [] <;> split <;> simp
@[simp] theorem land_fresh (s : State) (u : Agent) (due : Nat) (ws : List RegWrite) : (land s u due ws).fresh = s.fresh := by simp only [land, landOf]; cases u <;> simp only [] <;> split <;> simp
@[simp] theorem land_seq (s : State) (u : Agent) (due : Nat) (ws : List RegWrite) : (land s u due ws).seq = s.seq := by simp only [land, landOf]; cases u <;> simp only [] <;> split <;> simp
@[simp] theorem land_mem (s : State) (u : Agent) (due : Nat) (ws : List RegWrite) : (land s u due ws).mem = s.mem := by simp only [land, landOf]; cases u <;> simp only [] <;> split <;> simp
@[simp] theorem land_poison (s : State) (u : Agent) (due : Nat) (ws : List RegWrite) : (land s u due ws).poison = s.poison := by simp only [land, landOf]; cases u <;> simp only [] <;> split <;> simp
@[simp] theorem land_spaces (s : State) (u : Agent) (due : Nat) (ws : List RegWrite) : (land s u due ws).spaces = s.spaces := by simp only [land, landOf]; cases u <;> simp only [] <;> split <;> simp
@[simp] theorem land_cells (s : State) (u : Agent) (due : Nat) (ws : List RegWrite) : (land s u due ws).cells = s.cells := by simp only [land, landOf]; cases u <;> simp only [] <;> split <;> simp
@[simp] theorem land_making (s : State) (u : Agent) (due : Nat) (ws : List RegWrite) : (land s u due ws).making = s.making := by simp only [land, landOf]; cases u <;> simp only [] <;> split <;> simp
@[simp] theorem land_cellWaits (s : State) (u : Agent) (due : Nat) (ws : List RegWrite) : (land s u due ws).cellWaits = s.cellWaits := by simp only [land, landOf]; cases u <;> simp only [] <;> split <;> simp
@[simp] theorem land_writes (s : State) (u : Agent) (due : Nat) (ws : List RegWrite) : (land s u due ws).writes = s.writes := by simp only [land, landOf]; cases u <;> simp only [] <;> split <;> simp
@[simp] theorem land_order (s : State) (u : Agent) (due : Nat) (ws : List RegWrite) : (land s u due ws).order = s.order := by simp only [land, landOf]; cases u <;> simp only [] <;> split <;> simp
@[simp] theorem land_shoots (s : State) (u : Agent) (due : Nat) (ws : List RegWrite) : (land s u due ws).shoots = s.shoots := by simp only [land, landOf]; cases u <;> simp only [] <;> split <;> simp
@[simp] theorem land_poste (s : State) (u : Agent) (due : Nat) (ws : List RegWrite) : (land s u due ws).poste = s.poste := by simp only [land, landOf]; cases u <;> simp only [] <;> split <;> simp
@[simp] theorem land_posteSeq (s : State) (u : Agent) (due : Nat) (ws : List RegWrite) : (land s u due ws).posteSeq = s.posteSeq := by simp only [land, landOf]; cases u <;> simp only [] <;> split <;> simp
@[simp] theorem land_faults (s : State) (u : Agent) (due : Nat) (ws : List RegWrite) : (land s u due ws).faults = s.faults := by simp only [land, landOf]; cases u <;> simp only [] <;> split <;> simp
@[simp] theorem land_failed (s : State) (u : Agent) (due : Nat) (ws : List RegWrite) : (land s u due ws).failed = s.failed := by simp only [land, landOf]; cases u <;> simp only [] <;> split <;> simp
@[simp] theorem land_walkers (s : State) (u : Agent) (due : Nat) (ws : List RegWrite) : (land s u due ws).walkers = s.walkers := by simp only [land, landOf]; cases u <;> simp only [] <;> split <;> simp
@[simp] theorem land_launches (s : State) (u : Agent) (due : Nat) (ws : List RegWrite) : (land s u due ws).launches = s.launches := by simp only [land, landOf]; cases u <;> simp only [] <;> split <;> simp
@[simp] theorem land_launchNo (s : State) (u : Agent) (due : Nat) (ws : List RegWrite) : (land s u due ws).launchNo = s.launchNo := by simp only [land, landOf]; cases u <;> simp only [] <;> split <;> simp
@[simp] theorem land_devid (s : State) (u : Agent) (due : Nat) (ws : List RegWrite) : (land s u due ws).devid = s.devid := by simp only [land, landOf]; cases u <;> simp only [] <;> split <;> simp
@[simp] theorem land_ipPrefix (s : State) (u : Agent) (due : Nat) (ws : List RegWrite) : (land s u due ws).ipPrefix = s.ipPrefix := by simp only [land, landOf]; cases u <;> simp only [] <;> split <;> simp
@[simp] theorem land_lists (s : State) (u : Agent) (due : Nat) (ws : List RegWrite) : (land s u due ws).lists = s.lists := by simp only [land, landOf]; cases u <;> simp only [] <;> split <;> simp
@[simp] theorem land_flows (s : State) (u : Agent) (due : Nat) (ws : List RegWrite) : (land s u due ws).flows = s.flows := by simp only [land, landOf]; cases u <;> simp only [] <;> split <;> simp
@[simp] theorem land_listSend (s : State) (u : Agent) (due : Nat) (ws : List RegWrite) : (land s u due ws).listSend = s.listSend := by simp only [land, landOf]; cases u <;> simp only [] <;> split <;> simp
@[simp] theorem land_listRecv (s : State) (u : Agent) (due : Nat) (ws : List RegWrite) : (land s u due ws).listRecv = s.listRecv := by simp only [land, landOf]; cases u <;> simp only [] <;> split <;> simp
@[simp] theorem land_answers (s : State) (u : Agent) (due : Nat) (ws : List RegWrite) : (land s u due ws).answers = s.answers := by simp only [land, landOf]; cases u <;> simp only [] <;> split <;> simp
@[simp] theorem land_ops (s : State) (u : Agent) (due : Nat) (ws : List RegWrite) : (land s u due ws).ops = s.ops := by simp only [land, landOf]; cases u <;> simp only [] <;> split <;> simp
@[simp] theorem land_mcasts (s : State) (u : Agent) (due : Nat) (ws : List RegWrite) : (land s u due ws).mcasts = s.mcasts := by simp only [land, landOf]; cases u <;> simp only [] <;> split <;> simp
@[simp] theorem land_served (s : State) (u : Agent) (due : Nat) (ws : List RegWrite) : (land s u due ws).served = s.served := by simp only [land, landOf]; cases u <;> simp only [] <;> split <;> simp
@[simp] theorem land_epoch (s : State) (u : Agent) (due : Nat) (ws : List RegWrite) : (land s u due ws).epoch = s.epoch := by simp only [land, landOf]; cases u <;> simp only [] <;> split <;> simp
@[simp] theorem land_ports (s : State) (u : Agent) (due : Nat) (ws : List RegWrite) : (land s u due ws).ports = s.ports := by simp only [land, landOf]; cases u <;> simp only [] <;> split <;> simp
@[simp] theorem land_discards (s : State) (u : Agent) (due : Nat) (ws : List RegWrite) : (land s u due ws).discards = s.discards := by simp only [land, landOf]; cases u <;> simp only [] <;> split <;> simp
@[simp] theorem land_uctAnswers (s : State) (u : Agent) (due : Nat) (ws : List RegWrite) : (land s u due ws).uctAnswers = s.uctAnswers := by simp only [land, landOf]; cases u <;> simp only [] <;> split <;> simp
@[simp] theorem land_events (s : State) (u : Agent) (due : Nat) (ws : List RegWrite) : (land s u due ws).events = s.events := by simp only [land, landOf]; cases u <;> simp only [] <;> split <;> simp
@[simp] theorem land_nextEvent (s : State) (u : Agent) (due : Nat) (ws : List RegWrite) : (land s u due ws).nextEvent = s.nextEvent := by simp only [land, landOf]; cases u <;> simp only [] <;> split <;> simp
@[simp] theorem land_hscore (s : State) (u : Agent) (due : Nat) (ws : List RegWrite) : (land s u due ws).hscore = s.hscore := by simp only [land, landOf]; cases u <;> simp only [] <;> split <;> simp
@[simp] theorem land_fscore (s : State) (u : Agent) (due : Nat) (ws : List RegWrite) : (land s u due ws).fscore = s.fscore := by simp only [land, landOf]; cases u <;> simp only [] <;> split <;> simp
@[simp] theorem land_injHub (s : State) (u : Agent) (due : Nat) (ws : List RegWrite) : (land s u due ws).injHub = s.injHub := by simp only [land, landOf]; cases u <;> simp only [] <;> split <;> simp
@[simp] theorem land_injPool (s : State) (u : Agent) (due : Nat) (ws : List RegWrite) : (land s u due ws).injPool = s.injPool := by simp only [land, landOf]; cases u <;> simp only [] <;> split <;> simp
@[simp] theorem land_reserve (s : State) (u : Agent) (due : Nat) (ws : List RegWrite) : (land s u due ws).reserve = s.reserve := by simp only [land, landOf]; cases u <;> simp only [] <;> split <;> simp
@[simp] theorem land_withdrawn (s : State) (u : Agent) (due : Nat) (ws : List RegWrite) : (land s u due ws).withdrawn = s.withdrawn := by simp only [land, landOf]; cases u <;> simp only [] <;> split <;> simp
@[simp] theorem land_fencedPairs (s : State) (u : Agent) (due : Nat) (ws : List RegWrite) : (land s u due ws).fencedPairs = s.fencedPairs := by simp only [land, landOf]; cases u <;> simp only [] <;> split <;> simp
@[simp] theorem land_partition (s : State) (u : Agent) (due : Nat) (ws : List RegWrite) : (land s u due ws).partition = s.partition := by simp only [land, landOf]; cases u <;> simp only [] <;> split <;> simp
@[simp] theorem land_corrected (s : State) (u : Agent) (due : Nat) (ws : List RegWrite) : (land s u due ws).corrected = s.corrected := by simp only [land, landOf]; cases u <;> simp only [] <;> split <;> simp
@[simp] theorem land_boot (s : State) (u : Agent) (due : Nat) (ws : List RegWrite) : (land s u due ws).boot = s.boot := by simp only [land, landOf]; cases u <;> simp only [] <;> split <;> simp
@[simp] theorem land_board (s : State) (u : Agent) (due : Nat) (ws : List RegWrite) : (land s u due ws).board = s.board := by simp only [land, landOf]; cases u <;> simp only [] <;> split <;> simp
@[simp] theorem land_powerLog (s : State) (u : Agent) (due : Nat) (ws : List RegWrite) : (land s u due ws).powerLog = s.powerLog := by simp only [land, landOf]; cases u <;> simp only [] <;> split <;> simp
@[simp] theorem land_powerHold (s : State) (u : Agent) (due : Nat) (ws : List RegWrite) : (land s u due ws).powerHold = s.powerHold := by simp only [land, landOf]; cases u <;> simp only [] <;> split <;> simp
@[simp] theorem land_tempHold (s : State) (u : Agent) (due : Nat) (ws : List RegWrite) : (land s u due ws).tempHold = s.tempHold := by simp only [land, landOf]; cases u <;> simp only [] <;> split <;> simp
@[simp] theorem land_hotInlet (s : State) (u : Agent) (due : Nat) (ws : List RegWrite) : (land s u due ws).hotInlet = s.hotInlet := by simp only [land, landOf]; cases u <;> simp only [] <;> split <;> simp
@[simp] theorem land_ckpt (s : State) (u : Agent) (due : Nat) (ws : List RegWrite) : (land s u due ws).ckpt = s.ckpt := by simp only [land, landOf]; cases u <;> simp only [] <;> split <;> simp
@[simp] theorem land_cellar (s : State) (u : Agent) (due : Nat) (ws : List RegWrite) : (land s u due ws).cellar = s.cellar := by simp only [land, landOf]; cases u <;> simp only [] <;> split <;> simp
@[simp] theorem land_cellarLink (s : State) (u : Agent) (due : Nat) (ws : List RegWrite) : (land s u due ws).cellarLink = s.cellarLink := by simp only [land, landOf]; cases u <;> simp only [] <;> split <;> simp
@[simp] theorem land_strikes (s : State) (u : Agent) (due : Nat) (ws : List RegWrite) : (land s u due ws).strikes = s.strikes := by simp only [land, landOf]; cases u <;> simp only [] <;> split <;> simp
@[simp] theorem land_barriers (s : State) (u : Agent) (due : Nat) (ws : List RegWrite) : (land s u due ws).barriers = s.barriers := by simp only [land, landOf]; cases u <;> simp only [] <;> split <;> simp
@[simp] theorem land_heldReads (s : State) (u : Agent) (due : Nat) (ws : List RegWrite) : (land s u due ws).heldReads = s.heldReads := by simp only [land, landOf]; cases u <;> simp only [] <;> split <;> simp
@[simp] theorem land_ended (s : State) (u : Agent) (due : Nat) (ws : List RegWrite) : (land s u due ws).ended = s.ended := by simp only [land, landOf]; cases u <;> simp only [] <;> split <;> simp
@[simp] theorem ccTrap_cycle (s : State) (d epc : Nat) (k : Cause) (info : Word) : (ccTrap s d epc k info).cycle = s.cycle := rfl
@[simp] theorem ccTrap_focus (s : State) (d epc : Nat) (k : Cause) (info : Word) : (ccTrap s d epc k info).focus = s.focus := rfl
@[simp] theorem ccTrap_agenda (s : State) (d epc : Nat) (k : Cause) (info : Word) : (ccTrap s d epc k info).agenda = s.agenda := rfl
@[simp] theorem ccTrap_timers (s : State) (d epc : Nat) (k : Cause) (info : Word) : (ccTrap s d epc k info).timers = s.timers := rfl
@[simp] theorem ccTrap_inbox (s : State) (d epc : Nat) (k : Cause) (info : Word) : (ccTrap s d epc k info).inbox = s.inbox := rfl
@[simp] theorem ccTrap_outbox (s : State) (d epc : Nat) (k : Cause) (info : Word) : (ccTrap s d epc k info).outbox = s.outbox := rfl
@[simp] theorem ccTrap_fresh (s : State) (d epc : Nat) (k : Cause) (info : Word) : (ccTrap s d epc k info).fresh = s.fresh := rfl
@[simp] theorem ccTrap_seq (s : State) (d epc : Nat) (k : Cause) (info : Word) : (ccTrap s d epc k info).seq = s.seq := rfl
@[simp] theorem ccTrap_mem (s : State) (d epc : Nat) (k : Cause) (info : Word) : (ccTrap s d epc k info).mem = s.mem := rfl
@[simp] theorem ccTrap_poison (s : State) (d epc : Nat) (k : Cause) (info : Word) : (ccTrap s d epc k info).poison = s.poison := rfl
@[simp] theorem ccTrap_cores (s : State) (d epc : Nat) (k : Cause) (info : Word) : (ccTrap s d epc k info).cores = s.cores := rfl
@[simp] theorem ccTrap_spaces (s : State) (d epc : Nat) (k : Cause) (info : Word) : (ccTrap s d epc k info).spaces = s.spaces := rfl
@[simp] theorem ccTrap_cells (s : State) (d epc : Nat) (k : Cause) (info : Word) : (ccTrap s d epc k info).cells = s.cells := rfl
@[simp] theorem ccTrap_making (s : State) (d epc : Nat) (k : Cause) (info : Word) : (ccTrap s d epc k info).making = s.making := rfl
@[simp] theorem ccTrap_cellWaits (s : State) (d epc : Nat) (k : Cause) (info : Word) : (ccTrap s d epc k info).cellWaits = s.cellWaits := rfl
@[simp] theorem ccTrap_writes (s : State) (d epc : Nat) (k : Cause) (info : Word) : (ccTrap s d epc k info).writes = s.writes := rfl
@[simp] theorem ccTrap_order (s : State) (d epc : Nat) (k : Cause) (info : Word) : (ccTrap s d epc k info).order = s.order := rfl
@[simp] theorem ccTrap_shoots (s : State) (d epc : Nat) (k : Cause) (info : Word) : (ccTrap s d epc k info).shoots = s.shoots := rfl
@[simp] theorem ccTrap_poste (s : State) (d epc : Nat) (k : Cause) (info : Word) : (ccTrap s d epc k info).poste = s.poste := rfl
@[simp] theorem ccTrap_posteSeq (s : State) (d epc : Nat) (k : Cause) (info : Word) : (ccTrap s d epc k info).posteSeq = s.posteSeq := rfl
@[simp] theorem ccTrap_faults (s : State) (d epc : Nat) (k : Cause) (info : Word) : (ccTrap s d epc k info).faults = s.faults := rfl
@[simp] theorem ccTrap_failed (s : State) (d epc : Nat) (k : Cause) (info : Word) : (ccTrap s d epc k info).failed = s.failed := rfl
@[simp] theorem ccTrap_walkers (s : State) (d epc : Nat) (k : Cause) (info : Word) : (ccTrap s d epc k info).walkers = s.walkers := rfl
@[simp] theorem ccTrap_launches (s : State) (d epc : Nat) (k : Cause) (info : Word) : (ccTrap s d epc k info).launches = s.launches := rfl
@[simp] theorem ccTrap_launchNo (s : State) (d epc : Nat) (k : Cause) (info : Word) : (ccTrap s d epc k info).launchNo = s.launchNo := rfl
@[simp] theorem ccTrap_devid (s : State) (d epc : Nat) (k : Cause) (info : Word) : (ccTrap s d epc k info).devid = s.devid := rfl
@[simp] theorem ccTrap_ipPrefix (s : State) (d epc : Nat) (k : Cause) (info : Word) : (ccTrap s d epc k info).ipPrefix = s.ipPrefix := rfl
@[simp] theorem ccTrap_lists (s : State) (d epc : Nat) (k : Cause) (info : Word) : (ccTrap s d epc k info).lists = s.lists := rfl
@[simp] theorem ccTrap_flows (s : State) (d epc : Nat) (k : Cause) (info : Word) : (ccTrap s d epc k info).flows = s.flows := rfl
@[simp] theorem ccTrap_listSend (s : State) (d epc : Nat) (k : Cause) (info : Word) : (ccTrap s d epc k info).listSend = s.listSend := rfl
@[simp] theorem ccTrap_listRecv (s : State) (d epc : Nat) (k : Cause) (info : Word) : (ccTrap s d epc k info).listRecv = s.listRecv := rfl
@[simp] theorem ccTrap_answers (s : State) (d epc : Nat) (k : Cause) (info : Word) : (ccTrap s d epc k info).answers = s.answers := rfl
@[simp] theorem ccTrap_ops (s : State) (d epc : Nat) (k : Cause) (info : Word) : (ccTrap s d epc k info).ops = s.ops := rfl
@[simp] theorem ccTrap_mcasts (s : State) (d epc : Nat) (k : Cause) (info : Word) : (ccTrap s d epc k info).mcasts = s.mcasts := rfl
@[simp] theorem ccTrap_served (s : State) (d epc : Nat) (k : Cause) (info : Word) : (ccTrap s d epc k info).served = s.served := rfl
@[simp] theorem ccTrap_epoch (s : State) (d epc : Nat) (k : Cause) (info : Word) : (ccTrap s d epc k info).epoch = s.epoch := rfl
@[simp] theorem ccTrap_ports (s : State) (d epc : Nat) (k : Cause) (info : Word) : (ccTrap s d epc k info).ports = s.ports := rfl
@[simp] theorem ccTrap_discards (s : State) (d epc : Nat) (k : Cause) (info : Word) : (ccTrap s d epc k info).discards = s.discards := rfl
@[simp] theorem ccTrap_uctAnswers (s : State) (d epc : Nat) (k : Cause) (info : Word) : (ccTrap s d epc k info).uctAnswers = s.uctAnswers := rfl
@[simp] theorem ccTrap_events (s : State) (d epc : Nat) (k : Cause) (info : Word) : (ccTrap s d epc k info).events = s.events := rfl
@[simp] theorem ccTrap_nextEvent (s : State) (d epc : Nat) (k : Cause) (info : Word) : (ccTrap s d epc k info).nextEvent = s.nextEvent := rfl
@[simp] theorem ccTrap_hscore (s : State) (d epc : Nat) (k : Cause) (info : Word) : (ccTrap s d epc k info).hscore = s.hscore := rfl
@[simp] theorem ccTrap_fscore (s : State) (d epc : Nat) (k : Cause) (info : Word) : (ccTrap s d epc k info).fscore = s.fscore := rfl
@[simp] theorem ccTrap_injHub (s : State) (d epc : Nat) (k : Cause) (info : Word) : (ccTrap s d epc k info).injHub = s.injHub := rfl
@[simp] theorem ccTrap_injPool (s : State) (d epc : Nat) (k : Cause) (info : Word) : (ccTrap s d epc k info).injPool = s.injPool := rfl
@[simp] theorem ccTrap_reserve (s : State) (d epc : Nat) (k : Cause) (info : Word) : (ccTrap s d epc k info).reserve = s.reserve := rfl
@[simp] theorem ccTrap_withdrawn (s : State) (d epc : Nat) (k : Cause) (info : Word) : (ccTrap s d epc k info).withdrawn = s.withdrawn := rfl
@[simp] theorem ccTrap_fencedPairs (s : State) (d epc : Nat) (k : Cause) (info : Word) : (ccTrap s d epc k info).fencedPairs = s.fencedPairs := rfl
@[simp] theorem ccTrap_partition (s : State) (d epc : Nat) (k : Cause) (info : Word) : (ccTrap s d epc k info).partition = s.partition := rfl
@[simp] theorem ccTrap_corrected (s : State) (d epc : Nat) (k : Cause) (info : Word) : (ccTrap s d epc k info).corrected = s.corrected := rfl
@[simp] theorem ccTrap_boot (s : State) (d epc : Nat) (k : Cause) (info : Word) : (ccTrap s d epc k info).boot = s.boot := rfl
@[simp] theorem ccTrap_board (s : State) (d epc : Nat) (k : Cause) (info : Word) : (ccTrap s d epc k info).board = s.board := rfl
@[simp] theorem ccTrap_powerLog (s : State) (d epc : Nat) (k : Cause) (info : Word) : (ccTrap s d epc k info).powerLog = s.powerLog := rfl
@[simp] theorem ccTrap_powerHold (s : State) (d epc : Nat) (k : Cause) (info : Word) : (ccTrap s d epc k info).powerHold = s.powerHold := rfl
@[simp] theorem ccTrap_tempHold (s : State) (d epc : Nat) (k : Cause) (info : Word) : (ccTrap s d epc k info).tempHold = s.tempHold := rfl
@[simp] theorem ccTrap_hotInlet (s : State) (d epc : Nat) (k : Cause) (info : Word) : (ccTrap s d epc k info).hotInlet = s.hotInlet := rfl
@[simp] theorem ccTrap_ckpt (s : State) (d epc : Nat) (k : Cause) (info : Word) : (ccTrap s d epc k info).ckpt = s.ckpt := rfl
@[simp] theorem ccTrap_cellar (s : State) (d epc : Nat) (k : Cause) (info : Word) : (ccTrap s d epc k info).cellar = s.cellar := rfl
@[simp] theorem ccTrap_cellarLink (s : State) (d epc : Nat) (k : Cause) (info : Word) : (ccTrap s d epc k info).cellarLink = s.cellarLink := rfl
@[simp] theorem ccTrap_strikes (s : State) (d epc : Nat) (k : Cause) (info : Word) : (ccTrap s d epc k info).strikes = s.strikes := rfl
@[simp] theorem ccTrap_barriers (s : State) (d epc : Nat) (k : Cause) (info : Word) : (ccTrap s d epc k info).barriers = s.barriers := rfl
@[simp] theorem ccTrap_heldReads (s : State) (d epc : Nat) (k : Cause) (info : Word) : (ccTrap s d epc k info).heldReads = s.heldReads := rfl
@[simp] theorem ccTrap_ended (s : State) (d epc : Nat) (k : Cause) (info : Word) : (ccTrap s d epc k info).ended = s.ended := rfl
@[simp] theorem coreTrap_cycle (s : State) (d c cls : Nat) (t : TrapInfo) (apc xpc : Nat) : (coreTrap s d c cls t apc xpc).cycle = s.cycle := by simp [coreTrap]
@[simp] theorem coreTrap_focus (s : State) (d c cls : Nat) (t : TrapInfo) (apc xpc : Nat) : (coreTrap s d c cls t apc xpc).focus = s.focus := by simp [coreTrap]
@[simp] theorem coreTrap_timers (s : State) (d c cls : Nat) (t : TrapInfo) (apc xpc : Nat) : (coreTrap s d c cls t apc xpc).timers = s.timers := by simp [coreTrap]
@[simp] theorem coreTrap_inbox (s : State) (d c cls : Nat) (t : TrapInfo) (apc xpc : Nat) : (coreTrap s d c cls t apc xpc).inbox = s.inbox := by simp [coreTrap]
@[simp] theorem coreTrap_outbox (s : State) (d c cls : Nat) (t : TrapInfo) (apc xpc : Nat) : (coreTrap s d c cls t apc xpc).outbox = s.outbox := by simp [coreTrap]
@[simp] theorem coreTrap_fresh (s : State) (d c cls : Nat) (t : TrapInfo) (apc xpc : Nat) : (coreTrap s d c cls t apc xpc).fresh = s.fresh := by simp [coreTrap]
@[simp] theorem coreTrap_seq (s : State) (d c cls : Nat) (t : TrapInfo) (apc xpc : Nat) : (coreTrap s d c cls t apc xpc).seq = s.seq := by simp [coreTrap]
@[simp] theorem coreTrap_mem (s : State) (d c cls : Nat) (t : TrapInfo) (apc xpc : Nat) : (coreTrap s d c cls t apc xpc).mem = s.mem := by simp [coreTrap]
@[simp] theorem coreTrap_poison (s : State) (d c cls : Nat) (t : TrapInfo) (apc xpc : Nat) : (coreTrap s d c cls t apc xpc).poison = s.poison := by simp [coreTrap]
@[simp] theorem coreTrap_dies (s : State) (d c cls : Nat) (t : TrapInfo) (apc xpc : Nat) : (coreTrap s d c cls t apc xpc).dies = s.dies := by simp [coreTrap]
@[simp] theorem coreTrap_spaces (s : State) (d c cls : Nat) (t : TrapInfo) (apc xpc : Nat) : (coreTrap s d c cls t apc xpc).spaces = s.spaces := by simp [coreTrap]
@[simp] theorem coreTrap_cells (s : State) (d c cls : Nat) (t : TrapInfo) (apc xpc : Nat) : (coreTrap s d c cls t apc xpc).cells = s.cells := by simp [coreTrap]
@[simp] theorem coreTrap_making (s : State) (d c cls : Nat) (t : TrapInfo) (apc xpc : Nat) : (coreTrap s d c cls t apc xpc).making = s.making := by simp [coreTrap]
@[simp] theorem coreTrap_cellWaits (s : State) (d c cls : Nat) (t : TrapInfo) (apc xpc : Nat) : (coreTrap s d c cls t apc xpc).cellWaits = s.cellWaits := by simp [coreTrap]
@[simp] theorem coreTrap_writes (s : State) (d c cls : Nat) (t : TrapInfo) (apc xpc : Nat) : (coreTrap s d c cls t apc xpc).writes = s.writes := by simp [coreTrap]
@[simp] theorem coreTrap_order (s : State) (d c cls : Nat) (t : TrapInfo) (apc xpc : Nat) : (coreTrap s d c cls t apc xpc).order = s.order := by simp [coreTrap]
@[simp] theorem coreTrap_shoots (s : State) (d c cls : Nat) (t : TrapInfo) (apc xpc : Nat) : (coreTrap s d c cls t apc xpc).shoots = s.shoots := by simp [coreTrap]
@[simp] theorem coreTrap_poste (s : State) (d c cls : Nat) (t : TrapInfo) (apc xpc : Nat) : (coreTrap s d c cls t apc xpc).poste = s.poste := by simp [coreTrap]
@[simp] theorem coreTrap_posteSeq (s : State) (d c cls : Nat) (t : TrapInfo) (apc xpc : Nat) : (coreTrap s d c cls t apc xpc).posteSeq = s.posteSeq := by simp [coreTrap]
@[simp] theorem coreTrap_faults (s : State) (d c cls : Nat) (t : TrapInfo) (apc xpc : Nat) : (coreTrap s d c cls t apc xpc).faults = s.faults := by simp [coreTrap]
@[simp] theorem coreTrap_failed (s : State) (d c cls : Nat) (t : TrapInfo) (apc xpc : Nat) : (coreTrap s d c cls t apc xpc).failed = s.failed := by simp [coreTrap]
@[simp] theorem coreTrap_walkers (s : State) (d c cls : Nat) (t : TrapInfo) (apc xpc : Nat) : (coreTrap s d c cls t apc xpc).walkers = s.walkers := by simp [coreTrap]
@[simp] theorem coreTrap_launches (s : State) (d c cls : Nat) (t : TrapInfo) (apc xpc : Nat) : (coreTrap s d c cls t apc xpc).launches = s.launches := by simp [coreTrap]
@[simp] theorem coreTrap_launchNo (s : State) (d c cls : Nat) (t : TrapInfo) (apc xpc : Nat) : (coreTrap s d c cls t apc xpc).launchNo = s.launchNo := by simp [coreTrap]
@[simp] theorem coreTrap_devid (s : State) (d c cls : Nat) (t : TrapInfo) (apc xpc : Nat) : (coreTrap s d c cls t apc xpc).devid = s.devid := by simp [coreTrap]
@[simp] theorem coreTrap_ipPrefix (s : State) (d c cls : Nat) (t : TrapInfo) (apc xpc : Nat) : (coreTrap s d c cls t apc xpc).ipPrefix = s.ipPrefix := by simp [coreTrap]
@[simp] theorem coreTrap_lists (s : State) (d c cls : Nat) (t : TrapInfo) (apc xpc : Nat) : (coreTrap s d c cls t apc xpc).lists = s.lists := by simp [coreTrap]
@[simp] theorem coreTrap_flows (s : State) (d c cls : Nat) (t : TrapInfo) (apc xpc : Nat) : (coreTrap s d c cls t apc xpc).flows = s.flows := by simp [coreTrap]
@[simp] theorem coreTrap_listSend (s : State) (d c cls : Nat) (t : TrapInfo) (apc xpc : Nat) : (coreTrap s d c cls t apc xpc).listSend = s.listSend := by simp [coreTrap]
@[simp] theorem coreTrap_listRecv (s : State) (d c cls : Nat) (t : TrapInfo) (apc xpc : Nat) : (coreTrap s d c cls t apc xpc).listRecv = s.listRecv := by simp [coreTrap]
@[simp] theorem coreTrap_answers (s : State) (d c cls : Nat) (t : TrapInfo) (apc xpc : Nat) : (coreTrap s d c cls t apc xpc).answers = s.answers := by simp [coreTrap]
@[simp] theorem coreTrap_ops (s : State) (d c cls : Nat) (t : TrapInfo) (apc xpc : Nat) : (coreTrap s d c cls t apc xpc).ops = s.ops := by simp [coreTrap]
@[simp] theorem coreTrap_mcasts (s : State) (d c cls : Nat) (t : TrapInfo) (apc xpc : Nat) : (coreTrap s d c cls t apc xpc).mcasts = s.mcasts := by simp [coreTrap]
@[simp] theorem coreTrap_served (s : State) (d c cls : Nat) (t : TrapInfo) (apc xpc : Nat) : (coreTrap s d c cls t apc xpc).served = s.served := by simp [coreTrap]
@[simp] theorem coreTrap_epoch (s : State) (d c cls : Nat) (t : TrapInfo) (apc xpc : Nat) : (coreTrap s d c cls t apc xpc).epoch = s.epoch := by simp [coreTrap]
@[simp] theorem coreTrap_ports (s : State) (d c cls : Nat) (t : TrapInfo) (apc xpc : Nat) : (coreTrap s d c cls t apc xpc).ports = s.ports := by simp [coreTrap]
@[simp] theorem coreTrap_discards (s : State) (d c cls : Nat) (t : TrapInfo) (apc xpc : Nat) : (coreTrap s d c cls t apc xpc).discards = s.discards := by simp [coreTrap]
@[simp] theorem coreTrap_uctAnswers (s : State) (d c cls : Nat) (t : TrapInfo) (apc xpc : Nat) : (coreTrap s d c cls t apc xpc).uctAnswers = s.uctAnswers := by simp [coreTrap]
@[simp] theorem coreTrap_events (s : State) (d c cls : Nat) (t : TrapInfo) (apc xpc : Nat) : (coreTrap s d c cls t apc xpc).events = s.events := by simp [coreTrap]
@[simp] theorem coreTrap_nextEvent (s : State) (d c cls : Nat) (t : TrapInfo) (apc xpc : Nat) : (coreTrap s d c cls t apc xpc).nextEvent = s.nextEvent := by simp [coreTrap]
@[simp] theorem coreTrap_hscore (s : State) (d c cls : Nat) (t : TrapInfo) (apc xpc : Nat) : (coreTrap s d c cls t apc xpc).hscore = s.hscore := by simp [coreTrap]
@[simp] theorem coreTrap_fscore (s : State) (d c cls : Nat) (t : TrapInfo) (apc xpc : Nat) : (coreTrap s d c cls t apc xpc).fscore = s.fscore := by simp [coreTrap]
@[simp] theorem coreTrap_injHub (s : State) (d c cls : Nat) (t : TrapInfo) (apc xpc : Nat) : (coreTrap s d c cls t apc xpc).injHub = s.injHub := by simp [coreTrap]
@[simp] theorem coreTrap_injPool (s : State) (d c cls : Nat) (t : TrapInfo) (apc xpc : Nat) : (coreTrap s d c cls t apc xpc).injPool = s.injPool := by simp [coreTrap]
@[simp] theorem coreTrap_reserve (s : State) (d c cls : Nat) (t : TrapInfo) (apc xpc : Nat) : (coreTrap s d c cls t apc xpc).reserve = s.reserve := by simp [coreTrap]
@[simp] theorem coreTrap_withdrawn (s : State) (d c cls : Nat) (t : TrapInfo) (apc xpc : Nat) : (coreTrap s d c cls t apc xpc).withdrawn = s.withdrawn := by simp [coreTrap]
@[simp] theorem coreTrap_fencedPairs (s : State) (d c cls : Nat) (t : TrapInfo) (apc xpc : Nat) : (coreTrap s d c cls t apc xpc).fencedPairs = s.fencedPairs := by simp [coreTrap]
@[simp] theorem coreTrap_partition (s : State) (d c cls : Nat) (t : TrapInfo) (apc xpc : Nat) : (coreTrap s d c cls t apc xpc).partition = s.partition := by simp [coreTrap]
@[simp] theorem coreTrap_corrected (s : State) (d c cls : Nat) (t : TrapInfo) (apc xpc : Nat) : (coreTrap s d c cls t apc xpc).corrected = s.corrected := by simp [coreTrap]
@[simp] theorem coreTrap_boot (s : State) (d c cls : Nat) (t : TrapInfo) (apc xpc : Nat) : (coreTrap s d c cls t apc xpc).boot = s.boot := by simp [coreTrap]
@[simp] theorem coreTrap_board (s : State) (d c cls : Nat) (t : TrapInfo) (apc xpc : Nat) : (coreTrap s d c cls t apc xpc).board = s.board := by simp [coreTrap]
@[simp] theorem coreTrap_powerLog (s : State) (d c cls : Nat) (t : TrapInfo) (apc xpc : Nat) : (coreTrap s d c cls t apc xpc).powerLog = s.powerLog := by simp [coreTrap]
@[simp] theorem coreTrap_powerHold (s : State) (d c cls : Nat) (t : TrapInfo) (apc xpc : Nat) : (coreTrap s d c cls t apc xpc).powerHold = s.powerHold := by simp [coreTrap]
@[simp] theorem coreTrap_tempHold (s : State) (d c cls : Nat) (t : TrapInfo) (apc xpc : Nat) : (coreTrap s d c cls t apc xpc).tempHold = s.tempHold := by simp [coreTrap]
@[simp] theorem coreTrap_hotInlet (s : State) (d c cls : Nat) (t : TrapInfo) (apc xpc : Nat) : (coreTrap s d c cls t apc xpc).hotInlet = s.hotInlet := by simp [coreTrap]
@[simp] theorem coreTrap_ckpt (s : State) (d c cls : Nat) (t : TrapInfo) (apc xpc : Nat) : (coreTrap s d c cls t apc xpc).ckpt = s.ckpt := by simp [coreTrap]
@[simp] theorem coreTrap_cellar (s : State) (d c cls : Nat) (t : TrapInfo) (apc xpc : Nat) : (coreTrap s d c cls t apc xpc).cellar = s.cellar := by simp [coreTrap]
@[simp] theorem coreTrap_cellarLink (s : State) (d c cls : Nat) (t : TrapInfo) (apc xpc : Nat) : (coreTrap s d c cls t apc xpc).cellarLink = s.cellarLink := by simp [coreTrap]
@[simp] theorem coreTrap_strikes (s : State) (d c cls : Nat) (t : TrapInfo) (apc xpc : Nat) : (coreTrap s d c cls t apc xpc).strikes = s.strikes := by simp [coreTrap]
@[simp] theorem coreTrap_barriers (s : State) (d c cls : Nat) (t : TrapInfo) (apc xpc : Nat) : (coreTrap s d c cls t apc xpc).barriers = s.barriers := by simp [coreTrap]
@[simp] theorem coreTrap_heldReads (s : State) (d c cls : Nat) (t : TrapInfo) (apc xpc : Nat) : (coreTrap s d c cls t apc xpc).heldReads = s.heldReads := by simp [coreTrap]
@[simp] theorem coreTrap_ended (s : State) (d c cls : Nat) (t : TrapInfo) (apc xpc : Nat) : (coreTrap s d c cls t apc xpc).ended = s.ended := by simp [coreTrap]
@[simp] theorem postEvent_cycle (s : State) (d code : Nat) : (postEvent s d code).cycle = s.cycle := rfl
@[simp] theorem postEvent_focus (s : State) (d code : Nat) : (postEvent s d code).focus = s.focus := rfl
@[simp] theorem postEvent_agenda (s : State) (d code : Nat) : (postEvent s d code).agenda = s.agenda := rfl
@[simp] theorem postEvent_timers (s : State) (d code : Nat) : (postEvent s d code).timers = s.timers := rfl
@[simp] theorem postEvent_inbox (s : State) (d code : Nat) : (postEvent s d code).inbox = s.inbox := rfl
@[simp] theorem postEvent_outbox (s : State) (d code : Nat) : (postEvent s d code).outbox = s.outbox := rfl
@[simp] theorem postEvent_fresh (s : State) (d code : Nat) : (postEvent s d code).fresh = s.fresh := rfl
@[simp] theorem postEvent_seq (s : State) (d code : Nat) : (postEvent s d code).seq = s.seq := rfl
@[simp] theorem postEvent_mem (s : State) (d code : Nat) : (postEvent s d code).mem = s.mem := rfl
@[simp] theorem postEvent_poison (s : State) (d code : Nat) : (postEvent s d code).poison = s.poison := rfl
@[simp] theorem postEvent_cores (s : State) (d code : Nat) : (postEvent s d code).cores = s.cores := rfl
@[simp] theorem postEvent_spaces (s : State) (d code : Nat) : (postEvent s d code).spaces = s.spaces := rfl
@[simp] theorem postEvent_cells (s : State) (d code : Nat) : (postEvent s d code).cells = s.cells := rfl
@[simp] theorem postEvent_making (s : State) (d code : Nat) : (postEvent s d code).making = s.making := rfl
@[simp] theorem postEvent_cellWaits (s : State) (d code : Nat) : (postEvent s d code).cellWaits = s.cellWaits := rfl
@[simp] theorem postEvent_writes (s : State) (d code : Nat) : (postEvent s d code).writes = s.writes := rfl
@[simp] theorem postEvent_order (s : State) (d code : Nat) : (postEvent s d code).order = s.order := rfl
@[simp] theorem postEvent_shoots (s : State) (d code : Nat) : (postEvent s d code).shoots = s.shoots := rfl
@[simp] theorem postEvent_poste (s : State) (d code : Nat) : (postEvent s d code).poste = s.poste := rfl
@[simp] theorem postEvent_posteSeq (s : State) (d code : Nat) : (postEvent s d code).posteSeq = s.posteSeq := rfl
@[simp] theorem postEvent_faults (s : State) (d code : Nat) : (postEvent s d code).faults = s.faults := rfl
@[simp] theorem postEvent_failed (s : State) (d code : Nat) : (postEvent s d code).failed = s.failed := rfl
@[simp] theorem postEvent_walkers (s : State) (d code : Nat) : (postEvent s d code).walkers = s.walkers := rfl
@[simp] theorem postEvent_launches (s : State) (d code : Nat) : (postEvent s d code).launches = s.launches := rfl
@[simp] theorem postEvent_launchNo (s : State) (d code : Nat) : (postEvent s d code).launchNo = s.launchNo := rfl
@[simp] theorem postEvent_devid (s : State) (d code : Nat) : (postEvent s d code).devid = s.devid := rfl
@[simp] theorem postEvent_ipPrefix (s : State) (d code : Nat) : (postEvent s d code).ipPrefix = s.ipPrefix := rfl
@[simp] theorem postEvent_lists (s : State) (d code : Nat) : (postEvent s d code).lists = s.lists := rfl
@[simp] theorem postEvent_flows (s : State) (d code : Nat) : (postEvent s d code).flows = s.flows := rfl
@[simp] theorem postEvent_listSend (s : State) (d code : Nat) : (postEvent s d code).listSend = s.listSend := rfl
@[simp] theorem postEvent_listRecv (s : State) (d code : Nat) : (postEvent s d code).listRecv = s.listRecv := rfl
@[simp] theorem postEvent_answers (s : State) (d code : Nat) : (postEvent s d code).answers = s.answers := rfl
@[simp] theorem postEvent_ops (s : State) (d code : Nat) : (postEvent s d code).ops = s.ops := rfl
@[simp] theorem postEvent_mcasts (s : State) (d code : Nat) : (postEvent s d code).mcasts = s.mcasts := rfl
@[simp] theorem postEvent_served (s : State) (d code : Nat) : (postEvent s d code).served = s.served := rfl
@[simp] theorem postEvent_epoch (s : State) (d code : Nat) : (postEvent s d code).epoch = s.epoch := rfl
@[simp] theorem postEvent_ports (s : State) (d code : Nat) : (postEvent s d code).ports = s.ports := rfl
@[simp] theorem postEvent_discards (s : State) (d code : Nat) : (postEvent s d code).discards = s.discards := rfl
@[simp] theorem postEvent_uctAnswers (s : State) (d code : Nat) : (postEvent s d code).uctAnswers = s.uctAnswers := rfl
@[simp] theorem postEvent_events (s : State) (d code : Nat) : (postEvent s d code).events = s.events := rfl
@[simp] theorem postEvent_nextEvent (s : State) (d code : Nat) : (postEvent s d code).nextEvent = s.nextEvent := rfl
@[simp] theorem postEvent_hscore (s : State) (d code : Nat) : (postEvent s d code).hscore = s.hscore := rfl
@[simp] theorem postEvent_fscore (s : State) (d code : Nat) : (postEvent s d code).fscore = s.fscore := rfl
@[simp] theorem postEvent_injHub (s : State) (d code : Nat) : (postEvent s d code).injHub = s.injHub := rfl
@[simp] theorem postEvent_injPool (s : State) (d code : Nat) : (postEvent s d code).injPool = s.injPool := rfl
@[simp] theorem postEvent_reserve (s : State) (d code : Nat) : (postEvent s d code).reserve = s.reserve := rfl
@[simp] theorem postEvent_withdrawn (s : State) (d code : Nat) : (postEvent s d code).withdrawn = s.withdrawn := rfl
@[simp] theorem postEvent_fencedPairs (s : State) (d code : Nat) : (postEvent s d code).fencedPairs = s.fencedPairs := rfl
@[simp] theorem postEvent_partition (s : State) (d code : Nat) : (postEvent s d code).partition = s.partition := rfl
@[simp] theorem postEvent_corrected (s : State) (d code : Nat) : (postEvent s d code).corrected = s.corrected := rfl
@[simp] theorem postEvent_boot (s : State) (d code : Nat) : (postEvent s d code).boot = s.boot := rfl
@[simp] theorem postEvent_board (s : State) (d code : Nat) : (postEvent s d code).board = s.board := rfl
@[simp] theorem postEvent_powerLog (s : State) (d code : Nat) : (postEvent s d code).powerLog = s.powerLog := rfl
@[simp] theorem postEvent_powerHold (s : State) (d code : Nat) : (postEvent s d code).powerHold = s.powerHold := rfl
@[simp] theorem postEvent_tempHold (s : State) (d code : Nat) : (postEvent s d code).tempHold = s.tempHold := rfl
@[simp] theorem postEvent_hotInlet (s : State) (d code : Nat) : (postEvent s d code).hotInlet = s.hotInlet := rfl
@[simp] theorem postEvent_ckpt (s : State) (d code : Nat) : (postEvent s d code).ckpt = s.ckpt := rfl
@[simp] theorem postEvent_cellar (s : State) (d code : Nat) : (postEvent s d code).cellar = s.cellar := rfl
@[simp] theorem postEvent_cellarLink (s : State) (d code : Nat) : (postEvent s d code).cellarLink = s.cellarLink := rfl
@[simp] theorem postEvent_strikes (s : State) (d code : Nat) : (postEvent s d code).strikes = s.strikes := rfl
@[simp] theorem postEvent_barriers (s : State) (d code : Nat) : (postEvent s d code).barriers = s.barriers := rfl
@[simp] theorem postEvent_heldReads (s : State) (d code : Nat) : (postEvent s d code).heldReads = s.heldReads := rfl
@[simp] theorem postEvent_ended (s : State) (d code : Nat) : (postEvent s d code).ended = s.ended := rfl
@[simp] theorem hostEvent_cycle (s : State) (e : HostEvent) : (hostEvent s e).cycle = s.cycle := by simp [hostEvent]
@[simp] theorem hostEvent_focus (s : State) (e : HostEvent) : (hostEvent s e).focus = s.focus := by simp [hostEvent]
@[simp] theorem hostEvent_inbox (s : State) (e : HostEvent) : (hostEvent s e).inbox = s.inbox := by simp [hostEvent]
@[simp] theorem hostEvent_fresh (s : State) (e : HostEvent) : (hostEvent s e).fresh = s.fresh := by simp [hostEvent]
@[simp] theorem hostEvent_seq (s : State) (e : HostEvent) : (hostEvent s e).seq = s.seq := by simp [hostEvent]
@[simp] theorem hostEvent_mem (s : State) (e : HostEvent) : (hostEvent s e).mem = s.mem := by simp [hostEvent]
@[simp] theorem hostEvent_poison (s : State) (e : HostEvent) : (hostEvent s e).poison = s.poison := by simp [hostEvent]
@[simp] theorem hostEvent_dies (s : State) (e : HostEvent) : (hostEvent s e).dies = s.dies := by simp [hostEvent]
@[simp] theorem hostEvent_cores (s : State) (e : HostEvent) : (hostEvent s e).cores = s.cores := by simp [hostEvent]
@[simp] theorem hostEvent_spaces (s : State) (e : HostEvent) : (hostEvent s e).spaces = s.spaces := by simp [hostEvent]
@[simp] theorem hostEvent_cells (s : State) (e : HostEvent) : (hostEvent s e).cells = s.cells := by simp [hostEvent]
@[simp] theorem hostEvent_making (s : State) (e : HostEvent) : (hostEvent s e).making = s.making := by simp [hostEvent]
@[simp] theorem hostEvent_cellWaits (s : State) (e : HostEvent) : (hostEvent s e).cellWaits = s.cellWaits := by simp [hostEvent]
@[simp] theorem hostEvent_writes (s : State) (e : HostEvent) : (hostEvent s e).writes = s.writes := by simp [hostEvent]
@[simp] theorem hostEvent_order (s : State) (e : HostEvent) : (hostEvent s e).order = s.order := by simp [hostEvent]
@[simp] theorem hostEvent_shoots (s : State) (e : HostEvent) : (hostEvent s e).shoots = s.shoots := by simp [hostEvent]
@[simp] theorem hostEvent_poste (s : State) (e : HostEvent) : (hostEvent s e).poste = s.poste := by simp [hostEvent]
@[simp] theorem hostEvent_posteSeq (s : State) (e : HostEvent) : (hostEvent s e).posteSeq = s.posteSeq := by simp [hostEvent]
@[simp] theorem hostEvent_faults (s : State) (e : HostEvent) : (hostEvent s e).faults = s.faults := by simp [hostEvent]
@[simp] theorem hostEvent_failed (s : State) (e : HostEvent) : (hostEvent s e).failed = s.failed := by simp [hostEvent]
@[simp] theorem hostEvent_walkers (s : State) (e : HostEvent) : (hostEvent s e).walkers = s.walkers := by simp [hostEvent]
@[simp] theorem hostEvent_launches (s : State) (e : HostEvent) : (hostEvent s e).launches = s.launches := by simp [hostEvent]
@[simp] theorem hostEvent_launchNo (s : State) (e : HostEvent) : (hostEvent s e).launchNo = s.launchNo := by simp [hostEvent]
@[simp] theorem hostEvent_devid (s : State) (e : HostEvent) : (hostEvent s e).devid = s.devid := by simp [hostEvent]
@[simp] theorem hostEvent_ipPrefix (s : State) (e : HostEvent) : (hostEvent s e).ipPrefix = s.ipPrefix := by simp [hostEvent]
@[simp] theorem hostEvent_lists (s : State) (e : HostEvent) : (hostEvent s e).lists = s.lists := by simp [hostEvent]
@[simp] theorem hostEvent_flows (s : State) (e : HostEvent) : (hostEvent s e).flows = s.flows := by simp [hostEvent]
@[simp] theorem hostEvent_listSend (s : State) (e : HostEvent) : (hostEvent s e).listSend = s.listSend := by simp [hostEvent]
@[simp] theorem hostEvent_listRecv (s : State) (e : HostEvent) : (hostEvent s e).listRecv = s.listRecv := by simp [hostEvent]
@[simp] theorem hostEvent_answers (s : State) (e : HostEvent) : (hostEvent s e).answers = s.answers := by simp [hostEvent]
@[simp] theorem hostEvent_ops (s : State) (e : HostEvent) : (hostEvent s e).ops = s.ops := by simp [hostEvent]
@[simp] theorem hostEvent_mcasts (s : State) (e : HostEvent) : (hostEvent s e).mcasts = s.mcasts := by simp [hostEvent]
@[simp] theorem hostEvent_served (s : State) (e : HostEvent) : (hostEvent s e).served = s.served := by simp [hostEvent]
@[simp] theorem hostEvent_epoch (s : State) (e : HostEvent) : (hostEvent s e).epoch = s.epoch := by simp [hostEvent]
@[simp] theorem hostEvent_ports (s : State) (e : HostEvent) : (hostEvent s e).ports = s.ports := by simp [hostEvent]
@[simp] theorem hostEvent_discards (s : State) (e : HostEvent) : (hostEvent s e).discards = s.discards := by simp [hostEvent]
@[simp] theorem hostEvent_uctAnswers (s : State) (e : HostEvent) : (hostEvent s e).uctAnswers = s.uctAnswers := by simp [hostEvent]
@[simp] theorem hostEvent_hscore (s : State) (e : HostEvent) : (hostEvent s e).hscore = s.hscore := by simp [hostEvent]
@[simp] theorem hostEvent_fscore (s : State) (e : HostEvent) : (hostEvent s e).fscore = s.fscore := by simp [hostEvent]
@[simp] theorem hostEvent_injHub (s : State) (e : HostEvent) : (hostEvent s e).injHub = s.injHub := by simp [hostEvent]
@[simp] theorem hostEvent_injPool (s : State) (e : HostEvent) : (hostEvent s e).injPool = s.injPool := by simp [hostEvent]
@[simp] theorem hostEvent_reserve (s : State) (e : HostEvent) : (hostEvent s e).reserve = s.reserve := by simp [hostEvent]
@[simp] theorem hostEvent_withdrawn (s : State) (e : HostEvent) : (hostEvent s e).withdrawn = s.withdrawn := by simp [hostEvent]
@[simp] theorem hostEvent_fencedPairs (s : State) (e : HostEvent) : (hostEvent s e).fencedPairs = s.fencedPairs := by simp [hostEvent]
@[simp] theorem hostEvent_partition (s : State) (e : HostEvent) : (hostEvent s e).partition = s.partition := by simp [hostEvent]
@[simp] theorem hostEvent_corrected (s : State) (e : HostEvent) : (hostEvent s e).corrected = s.corrected := by simp [hostEvent]
@[simp] theorem hostEvent_boot (s : State) (e : HostEvent) : (hostEvent s e).boot = s.boot := by simp [hostEvent]
@[simp] theorem hostEvent_board (s : State) (e : HostEvent) : (hostEvent s e).board = s.board := by simp [hostEvent]
@[simp] theorem hostEvent_powerLog (s : State) (e : HostEvent) : (hostEvent s e).powerLog = s.powerLog := by simp [hostEvent]
@[simp] theorem hostEvent_powerHold (s : State) (e : HostEvent) : (hostEvent s e).powerHold = s.powerHold := by simp [hostEvent]
@[simp] theorem hostEvent_tempHold (s : State) (e : HostEvent) : (hostEvent s e).tempHold = s.tempHold := by simp [hostEvent]
@[simp] theorem hostEvent_hotInlet (s : State) (e : HostEvent) : (hostEvent s e).hotInlet = s.hotInlet := by simp [hostEvent]
@[simp] theorem hostEvent_ckpt (s : State) (e : HostEvent) : (hostEvent s e).ckpt = s.ckpt := by simp [hostEvent]
@[simp] theorem hostEvent_cellar (s : State) (e : HostEvent) : (hostEvent s e).cellar = s.cellar := by simp [hostEvent]
@[simp] theorem hostEvent_cellarLink (s : State) (e : HostEvent) : (hostEvent s e).cellarLink = s.cellarLink := by simp [hostEvent]
@[simp] theorem hostEvent_strikes (s : State) (e : HostEvent) : (hostEvent s e).strikes = s.strikes := by simp [hostEvent]
@[simp] theorem hostEvent_barriers (s : State) (e : HostEvent) : (hostEvent s e).barriers = s.barriers := by simp [hostEvent]
@[simp] theorem hostEvent_heldReads (s : State) (e : HostEvent) : (hostEvent s e).heldReads = s.heldReads := by simp [hostEvent]
@[simp] theorem hostEvent_ended (s : State) (e : HostEvent) : (hostEvent s e).ended = s.ended := by simp [hostEvent]

/-! ## A control core that enters monitor mode; a register of a set; a die with its control core changed -/

@[simp] theorem Ctl.capture_monitor (c : Ctl) (set : Nat) : (c.capture set).monitor = c.monitor := rfl
@[simp] theorem Ctl.capture_ctx (c : Ctl) (set : Nat) : (c.capture set).ctx = c.ctx := rfl
@[simp] theorem Ctl.capture_pmode (c : Ctl) (set : Nat) : (c.capture set).pmode = c.pmode := rfl
@[simp] theorem Ctl.capture_pctx (c : Ctl) (set : Nat) : (c.capture set).pctx = c.pctx := rfl
@[simp] theorem Ctl.capture_mas (c : Ctl) (set : Nat) : (c.capture set).mas = c.mas := rfl
@[simp] theorem Ctl.capture_tvec (c : Ctl) (set : Nat) : (c.capture set).tvec = c.tvec := rfl
@[simp] theorem Ctl.capture_epc (c : Ctl) (set : Nat) : (c.capture set).epc = c.epc := rfl
@[simp] theorem Ctl.capture_ecause (c : Ctl) (set : Nat) : (c.capture set).ecause = c.ecause := rfl
@[simp] theorem Ctl.capture_einfo (c : Ctl) (set : Nat) : (c.capture set).einfo = c.einfo := rfl
@[simp] theorem Ctl.capture_escratch (c : Ctl) (set : Nat) : (c.capture set).escratch = c.escratch := rfl
@[simp] theorem Ctl.capture_ctxs (c : Ctl) (set : Nat) : (c.capture set).ctxs = c.ctxs := rfl
@[simp] theorem Ctl.capture_mon (c : Ctl) (set : Nat) : (c.capture set).mon = c.mon := rfl
@[simp] theorem Ctl.capture_landings (c : Ctl) (set : Nat) : (c.capture set).landings = c.landings := rfl
@[simp] theorem Ctl.capture_outward (c : Ctl) (set : Nat) : (c.capture set).outward = c.outward := rfl
@[simp] theorem Ctl.capture_lastIssue (c : Ctl) (set : Nat) : (c.capture set).lastIssue = c.lastIssue := rfl
@[simp] theorem Ctl.capture_chkcnt (c : Ctl) (set : Nat) : (c.capture set).chkcnt = c.chkcnt := rfl
@[simp] theorem Ctl.capture_events (c : Ctl) (set : Nat) : (c.capture set).events = c.events := rfl
@[simp] theorem Ctl.capture_firmware (c : Ctl) (set : Nat) : (c.capture set).firmware = c.firmware := rfl
@[simp] theorem Ctl.capture_acted (c : Ctl) (set : Nat) : (c.capture set).acted = c.acted := rfl
@[simp] theorem Ctl.capture_handed (c : Ctl) (set : Nat) : (c.capture set).handed = c.handed := rfl
@[simp] theorem Ctl.enter_ctx (c : Ctl) (epc ecause einfo : Word) (now : Nat) : (c.enter epc ecause einfo now).ctx = c.ctx := rfl
@[simp] theorem Ctl.enter_mas (c : Ctl) (epc ecause einfo : Word) (now : Nat) : (c.enter epc ecause einfo now).mas = c.mas := rfl
@[simp] theorem Ctl.enter_tvec (c : Ctl) (epc ecause einfo : Word) (now : Nat) : (c.enter epc ecause einfo now).tvec = c.tvec := rfl
@[simp] theorem Ctl.enter_escratch (c : Ctl) (epc ecause einfo : Word) (now : Nat) : (c.enter epc ecause einfo now).escratch = c.escratch := rfl
@[simp] theorem Ctl.enter_ctxs (c : Ctl) (epc ecause einfo : Word) (now : Nat) : (c.enter epc ecause einfo now).ctxs = c.ctxs := rfl
@[simp] theorem Ctl.enter_landings (c : Ctl) (epc ecause einfo : Word) (now : Nat) : (c.enter epc ecause einfo now).landings = c.landings := rfl
@[simp] theorem Ctl.enter_outward (c : Ctl) (epc ecause einfo : Word) (now : Nat) : (c.enter epc ecause einfo now).outward = c.outward := rfl
@[simp] theorem Ctl.enter_lastIssue (c : Ctl) (epc ecause einfo : Word) (now : Nat) : (c.enter epc ecause einfo now).lastIssue = c.lastIssue := rfl
@[simp] theorem Ctl.enter_chkcnt (c : Ctl) (epc ecause einfo : Word) (now : Nat) : (c.enter epc ecause einfo now).chkcnt = c.chkcnt := rfl
@[simp] theorem Ctl.enter_events (c : Ctl) (epc ecause einfo : Word) (now : Nat) : (c.enter epc ecause einfo now).events = c.events := rfl
@[simp] theorem Ctl.enter_firmware (c : Ctl) (epc ecause einfo : Word) (now : Nat) : (c.enter epc ecause einfo now).firmware = c.firmware := rfl
@[simp] theorem Ctl.enter_handed (c : Ctl) (epc ecause einfo : Word) (now : Nat) : (c.enter epc ecause einfo now).handed = c.handed := rfl
@[simp] theorem Ctl.onCtx_monitor (c : Ctl) (n : Nat) (f : Ctx → Ctx) : (c.onCtx n f).monitor = c.monitor := by unfold Ctl.onCtx; split <;> rfl
@[simp] theorem Ctl.onCtx_ctx (c : Ctl) (n : Nat) (f : Ctx → Ctx) : (c.onCtx n f).ctx = c.ctx := by unfold Ctl.onCtx; split <;> rfl
@[simp] theorem Ctl.onCtx_pmode (c : Ctl) (n : Nat) (f : Ctx → Ctx) : (c.onCtx n f).pmode = c.pmode := by unfold Ctl.onCtx; split <;> rfl
@[simp] theorem Ctl.onCtx_pctx (c : Ctl) (n : Nat) (f : Ctx → Ctx) : (c.onCtx n f).pctx = c.pctx := by unfold Ctl.onCtx; split <;> rfl
@[simp] theorem Ctl.onCtx_mas (c : Ctl) (n : Nat) (f : Ctx → Ctx) : (c.onCtx n f).mas = c.mas := by unfold Ctl.onCtx; split <;> rfl
@[simp] theorem Ctl.onCtx_tvec (c : Ctl) (n : Nat) (f : Ctx → Ctx) : (c.onCtx n f).tvec = c.tvec := by unfold Ctl.onCtx; split <;> rfl
@[simp] theorem Ctl.onCtx_epc (c : Ctl) (n : Nat) (f : Ctx → Ctx) : (c.onCtx n f).epc = c.epc := by unfold Ctl.onCtx; split <;> rfl
@[simp] theorem Ctl.onCtx_ecause (c : Ctl) (n : Nat) (f : Ctx → Ctx) : (c.onCtx n f).ecause = c.ecause := by unfold Ctl.onCtx; split <;> rfl
@[simp] theorem Ctl.onCtx_einfo (c : Ctl) (n : Nat) (f : Ctx → Ctx) : (c.onCtx n f).einfo = c.einfo := by unfold Ctl.onCtx; split <;> rfl
@[simp] theorem Ctl.onCtx_escratch (c : Ctl) (n : Nat) (f : Ctx → Ctx) : (c.onCtx n f).escratch = c.escratch := by unfold Ctl.onCtx; split <;> rfl
@[simp] theorem Ctl.onCtx_landings (c : Ctl) (n : Nat) (f : Ctx → Ctx) : (c.onCtx n f).landings = c.landings := by unfold Ctl.onCtx; split <;> rfl
@[simp] theorem Ctl.onCtx_outward (c : Ctl) (n : Nat) (f : Ctx → Ctx) : (c.onCtx n f).outward = c.outward := by unfold Ctl.onCtx; split <;> rfl
@[simp] theorem Ctl.onCtx_shadows (c : Ctl) (n : Nat) (f : Ctx → Ctx) : (c.onCtx n f).shadows = c.shadows := by unfold Ctl.onCtx; split <;> rfl
@[simp] theorem Ctl.onCtx_lastIssue (c : Ctl) (n : Nat) (f : Ctx → Ctx) : (c.onCtx n f).lastIssue = c.lastIssue := by unfold Ctl.onCtx; split <;> rfl
@[simp] theorem Ctl.onCtx_chkcnt (c : Ctl) (n : Nat) (f : Ctx → Ctx) : (c.onCtx n f).chkcnt = c.chkcnt := by unfold Ctl.onCtx; split <;> rfl
@[simp] theorem Ctl.onCtx_events (c : Ctl) (n : Nat) (f : Ctx → Ctx) : (c.onCtx n f).events = c.events := by unfold Ctl.onCtx; split <;> rfl
@[simp] theorem Ctl.onCtx_firmware (c : Ctl) (n : Nat) (f : Ctx → Ctx) : (c.onCtx n f).firmware = c.firmware := by unfold Ctl.onCtx; split <;> rfl
@[simp] theorem Ctl.onCtx_acted (c : Ctl) (n : Nat) (f : Ctx → Ctx) : (c.onCtx n f).acted = c.acted := by unfold Ctl.onCtx; split <;> rfl
@[simp] theorem Ctl.onCtx_handed (c : Ctl) (n : Nat) (f : Ctx → Ctx) : (c.onCtx n f).handed = c.handed := by unfold Ctl.onCtx; split <;> rfl

/-! ## A register of a task core -/

@[simp] theorem Core.aPut_task (c : Core) (n : Nat) (v : Word) : (c.aPut n v).task = c.task := by unfold Core.aPut; (split <;> try split) <;> rfl
@[simp] theorem Core.aPut_ap (c : Core) (n : Nat) (v : Word) : (c.aPut n v).ap = c.ap := by unfold Core.aPut; (split <;> try split) <;> rfl
@[simp] theorem Core.aPut_apPreds (c : Core) (n : Nat) (v : Word) : (c.aPut n v).apPreds = c.apPreds := by unfold Core.aPut; (split <;> try split) <;> rfl
@[simp] theorem Core.aPut_apMasks (c : Core) (n : Nat) (v : Word) : (c.aPut n v).apMasks = c.apMasks := by unfold Core.aPut; (split <;> try split) <;> rfl
@[simp] theorem Core.aPut_space (c : Core) (n : Nat) (v : Word) : (c.aPut n v).space = c.space := by unfold Core.aPut; (split <;> try split) <;> rfl
@[simp] theorem Core.aPut_views (c : Core) (n : Nat) (v : Word) : (c.aPut n v).views = c.views := by unfold Core.aPut; (split <;> try split) <;> rfl
@[simp] theorem Core.aPut_xp (c : Core) (n : Nat) (v : Word) : (c.aPut n v).xp = c.xp := by unfold Core.aPut; (split <;> try split) <;> rfl
@[simp] theorem Core.aPut_xpPreds (c : Core) (n : Nat) (v : Word) : (c.aPut n v).xpPreds = c.xpPreds := by unfold Core.aPut; (split <;> try split) <;> rfl
@[simp] theorem Core.aPut_xpMasks (c : Core) (n : Nat) (v : Word) : (c.aPut n v).xpMasks = c.xpMasks := by unfold Core.aPut; (split <;> try split) <;> rfl
@[simp] theorem Core.aPut_offsets (c : Core) (n : Nat) (v : Word) : (c.aPut n v).offsets = c.offsets := by unfold Core.aPut; (split <;> try split) <;> rfl
@[simp] theorem Core.aPut_latches (c : Core) (n : Nat) (v : Word) : (c.aPut n v).latches = c.latches := by unfold Core.aPut; (split <;> try split) <;> rfl
@[simp] theorem Core.aPut_aq (c : Core) (n : Nat) (v : Word) : (c.aPut n v).aq = c.aq := by unfold Core.aPut; (split <;> try split) <;> rfl
@[simp] theorem Core.aPut_xq (c : Core) (n : Nat) (v : Word) : (c.aPut n v).xq = c.xq := by unfold Core.aPut; (split <;> try split) <;> rfl
@[simp] theorem Core.aPut_bq (c : Core) (n : Nat) (v : Word) : (c.aPut n v).bq = c.bq := by unfold Core.aPut; (split <;> try split) <;> rfl
@[simp] theorem Core.aPut_bqKept (c : Core) (n : Nat) (v : Word) : (c.aPut n v).bqKept = c.bqKept := by unfold Core.aPut; (split <;> try split) <;> rfl
@[simp] theorem Core.aPut_wCopies (c : Core) (n : Nat) (v : Word) : (c.aPut n v).wCopies = c.wCopies := by unfold Core.aPut; (split <;> try split) <;> rfl
@[simp] theorem Core.aPut_tokens (c : Core) (n : Nat) (v : Word) : (c.aPut n v).tokens = c.tokens := by unfold Core.aPut; (split <;> try split) <;> rfl
@[simp] theorem Core.aPut_wp (c : Core) (n : Nat) (v : Word) : (c.aPut n v).wp = c.wp := by unfold Core.aPut; (split <;> try split) <;> rfl
@[simp] theorem Core.aPut_wpLast (c : Core) (n : Nat) (v : Word) : (c.aPut n v).wpLast = c.wpLast := by unfold Core.aPut; (split <;> try split) <;> rfl
@[simp] theorem Core.aPut_slip (c : Core) (n : Nat) (v : Word) : (c.aPut n v).slip = c.slip := by unfold Core.aPut; (split <;> try split) <;> rfl
@[simp] theorem Core.aPut_mark (c : Core) (n : Nat) (v : Word) : (c.aPut n v).mark = c.mark := by unfold Core.aPut; (split <;> try split) <;> rfl
@[simp] theorem Core.aPut_landings (c : Core) (n : Nat) (v : Word) : (c.aPut n v).landings = c.landings := by unfold Core.aPut; (split <;> try split) <;> rfl
@[simp] theorem Core.aPut_pigeon (c : Core) (n : Nat) (v : Word) : (c.aPut n v).pigeon = c.pigeon := by unfold Core.aPut; (split <;> try split) <;> rfl
@[simp] theorem Core.aPut_pigeonOvf (c : Core) (n : Nat) (v : Word) : (c.aPut n v).pigeonOvf = c.pigeonOvf := by unfold Core.aPut; (split <;> try split) <;> rfl
@[simp] theorem Core.aPut_wb (c : Core) (n : Nat) (v : Word) : (c.aPut n v).wb = c.wb := by unfold Core.aPut; (split <;> try split) <;> rfl
@[simp] theorem Core.aPut_ab (c : Core) (n : Nat) (v : Word) : (c.aPut n v).ab = c.ab := by unfold Core.aPut; (split <;> try split) <;> rfl
@[simp] theorem Core.aPut_cb (c : Core) (n : Nat) (v : Word) : (c.aPut n v).cb = c.cb := by unfold Core.aPut; (split <;> try split) <;> rfl
@[simp] theorem Core.aPut_grants (c : Core) (n : Nat) (v : Word) : (c.aPut n v).grants = c.grants := by unfold Core.aPut; (split <;> try split) <;> rfl
@[simp] theorem Core.aPut_cmds (c : Core) (n : Nat) (v : Word) : (c.aPut n v).cmds = c.cmds := by unfold Core.aPut; (split <;> try split) <;> rfl
@[simp] theorem Core.aPut_courier (c : Core) (n : Nat) (v : Word) : (c.aPut n v).courier = c.courier := by unfold Core.aPut; (split <;> try split) <;> rfl
@[simp] theorem Core.aPut_claims (c : Core) (n : Nat) (v : Word) : (c.aPut n v).claims = c.claims := by unfold Core.aPut; (split <;> try split) <;> rfl
@[simp] theorem Core.aPut_half (c : Core) (n : Nat) (v : Word) : (c.aPut n v).half = c.half := by unfold Core.aPut; (split <;> try split) <;> rfl
@[simp] theorem Core.aPut_capture (c : Core) (n : Nat) (v : Word) : (c.aPut n v).capture = c.capture := by unfold Core.aPut; (split <;> try split) <;> rfl
@[simp] theorem Core.aPut_cmdLog (c : Core) (n : Nat) (v : Word) : (c.aPut n v).cmdLog = c.cmdLog := by unfold Core.aPut; (split <;> try split) <;> rfl
@[simp] theorem Core.aPut_phaseLog (c : Core) (n : Nat) (v : Word) : (c.aPut n v).phaseLog = c.phaseLog := by unfold Core.aPut; (split <;> try split) <;> rfl
@[simp] theorem Core.aPut_logOver (c : Core) (n : Nat) (v : Word) : (c.aPut n v).logOver = c.logOver := by unfold Core.aPut; (split <;> try split) <;> rfl
@[simp] theorem Core.aPut_phaseErrs (c : Core) (n : Nat) (v : Word) : (c.aPut n v).phaseErrs = c.phaseErrs := by unfold Core.aPut; (split <;> try split) <;> rfl
@[simp] theorem Core.aPut_phaseChk (c : Core) (n : Nat) (v : Word) : (c.aPut n v).phaseChk = c.phaseChk := by unfold Core.aPut; (split <;> try split) <;> rfl
@[simp] theorem Core.aPut_restart (c : Core) (n : Nat) (v : Word) : (c.aPut n v).restart = c.restart := by unfold Core.aPut; (split <;> try split) <;> rfl
@[simp] theorem Core.aPut_pageReqs (c : Core) (n : Nat) (v : Word) : (c.aPut n v).pageReqs = c.pageReqs := by unfold Core.aPut; (split <;> try split) <;> rfl
@[simp] theorem Core.aPut_tlb (c : Core) (n : Nat) (v : Word) : (c.aPut n v).tlb = c.tlb := by unfold Core.aPut; (split <;> try split) <;> rfl
@[simp] theorem Core.aPut_hotBytes (c : Core) (n : Nat) (v : Word) : (c.aPut n v).hotBytes = c.hotBytes := by unfold Core.aPut; (split <;> try split) <;> rfl
@[simp] theorem Core.aPut_hotStall (c : Core) (n : Nat) (v : Word) : (c.aPut n v).hotStall = c.hotStall := by unfold Core.aPut; (split <;> try split) <;> rfl
@[simp] theorem Core.aPut_traps (c : Core) (n : Nat) (v : Word) : (c.aPut n v).traps = c.traps := by unfold Core.aPut; (split <;> try split) <;> rfl
@[simp] theorem Core.aPut_inject (c : Core) (n : Nat) (v : Word) : (c.aPut n v).inject = c.inject := by unfold Core.aPut; (split <;> try split) <;> rfl
@[simp] theorem Core.aPut_soon (c : Core) (n : Nat) (v : Word) : (c.aPut n v).soon = c.soon := by unfold Core.aPut; (split <;> try split) <;> rfl
@[simp] theorem Core.aPut_discardAt (c : Core) (n : Nat) (v : Word) : (c.aPut n v).discardAt = c.discardAt := by unfold Core.aPut; (split <;> try split) <;> rfl
@[simp] theorem Core.amPut_task (c : Core) (n : Nat) (v : Word) : (c.amPut n v).task = c.task := by unfold Core.amPut; split <;> rfl
@[simp] theorem Core.amPut_a (c : Core) (n : Nat) (v : Word) : (c.amPut n v).a = c.a := by unfold Core.amPut; split <;> rfl
@[simp] theorem Core.amPut_ap (c : Core) (n : Nat) (v : Word) : (c.amPut n v).ap = c.ap := by unfold Core.amPut; split <;> rfl
@[simp] theorem Core.amPut_apPreds (c : Core) (n : Nat) (v : Word) : (c.amPut n v).apPreds = c.apPreds := by unfold Core.amPut; split <;> rfl
@[simp] theorem Core.amPut_w (c : Core) (n : Nat) (v : Word) : (c.amPut n v).w = c.w := by unfold Core.amPut; split <;> rfl
@[simp] theorem Core.amPut_space (c : Core) (n : Nat) (v : Word) : (c.amPut n v).space = c.space := by unfold Core.amPut; split <;> rfl
@[simp] theorem Core.amPut_views (c : Core) (n : Nat) (v : Word) : (c.amPut n v).views = c.views := by unfold Core.amPut; split <;> rfl
@[simp] theorem Core.amPut_xp (c : Core) (n : Nat) (v : Word) : (c.amPut n v).xp = c.xp := by unfold Core.amPut; split <;> rfl
@[simp] theorem Core.amPut_xpPreds (c : Core) (n : Nat) (v : Word) : (c.amPut n v).xpPreds = c.xpPreds := by unfold Core.amPut; split <;> rfl
@[simp] theorem Core.amPut_xpMasks (c : Core) (n : Nat) (v : Word) : (c.amPut n v).xpMasks = c.xpMasks := by unfold Core.amPut; split <;> rfl
@[simp] theorem Core.amPut_offsets (c : Core) (n : Nat) (v : Word) : (c.amPut n v).offsets = c.offsets := by unfold Core.amPut; split <;> rfl
@[simp] theorem Core.amPut_latches (c : Core) (n : Nat) (v : Word) : (c.amPut n v).latches = c.latches := by unfold Core.amPut; split <;> rfl
@[simp] theorem Core.amPut_aq (c : Core) (n : Nat) (v : Word) : (c.amPut n v).aq = c.aq := by unfold Core.amPut; split <;> rfl
@[simp] theorem Core.amPut_xq (c : Core) (n : Nat) (v : Word) : (c.amPut n v).xq = c.xq := by unfold Core.amPut; split <;> rfl
@[simp] theorem Core.amPut_bq (c : Core) (n : Nat) (v : Word) : (c.amPut n v).bq = c.bq := by unfold Core.amPut; split <;> rfl
@[simp] theorem Core.amPut_bqKept (c : Core) (n : Nat) (v : Word) : (c.amPut n v).bqKept = c.bqKept := by unfold Core.amPut; split <;> rfl
@[simp] theorem Core.amPut_wCopies (c : Core) (n : Nat) (v : Word) : (c.amPut n v).wCopies = c.wCopies := by unfold Core.amPut; split <;> rfl
@[simp] theorem Core.amPut_tokens (c : Core) (n : Nat) (v : Word) : (c.amPut n v).tokens = c.tokens := by unfold Core.amPut; split <;> rfl
@[simp] theorem Core.amPut_wp (c : Core) (n : Nat) (v : Word) : (c.amPut n v).wp = c.wp := by unfold Core.amPut; split <;> rfl
@[simp] theorem Core.amPut_wpLast (c : Core) (n : Nat) (v : Word) : (c.amPut n v).wpLast = c.wpLast := by unfold Core.amPut; split <;> rfl
@[simp] theorem Core.amPut_slip (c : Core) (n : Nat) (v : Word) : (c.amPut n v).slip = c.slip := by unfold Core.amPut; split <;> rfl
@[simp] theorem Core.amPut_mark (c : Core) (n : Nat) (v : Word) : (c.amPut n v).mark = c.mark := by unfold Core.amPut; split <;> rfl
@[simp] theorem Core.amPut_landings (c : Core) (n : Nat) (v : Word) : (c.amPut n v).landings = c.landings := by unfold Core.amPut; split <;> rfl
@[simp] theorem Core.amPut_pigeon (c : Core) (n : Nat) (v : Word) : (c.amPut n v).pigeon = c.pigeon := by unfold Core.amPut; split <;> rfl
@[simp] theorem Core.amPut_pigeonOvf (c : Core) (n : Nat) (v : Word) : (c.amPut n v).pigeonOvf = c.pigeonOvf := by unfold Core.amPut; split <;> rfl
@[simp] theorem Core.amPut_wb (c : Core) (n : Nat) (v : Word) : (c.amPut n v).wb = c.wb := by unfold Core.amPut; split <;> rfl
@[simp] theorem Core.amPut_ab (c : Core) (n : Nat) (v : Word) : (c.amPut n v).ab = c.ab := by unfold Core.amPut; split <;> rfl
@[simp] theorem Core.amPut_cb (c : Core) (n : Nat) (v : Word) : (c.amPut n v).cb = c.cb := by unfold Core.amPut; split <;> rfl
@[simp] theorem Core.amPut_grants (c : Core) (n : Nat) (v : Word) : (c.amPut n v).grants = c.grants := by unfold Core.amPut; split <;> rfl
@[simp] theorem Core.amPut_cmds (c : Core) (n : Nat) (v : Word) : (c.amPut n v).cmds = c.cmds := by unfold Core.amPut; split <;> rfl
@[simp] theorem Core.amPut_courier (c : Core) (n : Nat) (v : Word) : (c.amPut n v).courier = c.courier := by unfold Core.amPut; split <;> rfl
@[simp] theorem Core.amPut_claims (c : Core) (n : Nat) (v : Word) : (c.amPut n v).claims = c.claims := by unfold Core.amPut; split <;> rfl
@[simp] theorem Core.amPut_half (c : Core) (n : Nat) (v : Word) : (c.amPut n v).half = c.half := by unfold Core.amPut; split <;> rfl
@[simp] theorem Core.amPut_capture (c : Core) (n : Nat) (v : Word) : (c.amPut n v).capture = c.capture := by unfold Core.amPut; split <;> rfl
@[simp] theorem Core.amPut_cmdLog (c : Core) (n : Nat) (v : Word) : (c.amPut n v).cmdLog = c.cmdLog := by unfold Core.amPut; split <;> rfl
@[simp] theorem Core.amPut_phaseLog (c : Core) (n : Nat) (v : Word) : (c.amPut n v).phaseLog = c.phaseLog := by unfold Core.amPut; split <;> rfl
@[simp] theorem Core.amPut_logOver (c : Core) (n : Nat) (v : Word) : (c.amPut n v).logOver = c.logOver := by unfold Core.amPut; split <;> rfl
@[simp] theorem Core.amPut_phaseErrs (c : Core) (n : Nat) (v : Word) : (c.amPut n v).phaseErrs = c.phaseErrs := by unfold Core.amPut; split <;> rfl
@[simp] theorem Core.amPut_phaseChk (c : Core) (n : Nat) (v : Word) : (c.amPut n v).phaseChk = c.phaseChk := by unfold Core.amPut; split <;> rfl
@[simp] theorem Core.amPut_restart (c : Core) (n : Nat) (v : Word) : (c.amPut n v).restart = c.restart := by unfold Core.amPut; split <;> rfl
@[simp] theorem Core.amPut_pageReqs (c : Core) (n : Nat) (v : Word) : (c.amPut n v).pageReqs = c.pageReqs := by unfold Core.amPut; split <;> rfl
@[simp] theorem Core.amPut_tlb (c : Core) (n : Nat) (v : Word) : (c.amPut n v).tlb = c.tlb := by unfold Core.amPut; split <;> rfl
@[simp] theorem Core.amPut_hotBytes (c : Core) (n : Nat) (v : Word) : (c.amPut n v).hotBytes = c.hotBytes := by unfold Core.amPut; split <;> rfl
@[simp] theorem Core.amPut_hotStall (c : Core) (n : Nat) (v : Word) : (c.amPut n v).hotStall = c.hotStall := by unfold Core.amPut; split <;> rfl
@[simp] theorem Core.amPut_traps (c : Core) (n : Nat) (v : Word) : (c.amPut n v).traps = c.traps := by unfold Core.amPut; split <;> rfl
@[simp] theorem Core.amPut_inject (c : Core) (n : Nat) (v : Word) : (c.amPut n v).inject = c.inject := by unfold Core.amPut; split <;> rfl
@[simp] theorem Core.amPut_soon (c : Core) (n : Nat) (v : Word) : (c.amPut n v).soon = c.soon := by unfold Core.amPut; split <;> rfl
@[simp] theorem Core.amPut_discardAt (c : Core) (n : Nat) (v : Word) : (c.amPut n v).discardAt = c.discardAt := by unfold Core.amPut; split <;> rfl
@[simp] theorem Core.xmPut_task (c : Core) (n : Nat) (v : Mask) : (c.xmPut n v).task = c.task := by unfold Core.xmPut; split <;> rfl
@[simp] theorem Core.xmPut_a (c : Core) (n : Nat) (v : Mask) : (c.xmPut n v).a = c.a := by unfold Core.xmPut; split <;> rfl
@[simp] theorem Core.xmPut_ap (c : Core) (n : Nat) (v : Mask) : (c.xmPut n v).ap = c.ap := by unfold Core.xmPut; split <;> rfl
@[simp] theorem Core.xmPut_apPreds (c : Core) (n : Nat) (v : Mask) : (c.xmPut n v).apPreds = c.apPreds := by unfold Core.xmPut; split <;> rfl
@[simp] theorem Core.xmPut_apMasks (c : Core) (n : Nat) (v : Mask) : (c.xmPut n v).apMasks = c.apMasks := by unfold Core.xmPut; split <;> rfl
@[simp] theorem Core.xmPut_w (c : Core) (n : Nat) (v : Mask) : (c.xmPut n v).w = c.w := by unfold Core.xmPut; split <;> rfl
@[simp] theorem Core.xmPut_space (c : Core) (n : Nat) (v : Mask) : (c.xmPut n v).space = c.space := by unfold Core.xmPut; split <;> rfl
@[simp] theorem Core.xmPut_views (c : Core) (n : Nat) (v : Mask) : (c.xmPut n v).views = c.views := by unfold Core.xmPut; split <;> rfl
@[simp] theorem Core.xmPut_xp (c : Core) (n : Nat) (v : Mask) : (c.xmPut n v).xp = c.xp := by unfold Core.xmPut; split <;> rfl
@[simp] theorem Core.xmPut_xpPreds (c : Core) (n : Nat) (v : Mask) : (c.xmPut n v).xpPreds = c.xpPreds := by unfold Core.xmPut; split <;> rfl
@[simp] theorem Core.xmPut_offsets (c : Core) (n : Nat) (v : Mask) : (c.xmPut n v).offsets = c.offsets := by unfold Core.xmPut; split <;> rfl
@[simp] theorem Core.xmPut_latches (c : Core) (n : Nat) (v : Mask) : (c.xmPut n v).latches = c.latches := by unfold Core.xmPut; split <;> rfl
@[simp] theorem Core.xmPut_aq (c : Core) (n : Nat) (v : Mask) : (c.xmPut n v).aq = c.aq := by unfold Core.xmPut; split <;> rfl
@[simp] theorem Core.xmPut_xq (c : Core) (n : Nat) (v : Mask) : (c.xmPut n v).xq = c.xq := by unfold Core.xmPut; split <;> rfl
@[simp] theorem Core.xmPut_bq (c : Core) (n : Nat) (v : Mask) : (c.xmPut n v).bq = c.bq := by unfold Core.xmPut; split <;> rfl
@[simp] theorem Core.xmPut_bqKept (c : Core) (n : Nat) (v : Mask) : (c.xmPut n v).bqKept = c.bqKept := by unfold Core.xmPut; split <;> rfl
@[simp] theorem Core.xmPut_wCopies (c : Core) (n : Nat) (v : Mask) : (c.xmPut n v).wCopies = c.wCopies := by unfold Core.xmPut; split <;> rfl
@[simp] theorem Core.xmPut_tokens (c : Core) (n : Nat) (v : Mask) : (c.xmPut n v).tokens = c.tokens := by unfold Core.xmPut; split <;> rfl
@[simp] theorem Core.xmPut_wp (c : Core) (n : Nat) (v : Mask) : (c.xmPut n v).wp = c.wp := by unfold Core.xmPut; split <;> rfl
@[simp] theorem Core.xmPut_wpLast (c : Core) (n : Nat) (v : Mask) : (c.xmPut n v).wpLast = c.wpLast := by unfold Core.xmPut; split <;> rfl
@[simp] theorem Core.xmPut_slip (c : Core) (n : Nat) (v : Mask) : (c.xmPut n v).slip = c.slip := by unfold Core.xmPut; split <;> rfl
@[simp] theorem Core.xmPut_mark (c : Core) (n : Nat) (v : Mask) : (c.xmPut n v).mark = c.mark := by unfold Core.xmPut; split <;> rfl
@[simp] theorem Core.xmPut_landings (c : Core) (n : Nat) (v : Mask) : (c.xmPut n v).landings = c.landings := by unfold Core.xmPut; split <;> rfl
@[simp] theorem Core.xmPut_pigeon (c : Core) (n : Nat) (v : Mask) : (c.xmPut n v).pigeon = c.pigeon := by unfold Core.xmPut; split <;> rfl
@[simp] theorem Core.xmPut_pigeonOvf (c : Core) (n : Nat) (v : Mask) : (c.xmPut n v).pigeonOvf = c.pigeonOvf := by unfold Core.xmPut; split <;> rfl
@[simp] theorem Core.xmPut_wb (c : Core) (n : Nat) (v : Mask) : (c.xmPut n v).wb = c.wb := by unfold Core.xmPut; split <;> rfl
@[simp] theorem Core.xmPut_ab (c : Core) (n : Nat) (v : Mask) : (c.xmPut n v).ab = c.ab := by unfold Core.xmPut; split <;> rfl
@[simp] theorem Core.xmPut_cb (c : Core) (n : Nat) (v : Mask) : (c.xmPut n v).cb = c.cb := by unfold Core.xmPut; split <;> rfl
@[simp] theorem Core.xmPut_grants (c : Core) (n : Nat) (v : Mask) : (c.xmPut n v).grants = c.grants := by unfold Core.xmPut; split <;> rfl
@[simp] theorem Core.xmPut_cmds (c : Core) (n : Nat) (v : Mask) : (c.xmPut n v).cmds = c.cmds := by unfold Core.xmPut; split <;> rfl
@[simp] theorem Core.xmPut_courier (c : Core) (n : Nat) (v : Mask) : (c.xmPut n v).courier = c.courier := by unfold Core.xmPut; split <;> rfl
@[simp] theorem Core.xmPut_claims (c : Core) (n : Nat) (v : Mask) : (c.xmPut n v).claims = c.claims := by unfold Core.xmPut; split <;> rfl
@[simp] theorem Core.xmPut_half (c : Core) (n : Nat) (v : Mask) : (c.xmPut n v).half = c.half := by unfold Core.xmPut; split <;> rfl
@[simp] theorem Core.xmPut_capture (c : Core) (n : Nat) (v : Mask) : (c.xmPut n v).capture = c.capture := by unfold Core.xmPut; split <;> rfl
@[simp] theorem Core.xmPut_cmdLog (c : Core) (n : Nat) (v : Mask) : (c.xmPut n v).cmdLog = c.cmdLog := by unfold Core.xmPut; split <;> rfl
@[simp] theorem Core.xmPut_phaseLog (c : Core) (n : Nat) (v : Mask) : (c.xmPut n v).phaseLog = c.phaseLog := by unfold Core.xmPut; split <;> rfl
@[simp] theorem Core.xmPut_logOver (c : Core) (n : Nat) (v : Mask) : (c.xmPut n v).logOver = c.logOver := by unfold Core.xmPut; split <;> rfl
@[simp] theorem Core.xmPut_phaseErrs (c : Core) (n : Nat) (v : Mask) : (c.xmPut n v).phaseErrs = c.phaseErrs := by unfold Core.xmPut; split <;> rfl
@[simp] theorem Core.xmPut_phaseChk (c : Core) (n : Nat) (v : Mask) : (c.xmPut n v).phaseChk = c.phaseChk := by unfold Core.xmPut; split <;> rfl
@[simp] theorem Core.xmPut_restart (c : Core) (n : Nat) (v : Mask) : (c.xmPut n v).restart = c.restart := by unfold Core.xmPut; split <;> rfl
@[simp] theorem Core.xmPut_pageReqs (c : Core) (n : Nat) (v : Mask) : (c.xmPut n v).pageReqs = c.pageReqs := by unfold Core.xmPut; split <;> rfl
@[simp] theorem Core.xmPut_tlb (c : Core) (n : Nat) (v : Mask) : (c.xmPut n v).tlb = c.tlb := by unfold Core.xmPut; split <;> rfl
@[simp] theorem Core.xmPut_hotBytes (c : Core) (n : Nat) (v : Mask) : (c.xmPut n v).hotBytes = c.hotBytes := by unfold Core.xmPut; split <;> rfl
@[simp] theorem Core.xmPut_hotStall (c : Core) (n : Nat) (v : Mask) : (c.xmPut n v).hotStall = c.hotStall := by unfold Core.xmPut; split <;> rfl
@[simp] theorem Core.xmPut_traps (c : Core) (n : Nat) (v : Mask) : (c.xmPut n v).traps = c.traps := by unfold Core.xmPut; split <;> rfl
@[simp] theorem Core.xmPut_inject (c : Core) (n : Nat) (v : Mask) : (c.xmPut n v).inject = c.inject := by unfold Core.xmPut; split <;> rfl
@[simp] theorem Core.xmPut_soon (c : Core) (n : Nat) (v : Mask) : (c.xmPut n v).soon = c.soon := by unfold Core.xmPut; split <;> rfl
@[simp] theorem Core.xmPut_discardAt (c : Core) (n : Nat) (v : Mask) : (c.xmPut n v).discardAt = c.discardAt := by unfold Core.xmPut; split <;> rfl

/-! ## What the updates write -/

@[simp] theorem dieOf_putDie_same (s : State) (d : Nat) (x : Die) : dieOf (putDie s d x) d = x := by simp [dieOf, putDie]

theorem dieOf_putDie_other (s : State) (d e : Nat) (x : Die) (h : e ≠ d) : dieOf (putDie s d x) e = dieOf s e := by
  simp [dieOf, putDie, tget_tput_other _ _ _ _ _ h]

@[simp] theorem dieOf_onDie_same (s : State) (d : Nat) (f : Die → Die) : dieOf (onDie s d f) d = f (dieOf s d) := by simp [onDie]

theorem dieOf_onDie_other (s : State) (d e : Nat) (f : Die → Die) (h : e ≠ d) : dieOf (onDie s d f) e = dieOf s e :=
  dieOf_putDie_other s d e _ h

@[simp] theorem ctlOf_onCtl_same (s : State) (d : Nat) (f : Ctl → Ctl) : ctlOf (onCtl s d f) d = f (ctlOf s d) := by
  simp [ctlOf, onCtl]

theorem ctlOf_onCtl_other (s : State) (d e : Nat) (f : Ctl → Ctl) (h : e ≠ d) : ctlOf (onCtl s d f) e = ctlOf s e := by
  simp [ctlOf, onCtl, dieOf_onDie_other s d e _ h]

@[simp] theorem coreOf_putCore_same (s : State) (d c : Nat) (x : Core) : coreOf (putCore s d c x) d c = x := by simp [coreOf, putCore]

theorem coreOf_putCore_other (s : State) (d c e k : Nat) (x : Core) (h : coreKey e k ≠ coreKey d c) :
    coreOf (putCore s d c x) e k = coreOf s e k := by
  simp [coreOf, putCore, tget_tput_other _ _ _ _ _ h]

@[simp] theorem coreOf_onCore_same (s : State) (d c : Nat) (f : Core → Core) : coreOf (onCore s d c f) d c = f (coreOf s d c) := by
  simp [onCore]

theorem coreOf_onCore_other (s : State) (d c e k : Nat) (f : Core → Core) (h : coreKey e k ≠ coreKey d c) :
    coreOf (onCore s d c f) e k = coreOf s e k := coreOf_putCore_other s d c e k _ h

@[simp] theorem State.core_onCore (s : State) (f : Core → Core) : (s.onCore f).core = f s.core := by
  simp [State.core, State.onCore]

@[simp] theorem dieOf_onCore (s : State) (d c e : Nat) (f : Core → Core) : dieOf (onCore s d c f) e = dieOf s e := rfl

@[simp] theorem coreOf_onDie (s : State) (d e k : Nat) (f : Die → Die) : coreOf (onDie s d f) e k = coreOf s e k := rfl

@[simp] theorem coreOf_onCtl (s : State) (d e k : Nat) (f : Ctl → Ctl) : coreOf (onCtl s d f) e k = coreOf s e k := rfl

@[simp] theorem spaceOf_onSpace_same (s : State) (a : Nat) (f : Space → Space) : spaceOf (onSpace s a f) a = f (spaceOf s a) := by
  simp [spaceOf, onSpace]

@[simp] theorem dieOf_at' (s : State) (due : Nat) (i : Instr) (d : Nat) : dieOf (at' s due i) d = dieOf s d := by simp [dieOf]

@[simp] theorem coreOf_at' (s : State) (due : Nat) (i : Instr) (d c : Nat) : coreOf (at' s due i) d c = coreOf s d c := by simp [coreOf]

@[simp] theorem ctlOf_at' (s : State) (due : Nat) (i : Instr) (d : Nat) : ctlOf (at' s due i) d = ctlOf s d := by simp [ctlOf]

/-! ## Registers -/

@[simp] theorem RegSet.get_zero (r : RegSet) : r.get 0 = 0 := by simp [RegSet.get]

theorem RegSet.get_put_same (r : RegSet) (n : Nat) (v : Word) (h : n ≠ 0) : (r.put n v).get n = v := by
  unfold RegSet.get RegSet.put
  by_cases h2 : n < 32 <;> simp [h, h2]

theorem RegSet.get_put_other (r : RegSet) (n m : Nat) (v : Word) (h : m ≠ n) : (r.put n v).get m = r.get m := by
  unfold RegSet.get RegSet.put
  by_cases h0 : n = 0
  · simp [h0]
  · by_cases h2 : n < 32 <;> by_cases h3 : m = 0 <;> by_cases h4 : m < 32 <;>
      simp [h0, h2, h3, h4] <;> exact tget_tset_other _ _ _ _ _ (by omega)

theorem Core.aGet_aPut_same (c : Core) (n : Nat) (v : Word) (h : n ≠ 0) (h2 : n ≠ 64) : (c.aPut n v).aGet n = v := by
  unfold Core.aGet Core.aPut
  by_cases h3 : n < 64 <;> simp [h, h2, h3]

theorem Core.aGet_aPut_other (c : Core) (n m : Nat) (v : Word) (h : m ≠ n) : (c.aPut n v).aGet m = c.aGet m := by
  unfold Core.aGet Core.aPut
  by_cases h0 : n = 0 ∨ n = 64
  · simp [h0]
  · by_cases h3 : n < 64 <;> by_cases h4 : m = 0 <;> by_cases h5 : m < 64 <;> by_cases h6 : m = 64 <;>
      simp [h0, h3, h4, h5, h6] <;> exact tget_tset_other _ _ _ _ _ (by omega)

@[simp] theorem predGet_zero (p : BitVec 8) : predGet p 0 = true := rfl

@[simp] theorem predPut_zero (p : BitVec 8) (b : Bool) : predPut p 0 b = p := rfl

end Sys2Proof.Machine
end

