-- ==== Sys2Proof/Tests/Slice0.lean ====
section
/-! SUPPORT. Tests. Words written out from the opcode map decode to what they stand for, ill-formed terms are refused, single steps on small states
give what the manual's rules give, and for every statement that has hypotheses a named theorem shows states that meet them, clause by clause. -/

namespace Sys2Proof.Tests

open Sys2Proof Sys2Proof.Machine Sys2Proof.Statements

set_option maxRecDepth 100000
set_option Elab.async false

/-! ## Decoding (R28, R53 to R64) -/

/-- Words of control core (R56 to R62), written from the opcode map: ENG, S, MAJOR, MINOR, N, PRED and the fields of the format. -/
theorem test_decode_control_core :
    decodeTableWord 64 0xF002001808118000 = some (.ccSub ⟨true, false, 0⟩ ⟨3, 4, 35, 0, 0, 0⟩) ∧
    decodeTableWord 64 0xF02400F8020100E0 = some (.ccSel ⟨true, false, 0⟩ ⟨31, 1, 2, 7, 0, 0⟩) ∧
    decodeTableWord 64 0xF081A01809FFFFFF = some (.ccAddi ⟨true, true, 5⟩ ⟨3, 4, 33554431⟩) ∧
    decodeTableWord 64 0xF08800180800003F = some (.ccShli ⟨true, false, 0⟩ ⟨3, 4, 63⟩) ∧
    decodeTableWord 64 0xF10A003802010000 = some (.ccCmpLeu ⟨true, false, 0⟩ ⟨7, 1, 2, 0, 0, 0⟩) ∧
    decodeTableWord 64 0xF11000103F000000 = some (.ccCmpiLt ⟨true, false, 0⟩ ⟨2, 31, 16777216⟩) ∧
    decodeTableWord 64 0xF11E00080C000000 = some (.ccPnot ⟨true, false, 0⟩ ⟨1, 6, 0, 0, 0, 0⟩) ∧
    decodeTableWord 64 0xF180400001FFFFFD = some (.ccBr ⟨true, false, 2⟩ ⟨0, 0, 33554429⟩) ∧
    decodeTableWord 64 0xF188004800000000 = some (.ccCallr ⟨true, false, 0⟩ ⟨9, 0, 0⟩) ∧
    decodeTableWord 64 0xF20200280C03CFFF = some (.ccLds ⟨true, false, 0⟩ ⟨5, 6, 7, 2, 0, 4095⟩) ∧
    decodeTableWord 64 0xF20800280C0067FF = some (.ccStl ⟨true, false, 0⟩ ⟨5, 6, 0, 3, 0, 2047⟩) ∧
    decodeTableWord 64 0xF29200280C03E000 = some (.ccAmoCas ⟨true, false, 0⟩ ⟨5, 6, 7, 3, 0, 0⟩) ∧
    decodeTableWord 64 0xF304000000000000 = some (.ccFenceDev ⟨true, false, 0⟩ ⟨0, 0, 0⟩) ∧
    decodeTableWord 64 0xF38400281000041F = some (.postG ⟨true, false, 0⟩ ⟨5, 8, 1055⟩) ∧
    decodeTableWord 64 0xF38A0038100FFFFF = some (.twait ⟨true, false, 0⟩ ⟨7, 8, 1048575⟩) ∧
    decodeTableWord 64 0xF38C000010000002 = some (.wincfgPriorityCeiling ⟨true, false, 0⟩ ⟨0, 8, 2⟩) ∧
    decodeTableWord 64 0xF38E002810000006 = some (.winqTaskState ⟨true, false, 0⟩ ⟨5, 8, 6⟩) ∧
    decodeTableWord 64 0xF408002810000001 = some (.vqueryAvailable ⟨true, false, 0⟩ ⟨5, 8, 1⟩) ∧
    decodeTableWord 64 0xF4820FFFFFFE0000 = some (.ccWaitAll ⟨true, false, 0⟩ ⟨3, 1, 15, 1048575, 0⟩) ∧
    decodeTableWord 64 0xF50000000000004D = some (.trap ⟨true, false, 0⟩ ⟨0, 0, 77⟩) ∧
    decodeTableWord 64 0xF504002800000016 = some (.sysrChkcnt ⟨true, false, 0⟩ ⟨5, 0, 22⟩) ∧
    decodeTableWord 64 0xF50600000A000015 = some (.syswVlim ⟨true, false, 0⟩ ⟨0, 5, 21⟩) ∧
    decodeTableWord 64 0xF50A000000000000 = some (.nop ⟨true, false, 0⟩ ⟨0, 0, 0⟩) := by
  decide +kernel

/-- Words of access processor (R56 to R62), written from the opcode map: ENG, S, MAJOR, MINOR, N, PRED and the fields of the format. -/
theorem test_decode_access_processor :
    decodeTableWord 64 0x001001F8802200A0 = some (.apMadd ⟨false, false, 0⟩ ⟨63, 64, 68, 5, 0, 0⟩) ∧
    decodeTableWord 64 0x108C002800FFFFFF = some (.apLui ⟨true, false, 0⟩ ⟨5, 0, 16777215⟩) ∧
    decodeTableWord 64 0x1104002002010000 = some (.apCmpLt ⟨true, false, 0⟩ ⟨4, 1, 2, 0, 0, 0⟩) ∧
    decodeTableWord 64 0x111C00200A000000 = some (.apPnot ⟨true, false, 0⟩ ⟨4, 5, 0, 0, 0, 0⟩) ∧
    decodeTableWord 64 0x1185200000000009 = some (.brq ⟨true, true, 1⟩ ⟨0, 0, 9⟩) ∧
    decodeTableWord 64 0x120000380A006800 = some (.ldq ⟨true, false, 0⟩ ⟨7, 5, 0, 3, 0, 2048⟩) ∧
    decodeTableWord 64 0x120800480A035001 = some (.apLdsV ⟨true, false, 0⟩ ⟨9, 5, 6, 2, 1, 1⟩) ∧
    decodeTableWord 64 0x128400180A032000 = some (.stqM ⟨true, false, 0⟩ ⟨3, 5, 6, 1, 0, 0⟩) ∧
    decodeTableWord 64 0x1300002006000006 = some (.mtest ⟨true, false, 0⟩ ⟨4, 3, 6⟩) ∧
    decodeTableWord 64 0x139400280C03C000 = some (.fadd ⟨true, false, 0⟩ ⟨5, 6, 7, 2, 0, 0⟩) ∧
    decodeTableWord 64 0x140200280C038003 = some (.apStl ⟨true, false, 0⟩ ⟨5, 6, 7, 0, 0, 3⟩) ∧
    decodeTableWord 64 0x1408000000000000 = some (.apFenceDev ⟨true, false, 0⟩ ⟨0, 0, 0⟩) ∧
    decodeTableWord 64 0x148400000C03E000 = some (.bararr ⟨true, false, 0⟩ ⟨0, 6, 7, 3, 0, 0⟩) ∧
    decodeTableWord 64 0x150200280C000000 = some (.unseal ⟨true, false, 0⟩ ⟨5, 6, 0⟩) ∧
    decodeTableWord 64 0x1580142000000000 = some (.apWaitAny ⟨true, false, 0⟩ ⟨5, 0, 1, 0, 0⟩) ∧
    decodeTableWord 64 0x1584002800000007 = some (.wprd ⟨true, false, 0⟩ ⟨5, 0, 7⟩) ∧
    decodeTableWord 64 0x160200280000003F = some (.tktest ⟨true, false, 0⟩ ⟨5, 0, 63⟩) := by
  decide +kernel

/-- Words of engine commands (R56 to R62), written from the opcode map: ENG, S, MAJOR, MINOR, N, PRED and the fields of the format. -/
theorem test_decode_engine_commands :
    decodeTableWord 64 0x90040084189FE1D7 = some (.ecFill ⟨true, false, 0⟩ ⟨1, 2, 3, 4, 255, 58, 7⟩) ∧
    decodeTableWord 64 0x90820080000000F1 = some (.scatter ⟨true, false, 0⟩ ⟨1, 0, 0, 0, 0, 30, 1⟩) ∧
    decodeTableWord 64 0x91000000001FE0F2 = some (.cstream ⟨true, false, 0⟩ ⟨0, 0, 0, 0, 255, 30, 2⟩) ∧
    decodeTableWord 64 0x91820080000000F0 = some (.rcsnap ⟨true, false, 0⟩ ⟨1, 0, 0, 0, 0, 30, 0⟩) ∧
    decodeTableWord 64 0x92000080000001EB = some (.courier ⟨true, false, 0⟩ ⟨1, 0, 0, 0, 0, 61, 3⟩) ∧
    decodeTableWord 64 0x92800002000000F0 = some (.spawn ⟨true, false, 0⟩ ⟨0, 1, 0, 0, 0, 30, 0⟩) ∧
    decodeTableWord 64 0x93060480000000F7 = some (.mcast ⟨true, false, 0⟩ ⟨9, 0, 0, 0, 0, 30, 7⟩) := by
  decide +kernel

/-- Words of execute processor (R56 to R62), written from the opcode map: ENG, S, MAJOR, MINOR, N, PRED and the fields of the format. -/
theorem test_decode_execute_processor :
    decodeTableWord 64 0x3010102C1E1F80EC = some (.xpSel ⟨true, false, 0⟩ ⟨517, 527, 63, 7, 3, 0⟩) ∧
    decodeTableWord 64 0x3082002801FFFFFB = some (.xpMovi ⟨true, false, 0⟩ ⟨5, 0, 33554427⟩) ∧
    decodeTableWord 64 0x310600380300000C = some (.xpCmpLe ⟨true, false, 0⟩ ⟨7, 1, 512, 0, 3, 0⟩) ∧
    decodeTableWord 64 0x3184000001FFFFFF = some (.brb ⟨true, false, 0⟩ ⟨0, 0, 33554431⟩) ∧
    decodeTableWord 64 0x3200000804018008 = some (.vadd ⟨true, false, 0⟩ ⟨1, 2, 3, 0, 2, 0⟩) ∧
    decodeTableWord 64 0x3286000804018084 = some (.vfshl ⟨true, false, 0⟩ ⟨1, 2, 3, 4, 1, 0⟩) ∧
    decodeTableWord 64 0x3300003BFF00001C = some (.vcmpEq ⟨true, false, 0⟩ ⟨7, 511, 512, 0, 7, 0⟩) ∧
    decodeTableWord 64 0x331400280E00000C = some (.mpopc ⟨true, false, 0⟩ ⟨5, 7, 0, 0, 3, 0⟩) ∧
    decodeTableWord 64 0x3386006006020198 = some (.vfma ⟨true, false, 0⟩ ⟨12, 3, 4, 12, 6, 0⟩) ∧
    decodeTableWord 64 0x340A006006020018 = some (.vfdiv ⟨true, false, 0⟩ ⟨12, 3, 4, 0, 6, 0⟩) ∧
    decodeTableWord 64 0x34800060060008F9 = some (.vcvt ⟨true, false, 0⟩ ⟨12, 3, 0, 71, 6, 1⟩) ∧
    decodeTableWord 64 0x348A006006000100 = some (.vunplane ⟨true, false, 0⟩ ⟨12, 3, 0, 8, 0, 0⟩) ∧
    decodeTableWord 64 0x350C00600600065B = some (.vgsum ⟨true, false, 0⟩ ⟨12, 3, 0, 50, 6, 3⟩) ∧
    decodeTableWord 64 0x35840060060207F8 = some (.vslide ⟨true, false, 0⟩ ⟨12, 3, 4, 63, 6, 0⟩) ∧
    decodeTableWord 64 0x358A006001FFFFFF = some (.vmovi ⟨true, false, 0⟩ ⟨12, 0, 33554431⟩) := by
  decide +kernel

/-- Words of queues and loops (R56 to R62), written from the opcode map: ENG, S, MAJOR, MINOR, N, PRED and the fields of the format. -/
theorem test_decode_queues_and_loops :
    decodeTableWord 64 0x7006001812038000 = some (.qpushm ⟨true, false, 0⟩ ⟨3, 9, 7, 0, 0, 0⟩) ∧
    decodeTableWord 64 0x708000480E008FFF = some (.vldb ⟨true, false, 0⟩ ⟨9, 7, 1, 0, 0, 4095⟩) ∧
    decodeTableWord 64 0x710000000000FFFF = some (.loop ⟨true, false, 0⟩ ⟨0, 65535⟩) ∧
    decodeTableWord 64 0x7106003801FFFFFC = some (.oadd ⟨true, false, 0⟩ ⟨7, 0, 33554428⟩) ∧
    decodeTableWord 64 0x718400480E000098 = some (.deftake ⟨true, false, 0⟩ ⟨9, 7, 0, 4, 6, 0⟩) ∧
    decodeTableWord 64 0x720200841880A1D8 = some (.xposeP ⟨true, false, 0⟩ ⟨1, 2, 3, 4, 5, 59, 0⟩) ∧
    decodeTableWord 64 0x72820080000001E0 = some (.xpFill ⟨true, false, 0⟩ ⟨1, 0, 0, 0, 0, 60, 0⟩) ∧
    decodeTableWord 64 0x7300001C02000000 = some (.view ⟨true, false, 0⟩ ⟨3, 513, 0⟩) ∧
    decodeTableWord 64 0x73820640000A0000 = some (.xpWaitAll ⟨true, false, 0⟩ ⟨1, 1, 2, 5, 0⟩) := by
  decide +kernel

/-- Words of trellis (R56 to R62), written from the opcode map: ENG, S, MAJOR, MINOR, N, PRED and the fields of the format. -/
theorem test_decode_trellis :
    decodeTableWord 64 0x50040000000001FB = some (.tpri ⟨true, false, 0⟩ ⟨0, 0, 0, 0, 0, 63, 3⟩) ∧
    decodeTableWord 64 0x50820080000001E3 = some (.wloadp ⟨true, false, 0⟩ ⟨1, 0, 0, 0, 0, 60, 3⟩) ∧
    decodeTableWord 64 0x51040084000001E0 = some (.mvstream ⟨true, false, 0⟩ ⟨1, 2, 0, 0, 0, 60, 0⟩) ∧
    decodeTableWord 64 0x5182008000000003 = some (.tdrain ⟨true, false, 0⟩ ⟨1, 0, 0, 0, 0, 0, 3⟩) ∧
    decodeTableWord 64 0x5200002800000001 = some (.tacs ⟨true, false, 0⟩ ⟨5, 0, 1⟩) ∧
    decodeTableWord 64 0x5202002800000007 = some (.tchkClr ⟨true, false, 0⟩ ⟨5, 0, 7⟩) := by
  decide +kernel

/-- Words of joint (R56 to R62), written from the opcode map: ENG, S, MAJOR, MINOR, N, PRED and the fields of the format. -/
theorem test_decode_joint :
    decodeTableWord 64 0xB000000000000000 = some (.swap ⟨true, false, 0⟩ ⟨0, 0, 0⟩) ∧
    decodeTableWord 64 0xB080000000001000 = some (.slip ⟨true, false, 0⟩ ⟨0, 0, 4096⟩) ∧
    decodeTableWord 64 0xB08200000000FFFF = some (.mark ⟨true, false, 0⟩ ⟨0, 0, 65535⟩) := by
  decide +kernel

/-- The words that the manual's own text gives, with the chapter of each. -/
theorem test_decode_words_of_the_manual :
    -- 02: x.vfma.f32 v12, v3, v4, v12
    decodeTableWord 64 0x3386006006020198 = some (.vfma ⟨true, false, 0⟩ ⟨12, 3, 4, 12, 6, 0⟩) ∧
    -- 03: x.vadd.i32 v1, v2, v3
    decodeTableWord 64 0x3200000804018008 = some (.vadd ⟨true, false, 0⟩ ⟨1, 2, 3, 0, 2, 0⟩) ∧
    -- 05: post c5, c8, c9
    decodeTableWord 64 0xF380002810000009 = some (.post ⟨true, false, 0⟩ ⟨5, 8, 9⟩) ∧
    -- 06: a8 on channel 2, k5 wait k3, k4
    decodeTableWord 64 0x90000286200A6042 = some (.ecCopy ⟨true, false, 0⟩ ⟨5, 3, 4, 0, 83, 8, 2⟩) ∧
    -- 07: x.vldb.d v8, o1, ab, 0
    decodeTableWord 64 0x6080004002016000 = some (.vldb ⟨false, false, 0⟩ ⟨8, 1, 2, 3, 0, 0⟩) ∧
    -- 08: t.mstream cl1, s14, k7 wait k3 bound 96
    decodeTableWord 64 0x5100038600050071 = some (.mstream ⟨true, false, 0⟩ ⟨7, 3, 0, 0, 0x28, 14, 1⟩) ∧
    -- 08: t.tacs s5, cl1
    decodeTableWord 64 0x5200002800000001 = some (.tacs ⟨true, false, 0⟩ ⟨5, 0, 1⟩) ∧
    -- 08: j.swap
    decodeTableWord 64 0xB000000000000000 = some (.swap ⟨true, false, 0⟩ ⟨0, 0, 0⟩) ∧
    -- 08: j.commit
    decodeTableWord 64 0xB002000000000000 = some (.commit ⟨true, false, 0⟩ ⟨0, 0, 0⟩) ∧
    -- 08: j.halt
    decodeTableWord 64 0xB004000000000000 = some (.halt ⟨true, false, 0⟩ ⟨0, 0, 0⟩) ∧
    -- 20: the SLIP word
    decodeTableWord 64 0xB080000000000008 = some (.slip ⟨true, false, 0⟩ ⟨0, 0, 8⟩) ∧
    -- 08: j.mark N
    decodeTableWord 64 0xB08200000000000B = some (.mark ⟨true, false, 0⟩ ⟨0, 0, 11⟩) ∧
    -- 09: the COPY of step
    decodeTableWord 64 0x90000080001FE040 = some (.ecCopy ⟨true, false, 0⟩ ⟨1, 0, 0, 0, 0xFF, 8, 0⟩) ∧
    -- 12: TY 100, RM 10, C 0x00E
    decodeTableWord 64 0x34800010020001D2 = some (.vcvt ⟨true, false, 0⟩ ⟨2, 1, 0, 0x00E, 4, 2⟩) ∧
    -- 15: the join
    decodeTableWord 64 0x5100000C001FE1C1 = some (.mstream ⟨true, false, 0⟩ ⟨0, 6, 0, 0, 0xFF, 0x38, 1⟩) ∧
    -- 17: EC ROUTE
    decodeTableWord 64 0x91800080001FE040 = some (.route ⟨true, false, 0⟩ ⟨1, 0, 0, 0, 0xFF, 8, 0⟩) ∧
    -- 18: (p1) e.rcsnap ch0, a22, k2 wait k1
    decodeTableWord 64 0x91822102001FE0B0 = some (.rcsnap ⟨true, false, 1⟩ ⟨2, 1, 0, 0, 0xFF, 22, 0⟩) ∧
    -- 19: the funnel word
    decodeTableWord 64 0x328600881A0805A8 = some (.vfshl ⟨true, false, 0⟩ ⟨17, 13, 16, 45, 2, 0⟩) ∧
    -- 19: the masked store
    decodeTableWord 64 0x1284000012000000 = some (.stqM ⟨true, false, 0⟩ ⟨0, 9, 0, 0, 0, 0⟩) ∧
    -- 20: the QPOP
    decodeTableWord 64 0x7000000802000000 = some (.qpop ⟨true, false, 0⟩ ⟨1, 1, 0, 0, 0, 0⟩) ∧
    -- 21: the MCAST
    decodeTableWord 64 0x93060080001FE040 = some (.mcast ⟨true, false, 0⟩ ⟨1, 0, 0, 0, 0xFF, 8, 0⟩) := by
  decide +kernel

/-- The word of chapter 03 with MAJOR 12 is not an instruction; nor is a MINOR beyond the last of its group, the reserved tag, or a control-core word
with S = 0 (R53, R55). -/
theorem test_decode_refuses :
    (match checkWord false 0x3600000804018008, checkWord false 0x0018000000000000, checkWord false 0xD000000000000000, checkWord true 0xE380002810000009 with
     | .error .illegalOp, .error .illegalOp, .error .illegalEng, .error .reservedField => true
     | _, _, _, _ => false) = true ∧
    decodeTableWord 64 0x3600000804018008 = none ∧ decodeTableWord 32 0x60000000 = none := by
  decide +kernel

/-- Courier words (R64): OPC, CHAN and OPERAND. -/
theorem test_decode_courier :
    decodeTableWord 32 0x07000005 = some (.cwCopy 7 5) ∧ decodeTableWord 32 0x12000003 = some (.cwWait 2 3) ∧
    decodeTableWord 32 0x2000004D = some (.cwFlag 77) ∧ decodeTableWord 32 0x30FFF002 = some (.cwLoop 0xFFF 2) ∧
    decodeTableWord 32 0x40FFFFFE = some (.cwAdd 0xFFFFFE) ∧ decodeTableWord 32 0x50000000 = some .cwEnd ∧
    decodeTableWord 32 0x08000005 = none ∧ decodeTableWord 32 0x50000001 = none := by
  decide +kernel

/-! ## States -/

/-- A header without a predicate. -/
def hd : Hdr := ⟨true, false, 0⟩

/-- The entry of a 2 MiB page of the table: its attribute bits and its frame. -/
def pageWord (bits frame : Nat) : List Word := [BitVec.ofNat 64 (2 ^ 63 + 2 ^ 62 + 2 ^ 44 + bits + frame / 4096), 0]

/-- A table that is its own next level: page k lies at k · 0x200000. Page 1 may be read, 2 read and written, 3 is UN, 4 is not resident, 5 is
the host's, 6 another device's, 7 sealed, 8 in format 11, 9 vintaged, 10 SO, 12 a launch's store; each frame lies at
twice its address. Page 11 is divided into pages of 4 KiB. -/
def pageTable : List Word :=
  [BitVec.ofNat 64 (2 ^ 63 + 1), 0] ++
  pageWord (2 ^ 61 + 2 ^ 53) 0x400000 ++ pageWord (2 ^ 61 + 2 ^ 58 + 2 ^ 53) 0x800000 ++ pageWord (2 ^ 61 + 2 ^ 58 + 2 ^ 54) 0xC00000 ++
  pageWord (2 ^ 58 + 2 ^ 53) 0 ++ pageWord (2 ^ 59 + 2 ^ 53) 0 ++ pageWord (2 ^ 61 + 2 ^ 60 + 2 ^ 53) 0 ++
  pageWord (2 ^ 61 + 2 ^ 58 + 2 ^ 57 + 2 ^ 53) 0x1C00000 ++
  [BitVec.ofNat 64 (2 ^ 63 + 2 ^ 62 + 2 ^ 44 + 2 ^ 61 + 2 ^ 58 + 2 ^ 53 + 11 * 2 ^ 49 + 2 ^ 42 + 0x2000000 / 4096), BitVec.ofNat 64 0x3000000] ++
  pageWord (2 ^ 61 + 2 ^ 58 + 2 ^ 56 + 2 ^ 53) 0x2400000 ++ pageWord (2 ^ 61 + 2 ^ 58) 0x2800000 ++ [BitVec.ofNat 64 (2 ^ 63 + 2), 0] ++
  pageWord (2 ^ 61 + 2 ^ 58 + 2 ^ 53) 0x3400000

/-- The table of the pages of 4 KiB: the first two lie in the pool of die 0, the second of them vintaged. -/
def poolTable : List Word :=
  [BitVec.ofNat 64 (2 ^ 63 + 2 ^ 62 + 2 ^ 61 + 2 ^ 58 + 2 ^ 53 + 0x010000000000 / 4096), 0,
   BitVec.ofNat 64 (2 ^ 63 + 2 ^ 62 + 2 ^ 61 + 2 ^ 58 + 2 ^ 56 + 2 ^ 53 + 0x010000001000 / 4096), 0]

/-- A device that runs in cycle 1,000, with the pages of the table in address space 0. -/
def running : State :=
  { State.reset with
    cycle := 1000, epoch := 1, timers := [], boot := { Boot.reset with until_ := 0, step := .running },
    mem := writeBytes (writeBytes [] 0x1000 (wordsBytes pageTable)) 0x2000 (wordsBytes poolTable)
    spaces := [(0, { Space.reset with root := 0x1000 })], board := { Board.reset with wire := 2 } }

/-! ## Ill-formed terms (R53, steps 2, 5 and 6) -/

/-- For each check of a word's fields a term that fails it. -/
noncomputable def illFormed : List Instr :=
  [.ccAdd ⟨false, false, 0⟩ ⟨0, 0, 0, 0, 0, 0⟩, .ccAdd hd ⟨36, 0, 0, 0, 0, 0⟩, .ccLd hd ⟨32, 0, 0, 0, 0, 0⟩, .ccAdd hd ⟨0, 0, 0, 1, 0, 0⟩,
   .ccAdd hd ⟨0, 0, 0, 0, 1, 0⟩, .ccAdd hd ⟨0, 0, 0, 0, 0, 1⟩, .ccSel hd ⟨0, 0, 0, 8, 0, 0⟩, .ccShli hd ⟨0, 0, 64⟩,
   .ccLui hd ⟨0, 1, 0⟩, .ccJmp ⟨true, true, 0⟩ ⟨0, 0, 1⟩, .ccJmp ⟨true, false, 1⟩ ⟨0, 0, 1⟩, .ccBr hd ⟨0, 1, 1⟩, .ccRet hd ⟨0, 0, 1⟩,
   .ccLd hd ⟨0, 0, 0, 0, 1, 0⟩, .ccAmoAdd hd ⟨0, 0, 0, 1, 0, 0⟩, .ccAmoAdd hd ⟨0, 0, 0, 3, 0, 1⟩, .ccFenceDev hd ⟨0, 0, 1⟩,
   .post hd ⟨0, 0, 32⟩, .postG hd ⟨0, 0, 3 * 512⟩, .twait hd ⟨0, 0, 0x100000⟩, .ccWaitAny hd ⟨0, 0, 0, 0, 0⟩,
   .ccWaitAny hd ⟨0, 1, 1, 0, 0⟩, .ccWaitAll hd ⟨0, 1, 1, 0, 1⟩, .sysr hd ⟨0, 0, 6⟩, .sysw hd ⟨0, 0, 0x21⟩, .eret hd ⟨1, 0, 0⟩,
   .apAdd hd ⟨64, 0, 0, 0, 0, 0⟩, .apAdd hd ⟨0, 69, 0, 0, 0, 0⟩, .apLds hd ⟨64, 0, 0, 0, 0, 0⟩, .ldq hd ⟨8, 0, 0, 0, 0, 0⟩, .stqM hd ⟨4, 0, 0, 0, 0, 0⟩,
   .ldqV hd ⟨0, 0, 0, 0, 0, 0⟩, .bararr hd ⟨0, 0, 0, 2, 0, 0⟩, .seal hd ⟨0, 0, 1⟩, .tkclr hd ⟨0, 0, 64⟩, .wprd hd ⟨0, 0, 8⟩,
   .ecCopy hd ⟨0, 0, 0, 0, 0, 60, 0⟩, .route hd ⟨0, 0, 0, 0, 0, 0, 1⟩, .spawn hd ⟨1, 0, 0, 0, 0, 0, 0⟩, .cwCopy 8 0,
   .xpAdd hd ⟨64, 0, 0, 0, 3, 0⟩, .xpAdd hd ⟨0, 528, 0, 0, 3, 0⟩, .xpAdd hd ⟨0, 0, 0, 0, 2, 0⟩, .vadd hd ⟨0, 0, 0, 0, 4, 0⟩,
   .vadd hd ⟨0, 0, 0, 0, 0, 3⟩, .vfadd hd ⟨0, 0, 0, 0, 3, 0⟩, .vfdiv hd ⟨0, 0, 0, 0, 7, 0⟩, .vcvt hd ⟨0, 0, 0, 8 * 4, 0, 0⟩, .vcvt hd ⟨0, 0, 0, 64, 6, 0⟩,
   .vunplane hd ⟨0, 0, 0, 9, 0, 0⟩, .vunplane hd ⟨0, 0, 0, 0, 0, 0⟩, .vgsum hd ⟨0, 0, 0, 8 * 7, 6, 0⟩, .vrsum hd ⟨0, 0, 0, 0, 0, 3⟩,
   .vslide hd ⟨0, 0, 0, 64, 6, 0⟩, .vcmpEq hd ⟨8, 0, 0, 0, 0, 0⟩, .vldb hd ⟨0, 8, 1, 0, 0, 0⟩, .vldb hd ⟨0, 0, 0, 0, 0, 0⟩, .vldb hd ⟨0, 0, 4 + 1, 0, 0, 0⟩,
   .vldb hd ⟨128, 0, 32 + 1, 0, 0, 0⟩, .vstb hd ⟨512 + 16, 0, 1, 0, 0, 0⟩, .loop hd ⟨0, 65536⟩, .loop ⟨true, false, 1⟩ ⟨0, 0⟩, .view hd ⟨4, 0, 0⟩,
   .claim hd ⟨0, 0, 0, 0, 0, 0, 4⟩, .claim hd ⟨1, 0, 0, 0, 0, 0, 0⟩, .teob hd ⟨0, 0, 0, 0, 0, 1, 0⟩, .tacs hd ⟨0, 0, 8⟩,
   .slip hd ⟨0, 0, 0⟩, .slip hd ⟨0, 0, 4097⟩, .mark hd ⟨0, 0, 65536⟩, .swap ⟨true, true, 0⟩ ⟨0, 0, 0⟩, .swap hd ⟨0, 0, 1⟩,
   .uftAck ⟨0, 0, 0, 0, 0, false, false, 2, 0, 0, 0, 0, 0, 0, [], 0, false⟩, .uftAck ⟨0, 0, 0, 0, 0, false, false, 1, 1, 0, 0, 0, 0, 0, [], 0, false⟩]

/-- Every one of them is refused. -/
theorem test_ill_formed_terms_are_refused : illFormed.all (fun i => !i.wf) = true := by
  decide +kernel

/-! ## States that the statements speak about -/

/-- A launch of address space 0 whose text has 4,096 bytes. -/
def theLaunch : Launch :=
  { number := 1, words := [], asid := 0, strict := false, replay := 0, image := 0x200000, textOff := 0, textSize := 4096, dataOff := 0,
    cellVa := 0x1800000, cellLen := 65536, timeout := 0, seed := 0, slots := 1, done := false }

/-- Registers of the control core: c1 to c7 address the pages that may be read, that may be written and that are not resident, an address that is
not aligned, a small number, all ones, and the last word of the text; w0 names a token, w1 a reserved condition. -/
def ccValues : RegSet :=
  { pc := 24, c := [(1, 0x200000), (2, 0x400000), (3, 0x800000), (4, 0x400001), (5, 5), (6, BitVec.allOnes 64), (7, 4088), (31, 4096)], p := 0x82,
    w := [(0, 0), (1, BitVec.ofNat 64 (2 ^ 60)), (2, BitVec.ofNat 64 (3 * 2 ^ 60 + 0x200000))] }

/-- Context 0 of die 0 at its word at offset 16. -/
def graph : State :=
  onCtl { running with launches := [theLaunch], focus := ⟨0, 0, 16⟩ } 0 (fun c =>
    { c with monitor := false, ctxs := [(0, { Ctx.free with state := .runnable, launch := 1, regs := ccValues }), (2, { Ctx.free with state := .runnable, launch := 1 })] })

/-- The monitor of die 0 at its word at offset 16, with context 0 below it. -/
def monitor : State := onCtl graph 0 (fun c => { c with monitor := true, mon := { c.mon with state := .runnable, wait := .none, regs := ccValues } })

/-- Fields of a memory word: D, A, B, the size and the offset. -/
def fm (d a b : BitVec 10) (sz : BitVec 2) (off : BitVec 12) : FM := ⟨d, a, b, sz, 0, off⟩

/-- Fields of a word of format F3. -/
def f3 (d a b c : BitVec 10) (ty : BitVec 3) (rm : BitVec 2) : F3 := ⟨d, a, b, c, ty, rm⟩

/-- CcLoadsComplete: misaligned. -/
theorem witness_CcLoadsComplete_misaligned :
    ccHolds hd graph = true ∧ (0x400001 + 0 + 0) % 8 ≠ 0 ∧ (ccGet graph 4).toNat = 0x400001 := by decide +kernel

/-- CcLoadsComplete: aligned, in a page that may be read. -/
theorem witness_CcLoadsComplete_aligned_in_a_page_that_may_be_read :
    ccHolds hd graph = true ∧ (ccGet graph 1).toNat + 8 = 0x200008 ∧ (ccPieces graph false false 0x200008 8).2.1 = none ∧
      (ccPieces graph false true 0x200008 8).2.1 = none := by decide +kernel

/-- CcWritesLeave: stores. -/
theorem witness_CcWritesLeave_stores :
    (ccPieces graph true false 0x400004 4).2.1 = none ∧ (ccPieces graph true true 0x400004 4).2.1 = none ∧
      (ccPieces graph true true 0x400004 4).1 ≠ [] := by decide +kernel

/-- CcWritesLeave: atomics. -/
theorem witness_CcWritesLeave_atomics :
    (ccGet graph 2).toNat % 4 = 0 ∧ (ccPieces graph true false 0x400000 4).2.1 = none ∧ (ccPieces graph true false 0x400000 4).1 ≠ [] := by decide +kernel

/-- CcPostsComplete: monitor. -/
theorem witness_CcPostsComplete_monitor :
    (ctlOf monitor 0).monitor = true ∧ ccHolds hd monitor = true ∧ (ccGet monitor 2).toNat % 64 = 0 := by decide +kernel

/-- CcPostsComplete: graph mode, no slot. -/
theorem witness_CcPostsComplete_graph_mode_no_slot :
    (ctlOf graph 0).monitor = false ∧ ccHolds hd graph = true ∧ (ccGet graph 2).toNat % 64 = 0 ∧
      (splitAccess 0 none (ccAsid graph) 0 { write := false, raw := true, ordered := false, hostTrap := true } 0x400000 (256 * 5) graph).2.1 = none := by decide +kernel

/-- CcPostsComplete: a slot. -/
theorem witness_CcPostsComplete_a_slot :
    ((ccRegs graph).get 3).toNat % 64 = 0 ∧ (5#25).toNat % 64 ≠ 0 := by decide +kernel

/-- Vintage 5 of address space 0 is LIVE and vintage 7 RETIRING. -/
def vintages : State := { graph with spaces := [(0, { Space.reset with root := 0x1000, vints := [(0, .live), (5, .live), (7, .retiring)] })] }

/-- A record whose first two regions are the pages that may be written and that is sealed. -/
def aRecord : List Word :=
  List.replicate 8 0 ++ [BitVec.ofNat 64 (15 * 2 ^ 58 + 3 * 2 ^ 56 + 0x400000), 64, 32768, 0, BitVec.ofNat 64 (15 * 2 ^ 58 + 3 * 2 ^ 56 + 0xE00000), 64, 32768, 0] ++
  List.replicate 16 0

/-- A task of the window of die 0 in a state. -/
def anEntry (n : Nat) (st : TaskState) : Entry :=
  { recd := aRecord, serial := n, state := st, pred := 0, edges := [], slot := 0, launch := 1, readyAt := 0, replays := 0, recount := false, gang := none,
    gangReady := none, shards := [], shadows := [], redirects := [], checkAt := 0, checked := false, commitWait := [], haltWait := [], trap := none,
    cause := .none, apc := 0, xpc := 0, mark := 0, status := 0, hot := 0, pending := none, children := [], everRan := false, copied := false,
    liveAt := [], hotBytes := [], hotStall := [], homeDue := 0, endedAt := 0 }

/-- The graph context with tasks in the window: 1 RUNNING, 2 RETIRED and kept, up to 5 posted. -/
def windowed : State :=
  onDie graph 0 (fun x => { x with entries := [anEntry 1 .running, anEntry 5 .ready], departed := [anEntry 2 .retired], nextSerial := 6, wlog2 := 3 })

/-- An outward action of context 0 of die 0, due now. -/
def anAct (a : OutAct) : Outward := { due := 1000, set := 0, act := a, snap := (ctlOf graph 0).snap 0, whole := true }

/-- The state with that action alone before the checker. -/
def acting (o : Outward) : State := onCtl graph 0 (fun c => { c with outward := [o], shadows := [(0, (ctlOf graph 0).snap 0)] })

/-- A record whose program is the handle of slot 65,536, its descriptor 128 bytes into the image, with three parameters. -/
def aProgram : List Word := [0, BitVec.ofNat 64 (128 * 2 ^ 32 + 65536), BitVec.ofNat 64 (2 ^ 36), 0, 0, 11, 12, 13] ++ List.replicate 24 0

/-- A post of one record at an address, whose records are still to be read: slot 65,536 of the handle table names an image, and a record that
is valid lies 1,024 bytes into the page that may be written. -/
def posting (va : Nat) : State :=
  { acting { anAct (.post (postReq graph 9 none) va 0 1) with whole := false } with
    mem := writeBytes (writeBytes (writeBytes (writeBytes running.mem 0x1FE0 (leBytes 8 (2 ^ 63 + 1))) 0x800000 (wordsBytes [0x200000, BitVec.ofNat 64 (2 ^ 32)]))
      0x400000 (wordsBytes [0, BitVec.ofNat 64 (4096 * 2 ^ 32 + 4096), BitVec.ofNat 64 (2 ^ 32 + 128)])) 0x800400 (wordsBytes aProgram) }

/-- A checkpoint in a step, which context 1 of die 0 has joined. -/
def aCkpt (step : Nat) : Ckpt := { step := step, ident := 9, joiners := [(0, 1, 5)], since := 900, slot := 0 }

/-- CcVintages: CANCEL, VALLOC in graph mode. -/
theorem witness_CcVintages_cancel_valloc_in_graph_mode :
    ccHolds hd vintages = true ∧ (ctlOf vintages 0).monitor = false := by decide +kernel

/-- CcVintages: VALLOC in monitor mode. -/
theorem witness_CcVintages_valloc_in_monitor_mode :
    ccHolds hd monitor = true ∧ (ctlOf monitor 0).monitor = true := by decide +kernel

/-- CcVintages: a LIVE vintage. -/
theorem witness_CcVintages_a_live_vintage :
    (ccGet vintages 5).toNat = 5 ∧ 1 ≤ (ccGet vintages 5).toNat ∧ (ccGet vintages 5).toNat ≤ 4095 ∧
      tget (spaceOf vintages (ccAsid vintages)).vints 5 .free = .live ∧ (0#25).toNat % 64 = 0 := by decide +kernel

/-- CcVintages: no LIVE vintage: 0, beyond 4,095, FREE. -/
theorem witness_CcVintages_no_live_vintage_0_beyond_4_095_free :
    (ccGet graph 0).toNat = 0 ∧ 4095 < (ccGet graph 6).toNat ∧ tget (spaceOf graph (ccAsid graph)).vints (ccGet graph 5).toNat .free ≠ .live := by decide +kernel

/-- WindowRegisters: WINCFG in monitor mode. -/
theorem witness_WindowRegisters_wincfg_in_monitor_mode :
    ccHolds hd monitor = true ∧ (ctlOf monitor 0).monitor = true ∧ (ccGet monitor 2).getLsbD 0 = false := by decide +kernel

/-- WindowRegisters: graph mode, priority ceiling and the others. -/
theorem witness_WindowRegisters_graph_mode_priority_ceiling_and_the_others :
    ccHolds hd graph = true ∧ (ctlOf graph 0).monitor = false := by decide +kernel

/-- WindowRegisters: no letterbox. -/
theorem witness_WindowRegisters_no_letterbox :
    (ctlOf monitor 0).monitor = true ∧ (ccGet monitor 5).getLsbD 0 = true ∧ (dieOf monitor 0).letterboxBit = false := by decide +kernel

/-- CcWaitsForTasksAndWords: TWAIT: never accepted. -/
theorem witness_CcWaitsForTasksAndWords_twait_never_accepted :
    ccHolds hd windowed = true ∧ serialCode (dieOf windowed 0) 0x400000 = 15 := by decide +kernel

/-- CcWaitsForTasksAndWords: TWAIT: final. -/
theorem witness_CcWaitsForTasksAndWords_twait_final :
    serialCode (dieOf (windowed) 0) 2 = 7 := by decide +kernel

/-- CcWaitsForTasksAndWords: TWAIT: live, without and with a deadline. -/
theorem witness_CcWaitsForTasksAndWords_twait_live_without_and_with_a_deadline :
    serialCode (dieOf windowed 0) (ccGet windowed 5).toNat < 7 := by decide +kernel

/-- CcWaitsForTasksAndWords: TWAIT_TIMEOUT. -/
theorem witness_CcWaitsForTasksAndWords_twait_timeout :
    (let s := onCtl windowed 0 (fun c => c.onCtx 0 (fun x => { x with wait := .serial 5 3 (some 1000) }));
       ((ctlOf s 0).ctxOf 0).wait = .serial 5 3 (some 1000) ∧ 1000 ≤ s.cycle) := by decide +kernel

/-- CcWaitsForTasksAndWords: WAIT in monitor mode. -/
theorem witness_CcWaitsForTasksAndWords_wait_in_monitor_mode :
    ccHolds hd monitor = true ∧ (ctlOf monitor 0).monitor = true := by decide +kernel

/-- CcWaitsForTasksAndWords: WAIT: a condition of kind 1. -/
theorem witness_CcWaitsForTasksAndWords_wait_a_condition_of_kind_1 :
    (selected 2 ((List.range 4).map (fun i => (ccRegs graph).get (32 + i)))).any (fun w => w.toNat / 2 ^ 60 = 1 || w.toNat / 2 ^ 60 = 2) = true := by decide +kernel

/-- CcWaitsForTasksAndWords: WAIT: without and with a deadline. -/
theorem witness_CcWaitsForTasksAndWords_wait_without_and_with_a_deadline :
    ccCondTrap (selected 4 ((List.range 4).map (fun i => (ccRegs graph).get (32 + i)))) = none := by decide +kernel

/-- MonitorEntryAndReturn: ERET in graph mode. -/
theorem witness_MonitorEntryAndReturn_eret_in_graph_mode :
    ccHolds hd graph = true ∧ (ctlOf graph 0).monitor = false := by decide +kernel

/-- MonitorEntryAndReturn: ERET to the monitor. -/
theorem witness_MonitorEntryAndReturn_eret_to_the_monitor :
    (let s := onCtl monitor 0 (fun c => { c with pmode := true, epc := 64 });
       ccHolds hd s = true ∧ (ctlOf s 0).monitor = true ∧ (ctlOf s 0).events = [] ∧ (ctlOf s 0).pmode = true) := by decide +kernel

/-- MonitorEntryAndReturn: ERET to a context. -/
theorem witness_MonitorEntryAndReturn_eret_to_a_context :
    (let s := onCtl monitor 0 (fun c => { c with epc := 64, pctx := 2 });
       (ctlOf s 0).events = [] ∧ (ctlOf s 0).pmode = false ∧ (ctlOf s 0).pctx < 8 ∧ ((ctlOf s 0).ctxOf 2).state ≠ .done) := by decide +kernel

/-- MonitorEntryAndReturn: an event in graph mode. -/
theorem witness_MonitorEntryAndReturn_an_event_in_graph_mode :
    (ctlOf graph 0).monitor = false ∧ (ctlOf graph 0).events = [] := by decide +kernel

/-- MonitorEntryAndReturn: an event in a monitor that runs. -/
theorem witness_MonitorEntryAndReturn_an_event_in_a_monitor_that_runs :
    (ctlOf monitor 0).monitor = true ∧ (ctlOf monitor 0).mon.wait ≠ .idle := by decide +kernel

/-- SystemRegisters: monitor mode. -/
theorem witness_SystemRegisters_monitor_mode :
    ccHolds hd monitor = true ∧ (ctlOf monitor 0).monitor = true ∧ monitor.launches ≠ [] := by decide +kernel

/-- SystemRegisters: graph mode. -/
theorem witness_SystemRegisters_graph_mode :
    ccHolds hd graph = true ∧ (ctlOf graph 0).monitor = false := by decide +kernel

/-- SystemRegisters: VLIM within its range and without. -/
theorem witness_SystemRegisters_vlim_within_its_range_and_without :
    1 ≤ (ccGet graph 5).toNat ∧ (ccGet graph 5).toNat ≤ 4095 ∧ (ccGet graph 0).toNat = 0 ∧ 4095 < (ccGet graph 6).toNat := by decide +kernel

/-- SystemRegisters: INJ and INJMEM. -/
theorem witness_SystemRegisters_inj_and_injmem :
    (ccGet monitor 5).toNat / 2 ^ 29 % 4 < 2 ∧ (ccGet monitor 5).toNat / 2 ^ 15 % 16 < 12 ∧ (ccGet monitor 5).toNat / 2 ^ 24 % 16 < 6 := by decide +kernel

/-- SystemRegisters: CTXST in monitor mode. -/
theorem witness_SystemRegisters_ctxst_in_monitor_mode :
    ccHolds hd monitor = true ∧ (ctlOf monitor 0).monitor = true := by decide +kernel

/-- CcSystemWords: HALT of the monitor. -/
theorem witness_CcSystemWords_halt_of_the_monitor :
    ccHolds hd monitor = true ∧ (ctlOf monitor 0).monitor = true ∧ (ctlOf monitor 0).events = [] := by decide +kernel

/-- CcSystemWords: HALT of a context. -/
theorem witness_CcSystemWords_halt_of_a_context :
    (ctlOf graph 0).monitor = false ∧ ({ graph with launches := [] } : State).launches = [] := by decide +kernel

/-- CcSystemWords: CTXSW and the end of a quantum. -/
theorem witness_CcSystemWords_ctxsw_and_the_end_of_a_quantum :
    (let s := onCtl graph 0 (fun c => c.onCtx 0 (fun x => { x with issued := 65536 }));
       (ctlOf s 0).nextCtx = some 2 ∧ 65536 ≤ ((ctlOf s 0).ctxOf (ctlOf s 0).ctx).issued) := by decide +kernel

/-- CheckerMatches: nothing that is due. -/
theorem witness_CheckerMatches_nothing_that_is_due :
    (∀ p ∈ (ctlOf graph 0).outward, p.whole = false → graph.cycle < p.due) ∧ (∀ p ∈ (ctlOf graph 0).handed, graph.cycle < p.1) ∧
      readyOutward graph.cycle [] (ctlOf graph 0).outward = none := by decide +kernel

/-- CheckerMatches: actions that match. -/
theorem witness_CheckerMatches_actions_that_match :
    ∀ a ∈ ([.store 0 0x400000 [(0x800000, [1])] .rc false ⟨0, 0, 0, 0⟩, .amo .add 0 0x400000 4 1 0 9, .post (postReq graph 9 none) 0x400000 0 1, .cancel 5 4096 0 9, .wincfg 0 1 0, .wincfg 1 1 0, .wincfg 2 5 0, .sysw 1 64, .sysw 0x20 5, .sysw 0x210000 99, .ckpt 7 9] : List OutAct), let s := acting (anAct a); (∀ p ∈ (ctlOf s 0).outward, p.whole = false → s.cycle < p.due) ∧ (∀ p ∈ (ctlOf s 0).handed, s.cycle < p.1) ∧ readyOutward s.cycle [] (ctlOf s 0).outward = some (anAct a) ∧ s.ckpt = none := by decide +kernel

/-- CheckerMatches: an answer from a device without a route. -/
theorem witness_CheckerMatches_an_answer_from_a_device_without_a_route :
    ∀ a ∈ ([.rpost (postReq graph 9 none) 0x400000 5 0] : List OutAct), let s := acting (anAct a); (∀ p ∈ (ctlOf s 0).outward, p.whole = false → s.cycle < p.due) ∧ (∀ p ∈ (ctlOf s 0).handed, s.cycle < p.1) ∧ readyOutward s.cycle [] (ctlOf s 0).outward = some (anAct a) ∧ s.ckpt = none ∧ s.devid ≠ some 5 ∧ routeUp s 5 = false := by decide +kernel

/-- CheckerMatches: a vintage to be had. -/
theorem witness_CheckerMatches_a_vintage_to_be_had :
    ∀ a ∈ ([.valloc 9 none, .valloc 9 (some 3)] : List OutAct), let s := acting (anAct a); (∀ p ∈ (ctlOf s 0).outward, p.whole = false → s.cycle < p.due) ∧ (∀ p ∈ (ctlOf s 0).handed, s.cycle < p.1) ∧ readyOutward s.cycle [] (ctlOf s 0).outward = some (anAct a) ∧ s.ckpt = none ∧ (spaceOf s (setAsid s 0 0)).next = some 1 := by decide +kernel

/-- CheckerMatches: no vintage to be had. -/
theorem witness_CheckerMatches_no_vintage_to_be_had :
    let s := { acting (anAct (.valloc 9 (some 3))) with spaces := [(0, { Space.reset with vlim := 0 })] }; readyOutward s.cycle [] (ctlOf s 0).outward = some (anAct (.valloc 9 (some 3))) ∧ s.ckpt = none ∧ (spaceOf s (setAsid s 0 0)).next = none := by decide +kernel

/-- CheckerMatches: a LIVE vintage that is retired. -/
theorem witness_CheckerMatches_a_live_vintage_that_is_retired :
    let s := { acting (anAct (.vret 0 5)) with spaces := [(0, { Space.reset with vints := [(0, .live), (5, .live)] })] }; readyOutward s.cycle [] (ctlOf s 0).outward = some (anAct (.vret 0 5)) ∧ s.ckpt = none ∧ (spaceOf s 0).stateOf 5 = .live := by decide +kernel

/-- CheckerMatches: a checkpoint that holds an action. -/
theorem witness_CheckerMatches_a_checkpoint_that_holds_an_action :
    let s := { acting (anAct (.wincfg 0 1 0)) with ckpt := some (aCkpt 1) }; readyOutward s.cycle [] (ctlOf s 0).outward = some (anAct (.wincfg 0 1 0)) ∧ s.ckpt.isSome = true := by decide +kernel

/-- CheckerMatches: a post whose records can be read. -/
theorem witness_CheckerMatches_a_post_whose_records_can_be_read :
    let s := posting 0x400400; let o := { anAct (.post (postReq graph 9 none) 0x400400 0 1) with whole := false }; (ctlOf s 0).outward = [o] ∧ (ctlOf s 0).handed = [] ∧ o.due ≤ s.cycle ∧ (match readRecords 0 o (postReq graph 9 none) 0x400400 0 false true [0] s with | .recs _ t => decide ((ctlOf t 0).outward = [o] ∧ (ctlOf t 0).handed = []) | _ => false) = true := by decide +kernel

/-- CheckerMatches: a post whose records trap. -/
theorem witness_CheckerMatches_a_post_whose_records_trap :
    let s := posting 0x400800; let o := { anAct (.post (postReq graph 9 none) 0x400800 0 1) with whole := false }; (ctlOf s 0).outward = [o] ∧ (match readRecords 0 o (postReq graph 9 none) 0x400800 0 false true [0] s with | .trap _ _ t => decide ((ctlOf t 0).outward = [o] ∧ (ctlOf t 0).handed = [] ∧ (ctlOf t 0).set = o.set) | _ => false) = true := by decide +kernel

/-- CheckerMatches: a post on its way to the window. -/
theorem witness_CheckerMatches_a_post_on_its_way_to_the_window :
    let s := onCtl graph 0 (fun c => { c with handed := [(1000, { postReq graph 9 none with recs := [aRecord], slots := [0] })] }); (ctlOf s 0).outward = [] ∧ 1000 ≤ s.cycle ∧ (ctlOf (handPost (onCtl s 0 (fun c => { c with handed := [] })) 0 { postReq graph 9 none with recs := [aRecord], slots := [0] }) 0).outward = [] := by decide +kernel

/-- CheckerMatches: nothing that could fail to match. -/
theorem witness_CheckerMatches_nothing_that_could_fail_to_match :
    ∀ p ∈ (ctlOf graph 0).outward, p.whole = false := by decide +kernel

/-- CheckerMatches: a first and a second mismatch. -/
theorem witness_CheckerMatches_a_first_and_a_second_mismatch :
    ∀ n ∈ [0, 1], let s := onCtl (acting (anAct (.wincfg 0 1 0))) 0 (fun c => { c with shadows := [(0, { (ctlOf graph 0).snap 0 with misses := n })] }); (ctlOf s 0).outward.find? (fun o => o.whole) = some (anAct (.wincfg 0 1 0)) ∧ (tfind (ctlOf s 0).shadows 0).isSome = true ∧ tfind (ctlOf s 0).shadows 0 = some { (ctlOf graph 0).snap 0 with misses := n } := by decide +kernel

/-- The task 1 of the window of die 0, in vintage 0, its text on the page that may be read. -/
def theTask (committed : Bool) : Running :=
  { wdie := 0, serial := 1, shard := 0, shards := 1, asid := 0, vt := 0, image := 0x200000, textOff := 0, textSize := 4096, loopOff := 2048,
    loopCnt := 1, seed := 0, strict := false, committed := committed, desc := List.replicate 16 0, launch := 1, phys := 0 }

/-- A processor that has fetched its group at 0x200010. -/
def atGroup : ProcState := { ProcState.idle with pc := 0x200018, ready := 1001, stopped := false, group := 0x200010 }

/-- Registers of the AP: a1 to a10 address the pages of the table, a11 is not aligned, a12 lies outside every page, a13 beyond the address space, a14 is small. -/
def apValues : Table Word :=
  (List.range 10).map (fun i => (i + 1, BitVec.ofNat 64 ((i + 1) * 0x200000))) ++
  [(11, 0x400001), (12, 0x7FE00000), (13, BitVec.allOnes 64), (14, 5), (15, 0x200000)]

/-- An entry of an xq whose 32-bit indices are 0 to 63, with the first bytes masked out. -/
def indices : XqEntry :=
  { data := vecOf ((List.range 64).flatMap (fun i => leBytes 4 i)), mask := BitVec.allOnes 256 ^^^ 0xFF, at_ := 1000, gone := none }

/-- Core 0 of die 0 with the task at its group. -/
def taskWith (committed : Bool) : State :=
  onCore
    { running with
      launches := [theLaunch], focus := ⟨0, 0, 0x200010⟩
      dies := [(0, { Die.reset with entries := [anEntry 1 (if committed then .committed else .running)], nextSerial := 6, wlog2 := 3 })] }
    0 0 (fun x =>
      { x with
        task := some (theTask committed), a := apValues, ap := atGroup, xp := atGroup, apPreds := 0x82, xpPreds := 0x82
        xq := [(0, [indices]), (1, [indices])] })

/-- The task before its COMMIT. -/
def task : State := taskWith false

/-- The task after its COMMIT. -/
def committed : State := taskWith true

/-- Fields of a memory word with V: D, A, B, the size and the offset. -/
def fmv (d a b : BitVec 10) (sz : BitVec 2) (off : BitVec 12) : FM := ⟨d, a, b, sz, 1, off⟩

/-- Whether a write of parts in vintage 0 finds every cell that it needs. -/
def startable (s : State) (ps : List Part) : Bool := match cellParts s 0 0 ps with | .ok (_ :: _, _) => true | _ => false

/-- The page of an address, and the state after its translation, for a read or a write of any format. -/
def pageFor (s : State) (write : Bool) (va : Nat) : Option Leaf × State :=
  match pageAt s 0 { write := write, raw := false, ordered := false, hostTrap := false } va with
  | (.ok l, t) => (some l, t)
  | (_, t) => (none, t)

/-- The core in focus with an entry list in aq 1 of some length. -/
def aqFilled (n : Nat) : State :=
  task.onCore (fun c => { c with aq := [(1, List.replicate n
    { id := 0, data := 0, landed := false, due := 2000, pieces := [], form := ⟨0, 0, 0, 0⟩, absent := 0, seq := 0, pc := 0, gone := none })] })

/-- What ApBranches asks of a state holds of one: room in bq and none. -/
theorem witness_ApBranches :
    task.core.bqUsed task.cycle < 256 ∧ 256 ≤ (let s := task.onCore (fun c => { c with bq := List.replicate 256 { bit := true, at_ := 0, gone := none } }); s.core.bqUsed s.cycle) := by decide +kernel

/-- ApLoadsComplete: misaligned. -/
theorem witness_ApLoadsComplete_misaligned :
    apHolds hd task = true ∧ apAddress task (fm 9 11 0 3 0) % 8 ≠ 0 := by decide +kernel

/-- ApLoadsComplete: aligned, and in a vintage. -/
theorem witness_ApLoadsComplete_aligned_and_in_a_vintage :
    apAddress task (fm 9 1 14 0 0) % 1 = 0 ∧ (apPieces task false false 0 0x200005 1).2.1 = none ∧ (apPieces task false true 0 0x200005 1).2.1 = none ∧
       (fmv 9 9 14 3 0).v = 1 ∧ apAddress task (fmv 9 9 0 3 1) = 0x1200008 ∧ (apPieces task false false 0 0x1200008 8).2.1 = none ∧
       namesFree task task.core.asid 0 ((apPieces task false false 0 0x1200008 8).1.map (fun p => p.leaf)) = false := by decide +kernel

/-- ApQueueFills: LDQ: misaligned. -/
theorem witness_ApQueueFills_ldq_misaligned :
    apHolds hd task = true ∧ apAddress task (fm 1 11 0 3 0) % 8 ≠ 0 := by decide +kernel

/-- ApQueueFills: LDQ: a full aq. -/
theorem witness_ApQueueFills_ldq_a_full_aq :
    64 ≤ (aqFilled 64).core.aqUsed 1 1000 ∧ apAddress (aqFilled 64) (fm 1 1 0 3 0) % 8 = 0 := by decide +kernel

/-- ApQueueFills: LDQ: raw. -/
theorem witness_ApQueueFills_ldq_raw :
    (aqFilled 63).core.aqUsed 1 1000 < 64 ∧ (let t := (pageFor (aqFilled 63) false 0x200000).2; (pageFor (aqFilled 63) false 0x200000).1.any (fun l => decide (l.fmt < 10)) = true ∧ (queueRead t 0 (staleVint t false t.core.asid 0) true 128 0 0x200000 256 t).2.1 = none ∧ mixesCodes (spanLeaves t false 64 0x200000 (0x200000 + 256)) = false) := by decide +kernel

/-- ApQueueFills: LDQ: block-scaled. -/
theorem witness_ApQueueFills_ldq_block_scaled :
    (let t := (pageFor task false 0x1000020).2; (pageFor task false 0x1000020).1.any (fun l => decide (10 < l.fmt)) = true ∧ 0x1000020 % 32 = 0 ∧ (queueRead t 0 (staleVint t false t.core.asid 0) true 128 0 0x1000020 64 t).2.1 = none ∧ mixesCodes (spanLeaves t false 64 0x1000020 (0x1000020 + 64)) = false) := by decide +kernel

/-- ApQueueFills: GATHQ: a full aq, no indices. -/
theorem witness_ApQueueFills_gathq_a_full_aq_no_indices :
    64 ≤ (aqFilled 64).core.aqUsed 1 1000 ∧ task.core.aqUsed 1 1000 < 64 ∧ task.core.xqHead 5 1000 = none := by decide +kernel

/-- ApQueueFills: GATHQ: elements. -/
theorem witness_ApQueueFills_gathq_elements :
    task.core.xqHead 0 1000 = some indices ∧ (gatherElements task 0 4 true (elementAddress (apGet task 1) 4 0 indices.data) (List.range 64) task).2.1 = none ∧
        (gatherElements task 0 4 true (elementAddress (apGet task 1) 4 0 indices.data) (List.range 64) task).1.leaves.all (fun l => decide (l.fmt < 10)) = true := by decide +kernel

/-- ApStoresComplete: misaligned. -/
theorem witness_ApStoresComplete_misaligned :
    apHolds hd task = true ∧ apAddress task (fm 14 11 0 3 0) % 8 ≠ 0 := by decide +kernel

/-- ApStoresComplete: a register. -/
theorem witness_ApStoresComplete_a_register :
    apAddress task (fm 14 2 14 0 0) % 1 = 0 ∧ (let q := apPieces task true false 0 0x400005 1; q.2.1 = none ∧ startable q.2.2 q.1 = true) ∧
       (let q := apPieces task true true 0 0x400005 1; q.2.1 = none) := by decide +kernel

/-- ApStoresComplete: an empty xq. -/
theorem witness_ApStoresComplete_an_empty_xq :
    task.core.xqHead 5 1000 = none := by decide +kernel

/-- ApStoresComplete: an entry, whole. -/
theorem witness_ApStoresComplete_an_entry_whole :
    task.core.xqHead 0 1000 = some indices ∧ apAddress task (fm 0 2 0 3 0) = 0x400000 ∧ (pageFor task true 0x400000).1.any (fun l => decide (l.fmt < 10)) = true ∧ (let q := apPieces (pageFor task true 0x400000).2 true false 0 0x400000 256; q.2.1 = none ∧ startable q.2.2 q.1 = true) := by decide +kernel

/-- ApStoresComplete: an entry, its masked bytes. -/
theorem witness_ApStoresComplete_an_entry_its_masked_bytes :
    (let q := splitRuns task 0 ((maskRuns indices.mask (vecBytes indices.data)).map (fun r => ((0x400000 + r.1) % 2 ^ 64, r.2))) task; q.2.1 = none ∧
        startable q.2.2 (q.1.map (fun r => r.1)) = true) := by decide +kernel

/-- ApStoresComplete: an entry, its elements at indices. -/
theorem witness_ApStoresComplete_an_entry_its_elements_at_indices :
    task.core.xqHead 1 1000 = some indices ∧ (let q := splitRuns task 0 (((List.range 32).filter (fun i => indices.mask.getLsbD (i * 8))).map (fun i =>
            (elementAddress (apGet task 2) 8 0 indices.data i, leBytes 8 (indices.data.toNat / 2 ^ (8 * 8 * i) % 2 ^ (8 * 8))))) task; q.2.1 = none ∧
        startable q.2.2 (q.1.map (fun r => r.1)) = true) := by decide +kernel

/-- ApAtomicsComplete: FADD under the strict rules. -/
theorem witness_ApAtomicsComplete_fadd_under_the_strict_rules :
    (task.onCore (fun c => { c with task := some { theTask true with strict := true } })).core.strict = true := by decide +kernel

/-- ApAtomicsComplete: before COMMIT. -/
theorem witness_ApAtomicsComplete_before_commit :
    apHolds hd task = true ∧ task.core.committed = false := by decide +kernel

/-- ApAtomicsComplete: after COMMIT, misaligned and aligned. -/
theorem witness_ApAtomicsComplete_after_commit_misaligned_and_aligned :
    committed.core.committed = true ∧ (apGet committed 11).toNat % 8 ≠ 0 ∧ (apGet committed 2).toNat % 8 = 0 ∧
      (let q := apPieces committed true false 0 0x400000 8; q.2.1 = none ∧
       startable q.2.2 q.1 = true) := by decide +kernel

/-- What FencesComplete asks of a state holds of one: an AP whose predicate holds, with a write under way. -/
theorem witness_FencesComplete :
    (let s := { task with writes := [{ id := 3, agent := apAgent task, die := 0, core := 0, seq := 3, at_ := 980, hubAt := 1000, coreAt := 990, dieAt := 1010, due := 1500, kind := .rc, release := false, act := .bytes [(0x800000, [1])] }] };
       apHolds hd s = true ∧ s.writes.all (fun w => w.agent == apAgent s && w.kind != .un) = true) := by decide +kernel

/-- The core's wait conditions are these. -/
def waiting (ws : List Word) : State := task.onCore (fun c => { c with w := [(0, ws.getD 0 0), (1, ws.getD 1 0)], wCopies := [ws ++ [0, 0]], wp := [(2, 100)], tokens := [(3, [(9, none)])] })

/-- A condition on token 3, which a producer holds back, and one on pointer 2. -/
def someConditions : List Word := [BitVec.ofNat 64 (2 ^ 60 + 3), BitVec.ofNat 64 (2 * 2 ^ 60 + 100 * 8 + 2)]

/-- Fields of a word of format FW: PD, ALL, WMASK, the timeout. -/
def fw (pd : BitVec 3) (all : BitVec 1) (mask : BitVec 4) (t : BitVec 20) : FW := ⟨pd, all, mask, t, 0⟩

/-- The AP's a20 addresses a page of 4 KiB of the pool. -/
def pooled : State := task.onCore (fun c => { c with a := c.a ++ [(20, 0x1600000)] })

/-- ApBarriers: misaligned. -/
theorem witness_ApBarriers_misaligned :
    apHolds hd task = true ∧ (0x400001 : Nat) % 32 ≠ 0 ∧ (apGet task 11).toNat = 0x400001 := by decide +kernel

/-- ApBarriers: an object of the pool. -/
theorem witness_ApBarriers_an_object_of_the_pool :
    [(true, true), (true, false), (false, true)].all (fun k => match barPart pooled (fm 9 20 14 3 4) k.1 k.2 with | .ok (p, t) => !k.1 || startable t [p] | .error _ => false) = true := by decide +kernel

/-- CoreWaits: a reserved condition. -/
theorem witness_CoreWaits_a_reserved_condition :
    condTrap 5 (selected 1 [BitVec.ofNat 64 (5 * 2 ^ 60), 0, 0, 0]) = some .reservedField := by decide +kernel

/-- CoreWaits: conditions that hold. -/
theorem witness_CoreWaits_conditions_that_hold :
    (let s := waiting someConditions; apHolds hd s = true ∧ xpHolds hd s = true ∧ condTrap 5 (selected 3 (someConditions ++ [0, 0])) = none ∧
        selected 3 (s.core.wCopies.headD []) = someConditions ∧ waitHolds s.core s.cycle false someConditions [] = true) := by decide +kernel

/-- CoreWaits: conditions that do not hold. -/
theorem witness_CoreWaits_conditions_that_do_not_hold :
    (let s := waiting someConditions; waitHolds s.core s.cycle true someConditions [] = false) := by decide +kernel

/-- ApPageWords: MTEST in each mode. -/
theorem witness_ApPageWords_mtest_in_each_mode :
    apHolds hd task = true ∧ (4#25).toNat % 4 < 3 ∧ (2#25).toNat % 4 < 3 := by decide +kernel

/-- ApPageWords: beyond the address space. -/
theorem witness_ApPageWords_beyond_the_address_space :
    2 ^ 56 ≤ (apGet task 13).toNat := by decide +kernel

/-- ApPageWords: a page that is resident, one that is not, the host's, another device's. -/
theorem witness_ApPageWords_a_page_that_is_resident_one_that_is_not_the_hosts_another_devices :
    (walk task 0 0x200000).isOk = true ∧ (walk task 0 0x800000).isOk = true ∧ (walk task 0 0xA00000).isOk = true ∧ (walk task 0 0xC00000).isOk = true ∧
       task.core.pageReqs.length < 16 ∧ faultOf task 0 0x800000 = none := by decide +kernel

/-- ApPageWords: a page asked for, and 16 requests out. -/
theorem witness_ApPageWords_a_page_asked_for_and_16_requests_out :
    (let f : PageFault := { asid := 0, va := 0x800000, size := 0x200000, vint := 0, write := false, event := 1, toHost := true, again := false, waiters := [] };
      faultOf { task with faults := [f] } 0 0x800000 = some f) ∧
        (let s := task.onCore (fun c => { c with pageReqs := (List.range 16).map (fun i => (9, i, 0)) }); 16 ≤ s.core.pageReqs.length ∧ s.core.pageReqs.any (fun q => q.1 = 0 && q.2.1 = 0x800000) = false) := by decide +kernel

/-- ApSeals: before COMMIT. -/
theorem witness_ApSeals_before_commit :
    apHolds hd task = true ∧ task.core.committed = false := by decide +kernel

/-- ApSeals: a length of 0. -/
theorem witness_ApSeals_a_length_of_0 :
    committed.core.committed = true ∧ (apGet committed 0).toNat = 0 := by decide +kernel

/-- ApSeals: a range that ends inside a page. -/
theorem witness_ApSeals_a_range_that_ends_inside_a_page :
    0x400000 + 5 ≤ 2 ^ 56 ∧ ((match leavesFrom committed 0 2 0x400000 0x400005 with | .ok (l :: _) => decide (l.va + l.size ≠ 0x400005) | _ => false) = true) := by decide +kernel

/-- ApSeals: a page that the task does not write. -/
theorem witness_ApSeals_a_page_that_the_task_does_not_write :
    ((match leavesFrom committed 0 514 0x600000 0x800000 with | .ok (l :: _) => decide (l.va = 0x600000 ∧ l.va + l.size = 0x800000) | _ => false) = true) ∧ inWrittenRegion (taskRecord committed) 0x600000 0x200000 = false := by decide +kernel

/-- ApSeals: a page that is as asked, and one that is not. -/
theorem witness_ApSeals_a_page_that_is_as_asked_and_one_that_is_not :
    ((match leavesFrom committed 0 514 0x400000 0x600000 with | .ok [l] => decide (l.va = 0x400000 ∧ l.seal = false ∧ l.home ≠ 2 ∧ l.vintaged = false) | _ => false) = true) ∧
        ((match leavesFrom committed 0 514 0xE00000 0x1000000 with | .ok [l] => decide (l.va = 0xE00000 ∧ l.seal = true ∧ l.home ≠ 2 ∧ l.vintaged = false) | _ => false) = true) ∧
        inWrittenRegion (taskRecord committed) 0x400000 0x200000 = true ∧ inWrittenRegion (taskRecord committed) 0xE00000 0x200000 = true ∧
        ((match walk committed 0 0x400000, walk committed 0 0x5FFFFF, walk committed 0 0xE00000, walk committed 0 0xFFFFFF with
          | .ok l, .ok l', .ok k, .ok k' => decide (l' = l ∧ l.size = 0x200000 ∧ l.pte ≠ 0 ∧ k' = k ∧ k.va = 0xE00000 ∧ k.size = 0x200000 ∧ k.pte ≠ 0 ∧
            k.seal = true) | _, _, _, _ => false) = true) := by decide +kernel

/-- Bytes of the register space: s1 to s4, and v1 to v4 of 256 bytes each. -/
def spaceBytes : Memory :=
  writeBytes (writeBytes [] 256 ((List.range 256).flatMap (fun i => leBytes 4 ((i * 0x9E3779B1 + 0x12345678) % 2 ^ 32)))) 0x1FE08
    (wordsBytes [7, 0xFFFFFFFFFFFFFFFB, 2, 0x800000000000003D])

/-- The task with values in the register space, latches and masks. -/
def vectors : State :=
  task.onCore (fun c => { c with space := spaceBytes, latches := [(5, 0x1234)], xpMasks := [(2, 0x0F0F0F0F0F0F0F0F0F0F00FF00FF)] })

/-- A header with the predicate p5 negated, which does not hold. -/
def hdNot : Hdr := ⟨true, true, 0⟩

/-- Fields of a word of format FI. -/
def fi (d a : BitVec 10) (imm : BitVec 25) : FI := ⟨d, a, imm⟩

/-- What XpOperands asks of a state holds of one: a register below COUNT, one at it, a latch. -/
theorem witness_XpOperands :
    (0 < (vectors.core.view 0).toNat / 2 ^ 34 % 2 ^ 10 ∧ (vectors.core.view 0).toNat / 2 ^ 34 % 2 ^ 10 ≤ 512) ∧
      (0 < (vectors.core.view 1).toNat / 2 ^ 34 % 2 ^ 10 ∧ (vectors.core.view 1).toNat / 2 ^ 34 % 2 ^ 10 ≤ 512) ∧
      (0 < (vectors.core.view 2).toNat / 2 ^ 34 % 2 ^ 10 ∧ (vectors.core.view 2).toNat / 2 ^ 34 % 2 ^ 10 ≤ 512) ∧
      (0 < (vectors.core.view 3).toNat / 2 ^ 34 % 2 ^ 10 ∧ (vectors.core.view 3).toNat / 2 ^ 34 % 2 ^ 10 ≤ 512) ∧ (63#10).getLsbD 9 = false ∧
      (64#10).toNat % 512 = (vectors.core.view 0).toNat / 2 ^ 34 % 2 ^ 10 ∧ (517#10).getLsbD 9 = true := by decide +kernel

/-- XpScalarWords: a predicate that does not hold. -/
theorem witness_XpScalarWords_a_predicate_that_does_not_hold :
    xpHolds hdNot vectors = false := by decide +kernel

/-- XpScalarWords: a source beyond COUNT. -/
theorem witness_XpScalarWords_a_source_beyond_count :
    xpHolds hd vectors = true ∧ armedOn vectors 0 0 0 = none ∧ sSrcOf vectors.core 64 = none := by decide +kernel

/-- XpScalarWords: sources and a destination below COUNT. -/
theorem witness_XpScalarWords_sources_and_a_destination_below_count :
    xpHolds hd vectors = true ∧ armedOn vectors 0 0 0 = none ∧ (sSrcOf vectors.core 2).isSome = true ∧ (sSrcOf vectors.core 4).isSome = true ∧
      canWrite vectors.core 0 9 = true ∧ canWrite vectors.core 0 63 = true := by decide +kernel

/-- XpScalarWords: compares and predicates. -/
theorem witness_XpScalarWords_compares_and_predicates :
    xpHolds hd vectors = true ∧ armedOn vectors 0 0 0 = none ∧ (sSrcOf vectors.core 2).isSome = true := by decide +kernel

/-- XpScalarWords: bq empty, and a bit. -/
theorem witness_XpScalarWords_bq_empty_and_a_bit :
    vectors.core.bqHead 1000 = none ∧ (let s := vectors.onCore (fun c => { c with bq := [{ bit := true, at_ := 1000, gone := none }] }); s.core.bqHead 1000 = some true) := by decide +kernel

/-- What VectorIntegerLanes asks of a state holds of one: sources and a destination below COUNT. -/
theorem witness_VectorIntegerLanes :
    xpHolds hd vectors = true ∧ armedOn vectors 0 0 0 = none ∧ (vSrcOf vectors.core 1).isSome = true ∧ (vSrcOf vectors.core 2).isSome = true ∧
      (vSrcOf vectors.core 3).isSome = true ∧ canWrite vectors.core 1 9 = true ∧ canWrite vectors.core 1 (512 + 9) = true := by decide +kernel

/-- What VectorFloatLanes asks of a state holds of one: sources and a destination below COUNT. -/
theorem witness_VectorFloatLanes :
    xpHolds hd vectors = true ∧ armedOn vectors 0 0 0 = none ∧ (vSrcOf vectors.core 1).isSome = true ∧ (vSrcOf vectors.core 2).isSome = true ∧
      (vSrcOf vectors.core 3).isSome = true ∧ canWrite vectors.core 1 9 = true ∧ canWrite vectors.core 1 (512 + 9) = true := by decide +kernel

/-- VectorMasksAndPermutes: sources and a destination below COUNT. -/
theorem witness_VectorMasksAndPermutes_sources_and_a_destination_below_count :
    xpHolds hd vectors = true ∧ armedOn vectors 0 0 0 = none ∧ (vSrcOf vectors.core 1).isSome = true ∧ (vSrcOf vectors.core 2).isSome = true ∧
      (vSrcOf vectors.core 3).isSome = true ∧ canWrite vectors.core 1 9 = true ∧ canWrite vectors.core 1 (512 + 9) = true ∧ canWrite vectors.core 0 9 = true ∧
      (sSrcOf vectors.core 2).isSome = true := by decide +kernel

/-- VectorMasksAndPermutes: permutes. -/
theorem witness_VectorMasksAndPermutes_permutes :
    xpHolds hd vectors = true ∧ armedOn vectors 0 0 0 = none ∧ (0x102 : Nat) % 256 ≤ 256 ∧ (3 : Nat) ≤ 32 := by decide +kernel

/-- What VectorReductions asks of a state holds of one: the whole and groups. -/
theorem witness_VectorReductions :
    xpHolds hd vectors = true ∧ armedOn vectors 0 0 0 = none ∧ (vSrcOf vectors.core 1).isSome = true ∧ (vSrcOf vectors.core 2).isSome = true ∧
      (vSrcOf vectors.core 3).isSome = true ∧ canWrite vectors.core 1 9 = true ∧ canWrite vectors.core 1 (512 + 9) = true ∧ canWrite vectors.core 0 9 = true ∧
      (8 : Nat) ≤ (256 / 1).log2 ∧
      (List.range 256).all (fun i => !laneOn ((vectors.onCore (fun c => { c with xpMasks := [(3, 0)] })).core.xmGet 3) 1 i) = true := by decide +kernel

/-- What VectorConversions asks of a state holds of one: wider, narrower, of one size; a slot of s. -/
theorem witness_VectorConversions :
    xpHolds hd vectors = true ∧ armedOn vectors 0 0 0 = none ∧ (vSrcOf vectors.core 1).isSome = true ∧ canWrite vectors.core 1 9 = true ∧
      (slotOf vectors.core 0 8).isSome = true ∧ (elemOf 0 false).bytes < (elemOf 2 false).bytes ∧ (0 + 1) * 64 ≤ 256 / 1 := by decide +kernel

/-- An entry of aq 1. -/
def aqEntry (landed : Bool) : AqEntry :=
  { id := 4, data := 0x5678, landed := landed, due := 900, pieces := [], form := ⟨0, 0, 0, 256⟩, absent := 0, seq := 4, pc := 0, gone := none }

/-- The task with an entry in aq 1 that has landed and one in aq 2 that has not, a full xq 3, and entries of the pigeonhole under path 5. -/
def queues : State :=
  vectors.onCore (fun c =>
    { c with
      aq := [(1, [aqEntry true]), (2, [aqEntry false])], xq := [(3, List.replicate 32 { indices with gone := none })]
      pigeon := (List.range 3).map (fun i => { path := 5, index := i, val0 := i + 10, val1 := i + 20, at_ := 1000 }), pigeonOvf := true })

/-- Fields of a word of format FE: the tokens, X and CH. -/
def fe (kp kc : BitVec 6) (x : BitVec 10) (ch : BitVec 3) : FE := ⟨kp, kc, 0, 0, 0xFF, x, ch⟩

/-- The word of an address in a space. -/
def inSpace (space off : Nat) : Word := BitVec.ofNat 64 (space * 2 ^ 60 + off)

/-- The task with scalars from s1 on, and claim 0 of one plot. -/
def scalars (ps : List Word) : State :=
  vectors.onCore (fun c =>
    { c with space := writeBytes [] 0x1FE08 (wordsBytes ps), claims := [(0, { Claim.reset with held := true, a := 1, b := 1 })] })

/-- Operands with which each of the words that start a unit passes its checks. -/
def unitOperands : List (List Word) :=
  [[inSpace 1 0, inSpace 2 0, BitVec.ofNat 64 (4 + 4 * 2 ^ 24), BitVec.ofNat 64 (16 + 16 * 2 ^ 32), 2],
   [inSpace 1 0, inSpace 2 0, BitVec.ofNat 64 (4 + 256 * 2 ^ 24), BitVec.ofNat 64 (4 + 256 * 2 ^ 32), 0],
   [0, 256, 0x400000, 0], [0, 256, 0x200000, 0],
   [inSpace 1 0, BitVec.ofNat 64 (32 + 32 * 2 ^ 16), 32], [inSpace 1 0, BitVec.ofNat 64 (32 + 32 * 2 ^ 16), 32],
   [inSpace 2 0, BitVec.ofNat 64 (32 + 128 * 2 ^ 32), inSpace 3 0, 4], [inSpace 2 0, BitVec.ofNat 64 (256 + 128 * 2 ^ 32), inSpace 3 0, BitVec.ofNat 64 (4 + 8 * 2 ^ 24)],
   [inSpace 2 0, BitVec.ofNat 64 (32 + 128 * 2 ^ 32), inSpace 3 0, BitVec.ofNat 64 (4 + 16 * 2 ^ 24)]]

/-- The queue is filled with commands that have not started. -/
def filled (s : State) (q : QueueId) : State :=
  s.onCore (fun c => { c with cmds := List.replicate 32 (Cmd.blank 99 q .copy 900) })

/-- The task with a loop table of one entry: a temporal level of four passes and a spatial one of two. -/
def looping : State :=
  { vectors with
    mem := writeBytes vectors.mem (0x400000 + 2048)
      (wordsBytes [BitVec.ofNat 64 (2 + 3 * 8), 4, 0, 0, 0, 0, 0, 0, BitVec.ofNat 64 (2 + 2 ^ 32), 0, 0, 0, 0, 0, 0])
    cores := (vectors.onCore (fun c => { c with task := some (theTask false) })).cores }

/-- Claim 0 with status flags. -/
def flagged : State :=
  (scalars []).onCore (fun c =>
    { c with claims := [(0, { Claim.reset with held := true, a := 1, b := 1, status := { ovf := true, inv := false, sat := true, chk := true, mask := 0xABC, compared := 77 } })] })

/-- XpQueues: pops: empty, not landed. -/
theorem witness_XpQueues_pops_empty_not_landed :
    xpHolds hd queues = true ∧ queues.core.aqHead 0 = none ∧ (queues.core.aqHead 2).any (fun e => !e.landed) = true := by decide +kernel

/-- XpQueues: pops: landed. -/
theorem witness_XpQueues_pops_landed :
    (queues.core.aqHead 1).any (fun e => e.landed) = true ∧ (vResult queues.core 9 0x5678).isSome = true ∧
      (maskedWrites queues.core 9 0x5678 (queues.core.xmGet 2)).isSome = true := by decide +kernel

/-- XpQueues: pushes: full, room. -/
theorem witness_XpQueues_pushes_full_room :
    32 ≤ queues.core.xqUsed 3 1000 ∧ queues.core.xqUsed 2 1000 < 32 ∧ (vSrcOf queues.core 1).isSome = true := by decide +kernel

/-- XpQueues: counts. -/
theorem witness_XpQueues_counts :
    xpHolds hd queues = true ∧ armedOn queues 0 0 0 = none ∧ canWrite queues.core 0 9 = true := by decide +kernel

/-- XpBufferWords: a word that has no place. -/
theorem witness_XpBufferWords_a_word_that_has_no_place :
    xpHolds hd vectors = true ∧ (bufPlace vectors.core (FM.mk 9 0 1 0 0 0) false).isOk = false ∧
      (bufPlace vectors.core (FM.mk 9 0 1 0 0 0) true).isOk = false := by decide +kernel

/-- XpBufferWords: a vector and a tile of AB. -/
theorem witness_XpBufferWords_a_vector_and_a_tile_of_ab :
    xpHolds hd vectors = true ∧ armedOn vectors 0 0 2 = none ∧ armedOn vectors 0 0 0 = none ∧ (bufPlace vectors.core (FM.mk 9 0 2 0 0 4) false).isOk = true ∧
      (bufPlace vectors.core (FM.mk 1 0 34 0 0 4) true).isOk = true ∧ (srcOf vectors.core 2 1).isSome = true := by decide +kernel

/-- XpPigeonAndViews: DEFER. -/
theorem witness_XpPigeonAndViews_defer :
    xpHolds hd queues = true ∧ armedOn queues 0 0 0 = none ∧ (vSrcOf queues.core 1).isSome = true ∧ (vSrcOf queues.core 2).isSome = true := by decide +kernel

/-- XpPigeonAndViews: DEFCNT, DEFTAKE. -/
theorem witness_XpPigeonAndViews_defcnt_deftake :
    xpHolds hd queues = true ∧ canWrite queues.core 0 9 = true ∧ (slotOf queues.core 1 10).isSome = true ∧ (slotOf queues.core 1 11).isSome = true := by decide +kernel

/-- XpPigeonAndViews: VIEW. -/
theorem witness_XpPigeonAndViews_view :
    viewOk 0 (defaultView 0) = true ∧ viewOk 0 7 = false ∧ (sSrcOf (scalars [defaultView 0, 7]).core 2) = some 7 := by decide +kernel

/-- XpLoopsCount: an entry, none, and a loop that runs. -/
theorem witness_XpLoopsCount_an_entry_none_and_a_loop_that_runs :
    (let s := looping; loopEntry s (theTask false) 1 = none ∧ loopEntry s (theTask false) 0 = some ([{ trip := 4, kind := 0, strides := List.replicate 8 0, first := 0, last := 0 }, { trip := 2, kind := 1, strides := List.replicate 8 0, first := 0, last := 0 }], 3) ∧ s.core.xp.loop = none ∧ s.core.task = some (theTask false)) := by decide +kernel

/-- XpLoopsCount: LBRK. -/
theorem witness_XpLoopsCount_lbrk :
    vectors.core.bqHead 1000 = none ∧ (let s := vectors.onCore (fun c => { c with bq := [{ bit := true, at_ := 1000, gone := none }] }); s.core.bqHead 1000 = some true) := by decide +kernel

/-- XpLoopsCount: a pass that has a next, and the last. -/
theorem witness_XpLoopsCount_a_pass_that_has_a_next_and_the_last :
    (let l (k t : Nat) : LoopLevel := { trip := t, kind := k, strides := [], first := 0, last := 0 }; nextIndex [l 0 2, l 1 3, l 0 4] [1, 2, 0] = some [0, 2, 1] ∧ nextIndex [l 0 2, l 1 3, l 0 4] [1, 0, 3] = none) := by decide +kernel

/-- XpUnitWords: scalars that pass the checks, and a queue with room and without. -/
theorem witness_XpUnitWords_scalars_that_pass_the_checks_and_a_queue_with_room_and_without :
    (let s := scalars (unitOperands.getD 0 []); xpHolds hd s = true ∧ armedOn s 0 0 0 = none ∧ turnCheck false s.core (unitOperands.getD 0 []) = none ∧ s.core.queueFull .xpose = false ∧ (filled s .xpose).core.queueFull .xpose = true) ∧ (let s := scalars (unitOperands.getD 1 []); xpHolds hd s = true ∧ armedOn s 0 0 0 = none ∧ turnCheck true s.core (unitOperands.getD 1 []) = none ∧ s.core.queueFull .xpose = false ∧ (filled s .xpose).core.queueFull .xpose = true) ∧ (let s := scalars (unitOperands.getD 2 []); xpHolds hd s = true ∧ armedOn s 0 0 0 = none ∧ spillCheck s true s.core (unitOperands.getD 2 []) = none ∧ s.core.queueFull .spill = false ∧ (filled s .spill).core.queueFull .spill = true) ∧ (let s := scalars (unitOperands.getD 3 []); xpHolds hd s = true ∧ armedOn s 0 0 0 = none ∧ spillCheck s false s.core (unitOperands.getD 3 []) = none ∧ s.core.queueFull .spill = false ∧ (filled s .spill).core.queueFull .spill = true) ∧ (let s := scalars (unitOperands.getD 4 []); xpHolds hd s = true ∧ armedOn s 0 0 0 = none ∧ wloadCheck 0 s.core (unitOperands.getD 4 []) = none ∧ s.core.queueFull (.claim 0) = false ∧ (filled s (.claim 0)).core.queueFull (.claim 0) = true) ∧ (let s := scalars (unitOperands.getD 5 []); xpHolds hd s = true ∧ armedOn s 0 0 0 = none ∧ wloadCheck 0 s.core (unitOperands.getD 5 []) = none ∧ s.core.queueFull (.claim 0) = false ∧ (filled s (.claim 0)).core.queueFull (.claim 0) = true) ∧ (let s := scalars (unitOperands.getD 6 []); xpHolds hd s = true ∧ armedOn s 0 0 0 = none ∧ mstreamCheck false 0 s.core (unitOperands.getD 6 []) = none ∧ s.core.queueFull (.claim 0) = false ∧ (filled s (.claim 0)).core.queueFull (.claim 0) = true) ∧ (let s := scalars (unitOperands.getD 7 []); xpHolds hd s = true ∧ armedOn s 0 0 0 = none ∧ mstreamCheck true 0 s.core (unitOperands.getD 7 []) = none ∧ s.core.queueFull (.claim 0) = false ∧ (filled s (.claim 0)).core.queueFull (.claim 0) = true) ∧ (let s := scalars (unitOperands.getD 8 []); xpHolds hd s = true ∧ armedOn s 0 0 0 = none ∧ mvstreamCheck 0 s.core (unitOperands.getD 8 []) = none ∧ s.core.queueFull (.claim 0) = false ∧ (filled s (.claim 0)).core.queueFull (.claim 0) = true) := by decide +kernel

/-- XpUnitWords: a check that fails. -/
theorem witness_XpUnitWords_a_check_that_fails :
    turnCheck false (scalars [0, 0, 0, 0, 0]).core [0, 0, 0, 0, 0] = some (.reservedField, 0) := by decide +kernel

/-- XpUnitWords: TEOB and TDRAIN. -/
theorem witness_XpUnitWords_teob_and_tdrain :
    (scalars []).core.queueFull (.claim 2) = false ∧ (filled (scalars []) (.claim 2)).core.queueFull (.claim 2) = true := by decide +kernel

/-- TrellisWords: a reserved word, a shape that is none. -/
theorem witness_TrellisWords_a_reserved_word_a_shape_that_is_none :
    2 ^ 14 ≤ (BitVec.ofNat 64 (2^14) : Word).toNat ∧ 12 ≤ (0xC11 : Word).toNat / 2 ^ 8 % 2 ^ 4 ∧ (0x55 : Word).toNat < 2 ^ 14 ∧
      (0x55 : Word).toNat % 16 ∉ [1, 2, 3, 4, 6, 12] := by decide +kernel

/-- TrellisWords: a claim that is held, and plots that are free. -/
theorem witness_TrellisWords_a_claim_that_is_held_and_plots_that_are_free :
    ((scalars [0x111]).core.claim 0).held = true ∧ ((scalars [0x3143]).core.claim 1).held = false ∧
      (List.range 12).all (fun j => ((scalars [0x3143]).core.claim 0).plots.all (fun p => p != (1 + j) % 12 || j == 11)) = true := by decide +kernel

/-- TrellisWords: TPRI. -/
theorem witness_TrellisWords_tpri :
    4 ≤ (4 : Word).toNat ∧ ((scalars [3]).core.claim 1).held = false := by decide +kernel

/-- TrellisWords: RELEASE of a free claim, with and without a batch. -/
theorem witness_TrellisWords_release_of_a_free_claim_with_and_without_a_batch :
    ((scalars []).core.claim 1).held = false ∧ ((scalars []).core.claim 0).batch = none ∧
      (((scalars []).onCore (fun c => { c with claims := tput c.claims 0 { c.claim 0 with batch := some ⟨0, 0, 0, 0, 0, false, 0⟩ } })).core.claim 0).batch.isSome = true := by decide +kernel

/-- TrellisWords: the status reads. -/
theorem witness_TrellisWords_the_status_reads :
    xpHolds hd flagged = true ∧ (sResult flagged.core 9 5).isSome = true := by decide +kernel

/-- Operands with which each word of the engine complex passes its checks, in the order of COPY, COPY.V, FILL, GATHER, SCATTER, CSTREAM, ROUTE, RCSNAP,
RCREAD, RPUT, RGET, RAMO, MCAST, COURIER and SPAWN. -/
def engineOperands : List (List Word) :=
  let shape : Word := BitVec.ofNat 64 (256 + 2 ^ 24)
  [[0x200000, 0x400000, shape, 0, 0], [0x200000, 0x400000, shape, 0, 0, 0], [7, 0, 0x400000, shape, 0, 0],
   [0x200000, 0x200100, shape, BitVec.ofNat 64 256, 0, 0x400000], [0x400000, 0x200100, shape, BitVec.ofNat 64 256, 0, 0x200000],
   [0x200000, 3, shape, 0, 0], [0, 0, 0, BitVec.ofNat 64 (2 + 2 ^ 32), 16, 0], [0x400000], [0x400000],
   [0x200000, 0x400000, BitVec.ofNat 64 (5 + 256 * 2 ^ 16), 0x400008], [0x400000, 0x200000, BitVec.ofNat 64 (5 + 256 * 2 ^ 16), 0],
   [0x400000, 5, BitVec.ofNat 64 (5 + 2 ^ 20), 7, 0x400008], [0x200000, 0x400000, BitVec.ofNat 64 (3 + 256 * 2 ^ 16), 0x400008, 0x400040],
   [0x200000, 0x400000, 0x200000], [0x200000, 0x400000]]

/-- The committed task with operands in a30 and the registers after it. -/
def operands (ps : List Word) : State :=
  committed.onCore (fun c => { c with a := c.a ++ ps.mapIdx (fun i w => (30 + i, w)) })

/-- The task with a COURIER that runs: its program and table on the page that may be read, its flag on the page that may be written. -/
def courier : State :=
  { committed.onCore (fun c =>
      { c with
        cmds := [{ Cmd.blank 7 .courier .courier 900 with params := [0x200000, 0x400000, 0x200000], started := some 900 }]
        courier := { Courier.idle with running := true, cmd := 7, prog := 0x200000, flag := 0x400000, table := 0x200000, pc := 0x200010, ofs := 64,
                                       wb := List.replicate 8 0 }
        wp := [(2, 512)]
        tlb := match walk committed 0 0x200000 with | .ok l => [tlbEntryOf committed 0 0 0x200000 l] | .error _ => [] }) with
    seq := 20, mem := writeBytes committed.mem 0x400000 (wordsBytes [0x200000, 0x400000, BitVec.ofNat 64 (256 + 2 ^ 24), 0, 0])
    focus := ⟨0, 0, 0x200010⟩ }

/-- Both processors of the committed task, or of one that is not, at a joint word, with empty queues. -/
def joint (done : Bool) : State := (taskWith done).onCore (fun c => { c with xq := [] })

/-- The task with one result to land. -/
def lone (w : RegWrite) : State := vectors.onCore (fun c => { c with landings := [⟨980, 0x1000, 990, [w]⟩] })

/-- EngineWords: operands that pass the checks, and a queue with room and without. -/
theorem witness_EngineWords_operands_that_pass_the_checks_and_a_queue_with_room_and_without :
    (List.range 15).all (fun i => let ps := engineOperands.getD i []; let s := operands ps; apHolds hd s && (match (ecWords s (fe 5 3 30 1))[i]? with
        | some e => decide (e.2.2.2.1 = ps.length) && decide (e.2.2.2.2 s.core ps = none) && !s.core.queueFull e.2.1 && (filled s e.2.1).core.queueFull e.2.1
        | none => false)) = true := by decide +kernel

/-- EngineWords: operands that fail one. -/
theorem witness_EngineWords_operands_that_fail_one :
    (List.range 15).all (fun i => let ps := List.replicate 6 (0x10000000001 : Word); let s := task.onCore (fun c => { c with a := c.a ++ (List.range 6).map (fun k => (30 + k, 0x10000000001)) }); apHolds hd s && (match (ecWords s (fe 5 3 30 1))[i]? with
        | some e => (e.2.2.2.2 s.core (ps.take e.2.2.2.1)).isSome | none => false)) = true := by decide +kernel

/-- CourierWords: a pointer that is reached and one that is not. -/
theorem witness_CourierWords_a_pointer_that_is_reached_and_one_that_is_not :
    courier.core.courier.wb.getD 2 0 + 256 * 2 ≤ courier.core.wpBefore 2 1000 ∧
      courier.core.wpBefore 2 1000 < courier.core.courier.wb.getD 2 0 + 256 * 3 := by decide +kernel

/-- CourierWords: a COPY: a full queue, a descriptor that passes its checks. -/
theorem witness_CourierWords_a_copy_a_full_queue_a_descriptor_that_passes_its_checks :
    (courier.core.cmds.find? (fun x => x.id == courier.core.courier.cmd)).isSome = true ∧ courier.core.queueFull (.chan 2) = false ∧
       (let s := courier.onCore (fun c => { c with cmds := c.cmds ++ List.replicate 16 (Cmd.blank 9 (.chan 2) .copy 900) }); s.core.queueFull (.chan 2) = true) ∧
       (match engineRead courier 0 0 (courier.core.cmds.headD (Cmd.blank 0 .spawn .copy 0)) 0 0x200000 40 false true with
        | (.ok bs, t) => decide (t.focus = courier.focus) && t.core.cmds.all (fun x => decide (x.id < t.seq)) &&
          decide (copyCheck t .copy t.core ((bytesWords 5 bs).mapIdx (fun i w => if i < 2 then addOfs w t.core.courier.ofs else w)) = none)
        | _ => false) = true := by decide +kernel

/-- CourierWords: a flag that can be written. -/
theorem witness_CourierWords_a_flag_that_can_be_written :
    (match writeFlag courier 0 0 (courier.core.cmds.headD (Cmd.blank 0 .spawn .copy 0)) (BitVec.ofNat 64 (2 ^ 56 + 77)) with | (.ok _, _) => true | _ => false) = true := by decide +kernel

/-- CourierWords: an end that waits for its copies, and one that does not. -/
theorem witness_CourierWords_an_end_that_waits_for_its_copies_and_one_that_does_not :
    (let s := courier.onCore (fun c => { c with courier := { c.courier with copies := [7] } });
      s.core.cmds.any (fun x => s.core.courier.copies.contains x.id) = true) ∧
      courier.core.cmds.any (fun x => courier.core.courier.copies.contains x.id) = false ∧
       [2 * 2 ^ 56, 0x80 * 2 ^ 56 + 2 ^ 48 + 16 * 2 ^ 24].all (fun flag => match (coreOf (courierEnding courier flag) 0 0).cmdOf 7 with
         | some k => decide (k.unit = 1 ∧ k.aux = [flag]) && (match writeFlag (courierEnding courier flag) 0 0 k (BitVec.ofNat 64 flag) with | (.ok _, _) => true | _ => false)
         | none => false) = true := by decide +kernel

/-- JointWords: a queue that holds an entry, a batch. -/
theorem witness_JointWords_a_queue_that_holds_an_entry_a_batch :
    (jointCheck task true).isSome = true ∧ (jointCheck task false).isSome = true := by decide +kernel

/-- JointWords: commands that are not complete. -/
theorem witness_JointWords_commands_that_are_not_complete :
    (let s := filled (joint false) .spill; jointCheck s true = none ∧ jointCheck s false = none ∧ s.core.cmds ≠ []) := by decide +kernel

/-- JointWords: no command, before COMMIT and after it. -/
theorem witness_JointWords_no_command_before_commit_and_after_it :
    (let s := joint false; jointCheck s true = none ∧ jointCheck s false = none ∧ s.core.cmds = [] ∧ s.core.traps = [] ∧ s.core.task = some (theTask false) ∧
      (List.range 4).all (fun n => !(s.core.claim n).held) = true) ∧
       (let s := joint true; jointCheck s false = none ∧ s.core.cmds = [] ∧ s.core.traps = [] ∧ s.core.task = some (theTask true)) := by decide +kernel

/-- ResultsLandAsScheduled: a result of a core that lands alone. -/
theorem witness_ResultsLandAsScheduled_a_result_of_a_core_that_lands_alone :
    ∀ w ∈ ([.ap 3 7, .apPred 7 false, .xpPred 3 true, .apMaskOr 3 5, .apMaskClear 3, .xpMask 2 5 (BitVec.allOnes 256), .offset 3 5, .view 3 5, .latch 5 0, .latchPart 5 7 [1, 2], .deferOvf, .space 8 [1, 2], .buf 1 8 [1, 2], .buf 2 8 [1, 2], .buf 3 8 [1, 2], .wp 7 3] : List RegWrite), (lone w).core.landings = [⟨980, 0x1000, 990, [w]⟩] ∧
      (990 : Nat) ≤ (lone w).cycle := by decide +kernel

/-- ResultsLandAsScheduled: two results of one register; a run and its latch. -/
theorem witness_ResultsLandAsScheduled_two_results_of_one_register_a_run_and_its_latch :
    (let s := vectors.onCore (fun c => { c with landings := [⟨980, 0x1000, 990, [.ap 3 7]⟩, ⟨981, 0x1000, 1000, [.ap 3 8]⟩] }); s.core.landings = [⟨980, 0x1000, 990, [.ap 3 7]⟩, ⟨981, 0x1000, 1000, [.ap 3 8]⟩] ∧ (990 : Nat) ≤ s.cycle ∧ (1000 : Nat) ≤ s.cycle) := by decide +kernel

/-- ResultsLandAsScheduled: a result of a control core. -/
theorem witness_ResultsLandAsScheduled_a_result_of_a_control_core :
    (let s := onCtl graph 0 (fun c => { c with landings := [⟨980, 0x1000, 990, [.cc 0 9 7]⟩] }); (ctlOf s 0).landings = [⟨980, 0x1000, 990, [.cc 0 9 7]⟩] ∧ (990 : Nat) ≤ s.cycle) := by decide +kernel

/-- WritesPerform: a write of each kind that is under way. -/
theorem witness_WritesPerform_a_write_of_each_kind_that_is_under_way :
    (({ committed with writes := [{ id := 3, agent := apAgent committed, die := 0, core := 0, seq := 3, at_ := 980, hubAt := 990, coreAt := 990, dieAt := 995, due := 1000, kind := .rc, release := false, act := .bytes [(0x800000, [1, 2, 0, 4])] }] } : State).writes.find? (fun x => x.id == 3)).isSome = true ∧
      (({ committed with writes := [{ id := 3, agent := apAgent committed, die := 0, core := 0, seq := 3, at_ := 980, hubAt := 990, coreAt := 990, dieAt := 995, due := 1000, kind := .rc, release := false, act := .amo .add 0x800000 8 5 0 (.core 0 0) (.ap 9) 0x200010 }] } : State).writes.find? (fun x => x.id == 3)).isSome = true ∧
      (({ committed with writes := [{ id := 3, agent := apAgent committed, die := 0, core := 0, seq := 3, at_ := 980, hubAt := 990, coreAt := 990, dieAt := 995, due := 1000, kind := .rc, release := false, act := .amo .swap 0x800000 4 5 0 (.core 0 0) (.ap 9) 0x200010 }] } : State).writes.find? (fun x => x.id == 3)).isSome = true ∧
      (({ committed with writes := [{ id := 3, agent := apAgent committed, die := 0, core := 0, seq := 3, at_ := 980, hubAt := 990, coreAt := 990, dieAt := 995, due := 1000, kind := .rc, release := false, act := .barrier .init 0x010000000000 5 0x200010 }] } : State).writes.find? (fun x => x.id == 3)).isSome = true ∧
      (({ committed with writes := [{ id := 3, agent := apAgent committed, die := 0, core := 0, seq := 3, at_ := 980, hubAt := 990, coreAt := 990, dieAt := 995, due := 1000, kind := .rc, release := false, act := .blocks 11 [{ pa := 0x800000, scale := 0x900000, first := 31, vals := [.fin false 3 0] }] }] } : State).writes.find? (fun x => x.id == 3)).isSome = true ∧
      readErrors { committed with writes := [] } 0x800000 8 = (.clean, { committed with writes := [] }) ∧ committed.mem.wf := by decide +kernel

/-- What MemoryReadsWhatWasWritten asks of a state holds of one: a memory in its canonical form, and a run beside the one written. -/
theorem witness_MemoryReadsWhatWasWritten :
    committed.mem.wf ∧ (0x800000 : Nat) + 4 ≤ 0x800004 := by decide +kernel

/-- The task whose aq 1 has an entry that reads eight bytes of the page that may be read. -/
def landing : State :=
  task.onCore (fun c => { c with aq := [(1, [{ aqEntry false with pieces := [.mem 0x400008 8], due := 1000 }]), (0, [{ aqEntry false with pieces := [.mem 0x400008 8], due := 1000 }])] })

/-- The same with the entry's bytes in a bank of the pool whose next read is rebuilt. -/
def rebuilding : State :=
  { task.onCore (fun c => { c with aq := [(1, [{ aqEntry false with pieces := [.mem 0x010000000008 8], due := 1000 }])] }) with injPool := [(0, 1)] }

/-- The task whose AP waits. -/
def apWaits (w : ProcWait) : State := task.onCore (fun c => { c with ap := { c.ap with wait := w } })

/-- The task with an XPOSE of two rows of three elements of 4 bytes from AB into CB, started or not. -/
def turnCmd (started : Option Nat) : Cmd :=
  { Cmd.blank 7 .xpose .xpose 900 with
    params := [inSpace 2 0, inSpace 3 0, BitVec.ofNat 64 (3 + 2 * 2 ^ 24), BitVec.ofNat 64 (12 + 8 * 2 ^ 32), 2], started := started }

/-- The task with one command. -/
def withCmd (m : Cmd) : State := task.onCore (fun c => { c with cmds := [m], ab := writeBytes [] 0 ((List.range 64).map (fun i => BitVec.ofNat 8 (i + 1))) })

/-- The task with a claim of one plot, its bank loaded, and one command of it; its batch is open or not. -/
def trellisWith (k : CmdKind) (open_ : Bool) (started : Option Nat) : State :=
  task.onCore (fun x =>
    { x with
      cmds := [{ Cmd.blank 7 (.claim 1) k 900 with params := [0, 0, 0, 0], started := started }]
      claims := [(1, { Claim.reset with
        held := true, a := 1, b := 1
        active := some { k := 4, n := 4, wfmt := 0, doneAt := 900, wts := [], params := [0, 0, 0, 0], half := 0, vec := false, sums := [] }
        batch := if open_ then some { afmt := 0, planes := 1, out := 0, cstride := 256, half := 0, acc := false, rows := 1 } else none })] })

/-- The same with a weight load of 4 rows of 4 bytes from WB, and no bank. -/
def trellisLoad (k : CmdKind) : State :=
  task.onCore (fun x =>
    { x with
      cmds := [{ Cmd.blank 7 (.claim 1) k 900 with params := [inSpace 1 0, BitVec.ofNat 64 (4 + 4 * 2 ^ 16 + 2 ^ 32), 4] }]
      claims := [(1, { Claim.reset with held := true, a := 1, b := 1 })] })

/-- The same with the load at its end. -/
def trellisDone (k : CmdKind) : State :=
  (trellisLoad k).onCore (fun x =>
    let b : Bank := { k := 4, n := 4, wfmt := 1, doneAt := 1000, wts := [], params := [inSpace 1 0, BitVec.ofNat 64 (4 + 4 * 2 ^ 16 + 2 ^ 32), 4], half := 0, vec := false, sums := [] }
    { x with cmds := x.cmds.map (fun m => { m with started := some 964 }), wb := writeBytes [] 0 [1, 2, 3, 4, 5]
             claims := [(1, { Claim.reset with held := true, a := 1, b := 1, active := if k = .wload then some b else none, shadow := if k = .wload then none else some b })] })

/-- The task with a claim whose RELEASE ends its drain in this cycle. -/
def drained : State :=
  task.onCore (fun x => { x with claims := [(1, { Claim.reset with held := true, a := 1, b := 1, draining := true, endsAt := some 1000 })] })

/-- The task with a row of a stream that lands in this cycle. -/
def trellisRow : State :=
  task.onCore (fun x =>
    { x with claims := [(1, { Claim.reset with
        held := true, a := 1, b := 1
        rows := [{ cmd := 7, due := 1000, cells := [(0, [.fin false 3 0, .fin false 1 1]), (4, [.fin true 1 0])], acc := false, int := false, lanes := [] }] })] })

/-- AccessEvents: an entry that lands. -/
theorem witness_AccessEvents_an_entry_that_lands :
    [0, 1].all (fun q => match (tget landing.core.aq q []).find? (fun y => y.id == 4) with
       | some e => decide (cellHold landing e.reads ≤ landing.cycle) && !rebuilds landing e.reads && decide (barrierHold landing 0 e.reads ≤ landing.cycle) && (match readPieces landing (apOf landing 0 0) 0 0 e.seq e.pieces with | (_, b, _) => !b) | none => false) = true := by decide +kernel

/-- AccessEvents: an entry whose bank rebuilds it. -/
theorem witness_AccessEvents_an_entry_whose_bank_rebuilds_it :
    (let s := rebuilding; match (tget s.core.aq 1 []).find? (fun y => y.id == 4) with
       | some e => decide (cellHold s e.reads ≤ s.cycle) && rebuilds s e.reads && (match readPieces s (apOf s 0 0) 0 0 e.seq e.pieces with | (_, b, _) => !b) | none => false) = true := by decide +kernel

/-- AccessEvents: a memory condition that is read again. -/
theorem witness_AccessEvents_a_memory_condition_that_is_read_again :
    (let s := apWaits (.conds true [(BitVec.ofNat 64 (3 * 2 ^ 60 + 0x200008) : Word)] 3 none [] 900);
      s.core.ap.wait = .conds true [(BitVec.ofNat 64 (3 * 2 ^ 60 + 0x200008) : Word)] 3 none [] 900 ∧
      ((BitVec.ofNat 64 (3 * 2 ^ 60 + 0x200008) : Word)).toNat / 2 ^ 60 = 3 ∧
        (splitAccess 0 (some 0) s.core.asid s.core.vt { write := false, raw := true, ordered := false, hostTrap := false } (((BitVec.ofNat 64 (3 * 2 ^ 60 + 0x200008) : Word)).toNat % 2 ^ 56) 8 s).2.1 = none) ∧
          (let s := apWaits (.conds true [(BitVec.ofNat 64 (4 * 2 ^ 60 + 0x200008) : Word)] 3 none [] 900);
          s.core.ap.wait = .conds true [(BitVec.ofNat 64 (4 * 2 ^ 60 + 0x200008) : Word)] 3 none [] 900 ∧
          ((BitVec.ofNat 64 (4 * 2 ^ 60 + 0x200008) : Word)).toNat / 2 ^ 60 = 4 ∧
        (splitAccess 0 (some 0) s.core.asid s.core.vt { write := false, raw := true, ordered := false, hostTrap := false } (((BitVec.ofNat 64 (4 * 2 ^ 60 + 0x200008) : Word)).toNat % 2 ^ 56) 8 s).2.1 = none) := by decide +kernel

/-- AccessEvents: a wait whose deadline has come. -/
theorem witness_AccessEvents_a_wait_whose_deadline_has_come :
    (let s := apWaits (.conds true [BitVec.ofNat 64 (2 ^ 60 + 3)] 3 (some 1000) [] 900); let u := s.onCore (fun c => { c with tokens := [(3, [(9, none)])] });
       u.core.ap.wait = .conds true [BitVec.ofNat 64 (2 ^ 60 + 3)] 3 (some 1000) [] 900 ∧ 1000 ≤ u.cycle ∧
         waitHolds u.core u.cycle true [BitVec.ofNat 64 (2 ^ 60 + 3)] [] = false) := by decide +kernel

/-- AccessEvents: a walk to a page that is resident here, and to one that is not. -/
theorem witness_AccessEvents_a_walk_to_a_page_that_is_resident_here_and_to_one_that_is_not :
    (match walk task 0 0x200000, walk task 0 0x800000, walk task 0 0xA00000 with | .ok l, .ok k, .ok h => l.res && l.home == 0 && !leaving task 0 l && decide (task.shoots = []) && !k.res && h.home != 0 | _, _, _ => false) = true := by decide +kernel

/-- AccessEvents: a shootdown that a SEAL waits for. -/
theorem witness_AccessEvents_a_shootdown_that_a_seal_waits_for :
    (let s : State := { apWaits (.seal 6) with shoots := [{ id := 6, asid := 0, vint := none, va := 0x400000, len := 4096, held := none, done := .seal 0 0 }] };
       (s.shoots.find? (fun y => y.id == 6)).map (fun k => k.done) = some (.seal 0 0) ∧ s.core.ap.wait = .seal 6) := by decide +kernel

/-- AccessEvents: a cell of each make. -/
theorem witness_AccessEvents_a_cell_of_each_make :
    [true, false].all (fun fresh => let s : State := { task with making := [{ id := 3, asid := 0, vint := 5, va := 0x1000, size := 4096, fresh := fresh, base := 0x1000, frame := 0x5000, readyAt := 1000, taken := true }] }
       (s.making.find? (fun y => y.id == 3)).isSome) = true := by decide +kernel

/-- AccessEvents: a wait for a cell that is too long. -/
theorem witness_AccessEvents_a_wait_for_a_cell_that_is_too_long :
    (let s : State := { apWaits (.cell 8) with cellWaits := [{ id := 8, hubAt := 990, asid := 0, vint := 5, va := 0x1000, src := 0, waiter := .ap 0 0, until_ := some 1000 }] };
       (s.cellWaits.find? (fun y => y.id == 8)).map (fun w => w.waiter) = some (.ap 0 0) ∧ s.core.ap.wait = .cell 8) := by decide +kernel

/-- AccessEvents: a RETIRING vintage without records. -/
theorem witness_AccessEvents_a_retiring_vintage_without_records :
    liveRecords vintages 0 7 = 0 ∧ (spaceOf vintages 0).stateOf 7 = .retiring := by decide +kernel

/-- CommandEvents: a command that is gone. -/
theorem witness_CommandEvents_a_command_that_is_gone :
    task.core.cmds.find? (fun y => y.id == 7) = none := by decide +kernel

/-- CommandEvents: commands that do not start: begun, their token not met, their unit taken. -/
theorem witness_CommandEvents_commands_that_do_not_start_begun_their_token_not_met_their_unit_taken :
    (let m := turnCmd (some 950); (withCmd m).core.cmds.find? (fun y => y.id == 7) = some m ∧ m.started.isSome = true) ∧
      (let m := { turnCmd none with waits := [(3, [2])] }; let s := (withCmd m).onCore (fun c => { c with tokens := [(3, [(2, none)])] });
      s.core.cmds.find? (fun y => y.id == 7) = some m ∧ cmdReady s.core m s.cycle = false) ∧
       (let m := Cmd.blank 7 .courier .courier 900; let s := (withCmd m).onCore (fun c => { c with grants := [(9, 2000)] }); s.core.cmds.find? (fun y => y.id == 7) = some m ∧ unitReady s 0 0 m = false) := by decide +kernel

/-- CommandEvents: an XPOSE that starts. -/
theorem witness_CommandEvents_an_xpose_that_starts :
    (let m := turnCmd none; let s := withCmd m; s.core.cmds.find? (fun y => y.id == 7) = some m ∧ m.started = none ∧ cmdReady s.core m s.cycle = true ∧ unitReady s 0 0 m = true) := by decide +kernel

/-- CommandEvents: units that have nothing to land. -/
theorem witness_CommandEvents_units_that_have_nothing_to_land :
    (∀ m ∈ [turnCmd none, { turnCmd (some 950) with doneAt := some 980 }], (withCmd m).core.cmds.find? (fun y => y.id == 7) = some m ∧
      (m.started = none ∨ m.doneAt.isSome = true)) := by decide +kernel

/-- CommandEvents: an XPOSE that lands. -/
theorem witness_CommandEvents_an_xpose_that_lands :
    (let m := turnCmd (some 950); let s := withCmd m; s.core.cmds.find? (fun y => y.id == 7) = some m ∧ m.started.isSome = true ∧ m.doneAt = none ∧ m.queue = .xpose ∧ m.kind = .xpose ∧ armedOn s 0 0 (turnOf m.params).src.space = none) := by decide +kernel

/-- CommandEvents: a command that completes. -/
theorem witness_CommandEvents_a_command_that_completes :
    (let m := { turnCmd (some 950) with doneAt := some 1000, kp := 3 }; let s := (withCmd m).onCore (fun c => { c with tokens := [(3, [(7, none)])] }); s.core.cmds = [m] ∧ m.doneAt = some 1000 ∧ 1000 ≤ s.cycle ∧ (∀ p ∈ tget s.core.tokens m.kp [], p.1 = m.id → p.2 = none)) := by decide +kernel

/-- CommandEvents: a command that is not done. -/
theorem witness_CommandEvents_a_command_that_is_not_done :
    (∀ m ∈ (withCmd { turnCmd (some 950) with doneAt := some 1001 }).core.cmds, (match m.doneAt with | some t => decide (1000 < t) | none => true) = true) := by decide +kernel

/-- CommandEvents: a bound that is overrun, and one whose command has not begun. -/
theorem witness_CommandEvents_a_bound_that_is_overrun_and_one_whose_command_has_not_begun :
    (let m := { turnCmd (some 950) with bound := some 10 }; (withCmd m).core.cmds.find? (fun y => y.id == 7) = some m ∧ m.started.isSome = true) ∧ (let m := { turnCmd none with bound := some 10 }; (withCmd m).core.cmds.find? (fun y => y.id == 7) = some m ∧ m.started = none) := by decide +kernel

/-- CommandEvents: a command of a claim that does not start. -/
theorem witness_CommandEvents_a_command_of_a_claim_that_does_not_start :
    (let s := trellisWith .tdrain true (some 950); (match s.core.cmds.find? (fun y => y.id == 7) with | some m => decide (m.queue = .claim 1 ∧ m.started.isSome = true) && true | none => false) = true) := by decide +kernel

/-- CommandEvents: a WLOAD and a WLOADP that start. -/
theorem witness_CommandEvents_a_wload_and_a_wloadp_that_start :
    ∀ k ∈ [CmdKind.wload, .wloadp], (let s := trellisLoad k; (match s.core.cmds.find? (fun y => y.id == 7) with | some m => decide (m.queue = .claim 1 ∧ m.kind = k ∧ m.started = none) && trellisReady s 0 0 m && (let u := markStarted s 0 0 m; let y := coreOf u 0 0; plainCode (bits (wordOf m.params 1) 35 32) && (y.claim 1).batch.isNone && rowsFit y m.half 1 (adrBase (wordOf m.params 0)) (bits (wordOf m.params 2) 31 0) 0 (bits (wordOf m.params 1) 8 0) (bits (wordOf m.params 1) 24 16 * trellisSize (bits (wordOf m.params 1) 35 32))) | none => false) = true) := by decide +kernel

/-- CommandEvents: streams that start. -/
theorem witness_CommandEvents_streams_that_start :
    ∀ k ∈ [CmdKind.mstream, .mstreamp, .mvstream], (let s := trellisWith k false none; (match s.core.cmds.find? (fun y => y.id == 7) with | some m => decide (m.queue = .claim 1 ∧ m.kind = k ∧ m.started = none) && trellisReady s 0 0 m | none => false) = true) := by decide +kernel

/-- CommandEvents: a TEOB and a TDRAIN without an open batch. -/
theorem witness_CommandEvents_a_teob_and_a_tdrain_without_an_open_batch :
    ∀ k ∈ [CmdKind.teob, .tdrain], (let s := trellisWith k false none; (match s.core.cmds.find? (fun y => y.id == 7) with | some m => decide (m.queue = .claim 1 ∧ m.kind = k ∧ m.started = none) && trellisReady s 0 0 m && (((coreOf (markStarted s 0 0 m) 0 0).claim 1).batch.isNone && decide ((coreOf (markStarted s 0 0 m) 0 0).claimCmds 1 = [{ m with started := some 1000 }])) | none => false) = true) := by decide +kernel

/-- CommandEvents: a TEOB and a TDRAIN on an open batch. -/
theorem witness_CommandEvents_a_teob_and_a_tdrain_on_an_open_batch :
    ∀ k ∈ [CmdKind.teob, .tdrain], (let s := trellisWith k true none; (match s.core.cmds.find? (fun y => y.id == 7) with | some m => decide (m.queue = .claim 1 ∧ m.kind = k ∧ m.started = none) && trellisReady s 0 0 m && (((coreOf (markStarted s 0 0 m) 0 0).claim 1).batch.isSome && decide ((coreOf (markStarted s 0 0 m) 0 0).claimCmds 1 = [{ m with started := some 1000 }])) | none => false) = true) := by decide +kernel

/-- CommandEvents: a weight load that is complete. -/
theorem witness_CommandEvents_a_weight_load_that_is_complete :
    ∀ k ∈ [CmdKind.wload, .wloadp], (let s := trellisDone k; (match s.core.cmds.find? (fun y => y.id == 7), (if k = .wload then (s.core.claim 1).active else (s.core.claim 1).shadow) with
         | some m, some b => decide (m.queue = .claim 1 ∧ m.kind = k ∧ b.doneAt = s.cycle ∧ b.params = m.params ∧ b.vec = false) | _, _ => false) = true ∧
           armedOn s 0 0 1 = none) := by decide +kernel

/-- CommandEvents: a stream that has not begun. -/
theorem witness_CommandEvents_a_stream_that_has_not_begun :
    (let s := trellisWith .mstream false none; (match s.core.cmds.find? (fun y => y.id == 7) with | some m => decide (m.queue = .claim 1 ∧ m.started = none) && true | none => false) = true ∧ armedOn s 0 0 2 = none) := by decide +kernel

/-- CommandEvents: a row of an MSTREAM that enters. -/
theorem witness_CommandEvents_a_row_of_an_mstream_that_enters :
    (let s := trellisWith .mstream true (some 950); (match s.core.cmds.find? (fun y => y.id == 7) with | some m => decide (m.queue = .claim 1 ∧ m.started.isSome = true ∧ m.kind = .mstream) && true | none => false) = true ∧ armedOn s 0 0 2 = none ∧ (s.core.claim 1).active.isSome = true) := by decide +kernel

/-- CommandEvents: columns and planes that enter. -/
theorem witness_CommandEvents_columns_and_planes_that_enter :
    ∀ k ∈ [CmdKind.mvstream, .mstreamp], (let s := trellisWith k true (some 950); (match s.core.cmds.find? (fun y => y.id == 7) with | some m => decide (m.queue = .claim 1 ∧ m.started.isSome = true ∧ m.kind = k) && true | none => false) = true ∧ armedOn s 0 0 2 = none) := by decide +kernel

/-- CommandEvents: no row that lands, and one that lands. -/
theorem witness_CommandEvents_no_row_that_lands_and_one_that_lands :
    rowsDue task.core task.cycle = [] ∧ (let s := trellisRow; (match rowsDue s.core s.cycle with | [(_, r)] => !r.acc | _ => false) = true) := by decide +kernel

/-- CommandEvents: a RELEASE that has drained, and one that has not. -/
theorem witness_CommandEvents_a_release_that_has_drained_and_one_that_has_not :
    (drained.core.claim 1).endsAt = some drained.cycle ∧ (task.core.claim 1).endsAt ≠ some task.cycle := by decide +kernel

/-- CommandEvents: a restart that waits: none, for commands, for banks. -/
theorem witness_CommandEvents_a_restart_that_waits_none_for_commands_for_banks :
    task.core.restart = none ∧ (let s := (withCmd (turnCmd (some 950))).onCore (fun x => { x with restart := some 0 }); s.core.restart = some 0 ∧ s.core.cmds ≠ []) ∧ (let s := task.onCore (fun x => { x with restart := some 1002 }); s.core.restart = some (1001 + 1) ∧ s.cycle < 1001) := by decide +kernel

/-- CommandEvents: a restart that begins, and one that ends. -/
theorem witness_CommandEvents_a_restart_that_begins_and_one_that_ends :
    (let s := task.onCore (fun x => { x with restart := some 0 }); s.core.restart = some 0 ∧ s.core.cmds = []) ∧ (let s := (trellisDone .wload).onCore (fun x => { x with restart := some 1000 }); s.core.restart = some (999 + 1) ∧ 999 ≤ s.cycle ∧ armedOn s 0 0 1 = none) := by decide +kernel

/-- The window of die 0 holds one entry with serial 1. -/
def windowOf (e : Entry) : State := onDie committed 0 (fun x => { x with entries := [e] })

/-- A record of a fold task of vintage 5. -/
def aFold : List Word := foldRecord 0 5 7

/-- A shard on core 0 of die 0. -/
def aShard (st : ShardState) : Shard := { state := st, die := 0, core := 0, placedAt := 100, startAt := none, preloaded := false, committed := false, notBefore := 0, first := true, hotBytes := [], hotStall := [] }

/-- The handle table's page is the page that may be written; slot 65,536 names the image, whose text begins 4,096 bytes in; its descriptor has one view
and is broken or not. -/
def placed (broken : Bool) (e : Entry) : State :=
  { onDie { running with launches := [theLaunch] } 0 (fun x => { x with entries := [e], nextSerial := 6, wlog2 := 3 }) with
    mem := writeBytes (writeBytes (writeBytes (writeBytes running.mem 0x1FE0 (leBytes 8 (2 ^ 63 + 1))) 0x800000 (wordsBytes [0x200000, BitVec.ofNat 64 (2 ^ 32)]))
      0x400000 (wordsBytes [0, BitVec.ofNat 64 (4096 * 2 ^ 32 + 4096)])) 0x400080 (wordsBytes [64, if broken then 1 else 0]) }

/-- The entry of a task whose shard waits to be placed, or is placed. -/
def taskEntry (st : TaskState) (sh : ShardState) : Entry := { anEntry 1 st with recd := aProgram, shards := [aShard sh] }

/-- WindowEvents: a check that has been made. -/
theorem witness_WindowEvents_a_check_that_has_been_made :
    (let e : Entry := ({ anEntry 1 .running with checked := true }); let s := windowOf e; entryOf s 0 1 = some e ∧ e.checked = true) := by decide +kernel

/-- WindowEvents: a check of a record that has ended. -/
theorem witness_WindowEvents_a_check_of_a_record_that_has_ended :
    (let e : Entry := ({ anEntry 1 .running with pending := some .cancelled }); let s := windowOf e; entryOf s 0 1 = some e ∧ e.checked = false ∧ e.pending.isSome = true) := by decide +kernel

/-- WindowEvents: a check of a record alone. -/
theorem witness_WindowEvents_a_check_of_a_record_alone :
    (let e : Entry := ({ anEntry 1 .running with recd := aFold, state := .posted }); let s := windowOf e; entryOf s 0 1 = some e ∧ e.checked = false ∧ e.pending = none ∧ e.liveAt = []) := by decide +kernel

/-- WindowEvents: a check against a record that runs. -/
theorem witness_WindowEvents_a_check_against_a_record_that_runs :
    (let e : Entry := { anEntry 5 .posted with liveAt := [1] }; let s := onDie committed 0 (fun x => { x with entries := [{ anEntry 1 .running with slot := 0 }, e] }); let marked := onEntry s 0 5 (fun y => { y with checked := true }); let pool := (dieOf marked 0).entries ++ (dieOf marked 0).departed; let early := (e.liveAt.filterMap (fun k => pool.find? (fun y => y.serial == k))).filter (fun y => !(y.gang.isSome && y.gang == e.gang)); let r := if recFold e.recd then (foldEdges marked e early, marked) else allEdges marked 0 e early (List.range 6); entryOf s 0 5 = some e ∧ e.checked = false ∧ e.pending = none ∧ r.1 ≠ [] ∧ (∀ x ∈ r.1, edgeFate early x ≠ 2)) := by decide +kernel

/-- WindowEvents: a check against a record that has faulted. -/
theorem witness_WindowEvents_a_check_against_a_record_that_has_faulted :
    (let e : Entry := { anEntry 5 .posted with liveAt := [1] }; let s := onDie committed 0 (fun x => { x with entries := [{ anEntry 1 .running with pending := some .faulted }, e] }); let marked := onEntry s 0 5 (fun y => { y with checked := true }); let pool := (dieOf marked 0).entries ++ (dieOf marked 0).departed; let early := (e.liveAt.filterMap (fun k => pool.find? (fun y => y.serial == k))).filter (fun y => !(y.gang.isSome && y.gang == e.gang)); let r := if recFold e.recd then (foldEdges marked e early, marked) else allEdges marked 0 e early (List.range 6); entryOf s 0 5 = some e ∧ e.checked = false ∧ e.pending = none ∧ (∃ x ∈ r.1, edgeFate early x = 2)) := by decide +kernel

/-- WindowEvents: a task that leaves its window. -/
theorem witness_WindowEvents_a_task_that_leaves_its_window :
    (let e : Entry := ({ anEntry 1 .running with pending := some .cancelled }); let s := windowOf e; entryOf s 0 1 = some e ∧ e.pending = some .cancelled) := by decide +kernel

/-- WindowEvents: a task that retires. -/
theorem witness_WindowEvents_a_task_that_retires :
    (let e : Entry := ({ anEntry 1 .running with pending := some .retired }); let s := windowOf e; entryOf s 0 1 = some e ∧ e.pending = some .retired) := by decide +kernel

/-- WindowEvents: a task that no one waits for. -/
theorem witness_WindowEvents_a_task_that_no_one_waits_for :
    (let e : Entry := ({ anEntry 1 .running with recd := aRecord }); let s := windowOf e; entryOf s 0 1 = some e ∧ e.pending = none ∧ ((dieOf s 0).entries.find? (fun y => y.serial == 1) <|> (dieOf s 0).departed.find? (fun y => y.serial == 1)) = some e ∧ (dieOf s 0).entries.filter (fun y => y.pending == none && y.edges.any (fun k => decide (k.src = 1))) = [] ∧ e.gang = none ∧ (recordWord e 3).getLsbD 63 = false ∧ (recordWord e 4).getLsbD 63 = false) := by decide +kernel

/-- WindowEvents: a cancel of a task that is not there. -/
theorem witness_WindowEvents_a_cancel_of_a_task_that_is_not_there :
    ((dieOf windowed 0).entries.find? (fun y => y.serial == 9) <|> (dieOf windowed 0).departed.find? (fun y => y.serial == 9)) = none := by decide +kernel

/-- WindowEvents: a task that waits for another. -/
theorem witness_WindowEvents_a_task_that_waits_for_another :
    (let e : Entry := { anEntry 5 .posted with state := .waiting, edges := [⟨1, .retire⟩] }; let s := onDie committed 0 (fun x => { x with entries := [{ anEntry 1 .cancelled with slot := 0 }, e] }); ((dieOf s 0).entries.find? (fun y => y.serial == 1) <|> (dieOf s 0).departed.find? (fun y => y.serial == 1)) = some (anEntry 1 .cancelled) ∧ (dieOf s 0).entries.filter (fun y => y.pending == none && y.edges.any (fun k => decide (k.src = 1))) = [e] ∧ e.gang = none ∧ e.state ≠ .committed ∧ e.state ≠ .halted ∧ (∀ l ∈ (dieOf s 0).letterbox, l.serial ≠ 5) ∧ entryOf s 0 5 = some e) := by decide +kernel

/-- WindowEvents: a task whose shards are halted. -/
theorem witness_WindowEvents_a_task_whose_shards_are_halted :
    (let e : Entry := ({ anEntry 1 .running with shards := [aShard .halted] }); let s := windowOf e; entryOf s 0 1 = some e ∧ e.pending = none ∧ (e.state = .running ∨ e.state = .committed) ∧ (∀ y ∈ e.shards, y.state = .halted)) := by decide +kernel

/-- WindowEvents: a task whose shards are not all halted. -/
theorem witness_WindowEvents_a_task_whose_shards_are_not_all_halted :
    (let e : Entry := ({ anEntry 1 .running with shards := [aShard .running] }); let s := windowOf e; entryOf s 0 1 = some e ∧ ¬ (∀ y ∈ e.shards, y.state = .halted) ∧ e.pending = none ∧ e.state ≠ .halted) := by decide +kernel

/-- WindowEvents: a halted task without shadows. -/
theorem witness_WindowEvents_a_halted_task_without_shadows :
    (let e : Entry := ({ anEntry 1 .halted with shards := [aShard .halted] }); let s := windowOf e; entryOf s 0 1 = some e ∧ e.pending = none ∧ e.state = .halted ∧ e.shadows = [] ∧ (copyPieces 0 e (writtenPieces e) s).2.isNone = true) := by decide +kernel

/-- WindowEvents: a halted task with a shadow. -/
theorem witness_WindowEvents_a_halted_task_with_a_shadow :
    (let e : Entry := ({ anEntry 1 .halted with shadows := [{ region := 0, blocks := [(0x400000, 0)], filled := true, renamed := false }] }); let s := windowOf e; entryOf s 0 1 = some e ∧ e.pending = none ∧ e.state = .halted ∧ e.shadows ≠ []) := by decide +kernel

/-- WindowEvents: a record that is still to be written. -/
theorem witness_WindowEvents_a_record_that_is_still_to_be_written :
    (let e : Entry := ({ anEntry 1 .halted with pending := some .retired }); let s := windowOf e; entryOf s 0 1 = some e ∧ e.pending = some .retired ∧ s.timers.any (fun x => x.2 == .taskRetire 0 1) = false) := by decide +kernel

/-- WindowEvents: a fold task that starts. -/
theorem witness_WindowEvents_a_fold_task_that_starts :
    (let e : Entry := ({ anEntry 1 .ready with recd := aFold }); let s := windowOf e; entryOf s 0 1 = some e ∧ e.pending = none ∧ e.state = .ready) := by decide +kernel

/-- WindowEvents: a fold task without a cell left. -/
theorem witness_WindowEvents_a_fold_task_without_a_cell_left :
    (let e : Entry := ({ anEntry 1 .running with recd := aFold }); let s := windowOf e; entryOf s 0 1 = some e ∧ e.pending = none ∧ e.state = .running ∧ recFold e.recd = true ∧ lowestCell (cellsIn s (recAsid e.recd) (recVint e.recd)) = none) := by decide +kernel

/-- WindowEvents: a fold task with a cell. -/
theorem witness_WindowEvents_a_fold_task_with_a_cell :
    (let e : Entry := { anEntry 1 .running with recd := aFold }; let k : Cell := { slot := 0, asid := 0, vint := 5, va := 0x1600000, frame := 0x010000002000, size := 4096 }; let s : State := { windowOf e with cells := [k] }; entryOf s 0 1 = some e ∧ lowestCell (cellsIn s (recAsid e.recd) (recVint e.recd)) = some k ∧ (match dieTranslate s 0 0 0 k.va with | (.page l _ _ _ _, t) => !l.seal && !(readRuns t (.copier 0) 0 32 t.seq [(k.frame, k.size)]).2.1 | _ => false) = true) := by decide +kernel

/-- WindowEvents: a task that is no fold. -/
theorem witness_WindowEvents_a_task_that_is_no_fold :
    (let e : Entry := ({ anEntry 1 .running with recd := aRecord }); let s := windowOf e; entryOf s 0 1 = some e ∧ recFold e.recd = false) := by decide +kernel

/-- WindowEvents: a COMMIT that nothing waits for. -/
theorem witness_WindowEvents_a_commit_that_nothing_waits_for :
    (let e : Entry := { anEntry 1 .running with shards := [aShard .running] }; let s := windowOf e; entryOf s 0 1 = some e ∧ shardCore s 0 1 0 = some (0, 0, s.core) ∧ s.core.ap.wait ≠ .commit) := by decide +kernel

/-- WindowEvents: a COMMIT that is held. -/
theorem witness_WindowEvents_a_commit_that_is_held :
    (let e : Entry := ({ anEntry 1 .running with edges := [⟨3, .renamed⟩] }); let s := (windowOf e).onCore (fun c => { c with ap := { c.ap with wait := .commit } }); entryOf s 0 1 = some e ∧ shardCore s 0 1 0 = some (0, 0, s.core) ∧ e.pending = none ∧ s.core.ap.wait = .commit ∧ s.core.traps = [] ∧ e.commitHeld = true ∧ e.state = .running ∧ 0 ∉ e.haltWait ∧ 0 ∉ e.commitWait) := by decide +kernel

/-- WindowEvents: a COMMIT that is held already. -/
theorem witness_WindowEvents_a_commit_that_is_held_already :
    (let e : Entry := ({ anEntry 1 .running with edges := [⟨3, .renamed⟩], commitWait := [0] }); let s := (windowOf e).onCore (fun c => { c with ap := { c.ap with wait := .commit } }); entryOf s 0 1 = some e ∧ shardCore s 0 1 0 = some (0, 0, s.core) ∧ e.pending = none ∧ s.core.ap.wait = .commit ∧ s.core.traps = [] ∧ e.commitHeld = true ∧ e.state = .running ∧ 0 ∈ e.commitWait) := by decide +kernel

/-- WindowEvents: a COMMIT that is recorded. -/
theorem witness_WindowEvents_a_commit_that_is_recorded :
    (let e : Entry := ({ anEntry 1 .running with shards := [aShard .running] }); let s := (windowOf e).onCore (fun c => { c with ap := { c.ap with wait := .commit } }); entryOf s 0 1 = some e ∧ shardCore s 0 1 0 = some (0, 0, s.core) ∧ e.pending = none ∧ s.core.ap.wait = .commit ∧ s.core.traps = [] ∧ e.commitHeld = false ∧ 0 ∉ e.haltWait) := by decide +kernel

/-- WindowEvents: a HALT that is recorded. -/
theorem witness_WindowEvents_a_halt_that_is_recorded :
    (let e : Entry := ({ anEntry 1 .running with shards := [aShard .running], haltWait := [0] }); let s := (windowOf e).onCore (fun c => { c with ap := { c.ap with wait := .commit } }); entryOf s 0 1 = some e ∧ shardCore s 0 1 0 = some (0, 0, s.core) ∧ e.pending = none ∧ s.core.ap.wait = .commit ∧ s.core.traps = [] ∧ e.commitHeld = false ∧ 0 ∈ e.haltWait) := by decide +kernel

/-- DispatchEvents: dispatch that is held, and that is not. -/
theorem witness_DispatchEvents_dispatch_that_is_held_and_that_is_not :
    (let s := placed false (taskEntry .ready .waiting); dispatchHeld { s with powerHold := true } 0 = true ∧ dispatchHeld s 0 = false ∧ s.ckpt = none ∧ readyOrder s 0 ≠ []) := by decide +kernel

/-- DispatchEvents: nothing to steal. -/
theorem witness_DispatchEvents_nothing_to_steal :
    (let s := placed false (taskEntry .ready .waiting); robbery (beforePlacing s) 0 = none) := by decide +kernel

/-- DispatchEvents: a task to steal. -/
theorem witness_DispatchEvents_a_task_to_steal :
    (let s := placed false (taskEntry .ready .waiting); dispatchHeld s 1 = false ∧ s.ckpt = none ∧ (List.range 32).find? (fun k => coreOpen s 1 k false &&
      (keptFor s 1 k).isNone) = some 0 ∧
       (match robbery (beforePlacing s) 1 with | some x => !dispatchHeld s x.wdie && (match entryOf s x.wdie x.entry.serial with | some e => e.pending.isNone && (e.shards[x.shard]?).map (fun h => h.state) == some .waiting | none => false) && (placeOn s 1 x [0]).isSome | none => false) = true) := by decide +kernel

/-- DispatchEvents: a task that its own die has placed in this cycle. -/
theorem witness_DispatchEvents_a_task_that_its_own_die_has_placed_in_this_cycle :
    (let e : Entry := { taskEntry .dispatched .dispatched with shards := [{ aShard .dispatched with placedAt := 1000 }] }; let s := placed false e;
       (match robbery (beforePlacing s) 1 with | some x => decide (entryOf s x.wdie x.entry.serial = some e ∧ x.shard = 0 ∧ (e.shards.map (fun h => h.state)) = [.dispatched]) | none => false) = true) := by decide +kernel

/-- DispatchEvents: a gang that has waited. -/
theorem witness_DispatchEvents_a_gang_that_has_waited :
    (let e : Entry := { anEntry 1 .ready with gang := some (1, 1), gangReady := some 1000 }; let s : State := { windowOf e with cycle := 1000 + 2 ^ 20 }; (dieOf s 0).entries.find? (fun y => y.gang.isSome && decide (y.lead = 1) && y.state == .ready && y.pending.isNone) = some e ∧ gangReady s 0 e = true ∧ 1000 + 2 ^ 20 ≤ s.cycle ∧ 1 ∉ (dieOf s 0).gangHold) := by decide +kernel

/-- DispatchEvents: a preload of a descriptor that is broken, and of one that is not. -/
theorem witness_DispatchEvents_a_preload_of_a_descriptor_that_is_broken_and_of_one_that_is_not :
    [true, false].all (fun b => let e := taskEntry .dispatched .dispatched; let s := placed b e; let sh := aShard .dispatched
       decide (entryOf s 0 1 = some e ∧ e.shards[0]? = some sh ∧ sh.state = .dispatched ∧ sh.preloaded = false ∧ e.pending = none ∧ preloadDue s sh.die e sh.placedAt ≤ s.cycle) && (match programOf s 0 e 0 with
        | .ok t => if b then (descriptorFault t.desc).isSome else (descriptorFault t.desc).isNone && (absentIn s t.asid (preloadRuns e t)).isNone &&
          decide ((runsFound t.asid (preloadRuns e t) s).1 = .clean)
        | .error _ => false)) = true := by decide +kernel

/-- DispatchEvents: a shadow that is filled. -/
theorem witness_DispatchEvents_a_shadow_that_is_filled :
    (let e : Entry := { taskEntry .dispatched .dispatched with shadows := [{ region := 0, blocks := [(0x400000, 0)], filled := false, renamed := false }] }; let s := placed false e
       entryOf s 0 1 = some e ∧ e.pending = none ∧ e.state = .dispatched ∧ (∃ x ∈ e.shadows, x.filled = false) ∧
         (∃ sh ∈ e.shards, (sh.state = .dispatched ∨ sh.state = .running) ∧ sh.placedAt + fillTime s 0 e ≤ s.cycle) ∧
         (fillShadows 0 e e.shadows s).2 = none) := by decide +kernel

/-- DispatchEvents: a task that starts. -/
theorem witness_DispatchEvents_a_task_that_starts :
    (let e : Entry := { taskEntry .dispatched .dispatched with shards := [{ aShard .dispatched with startAt := some 1000, preloaded := true }] }; let s := placed false e
       entryOf s 0 1 = some e ∧ (e.shards.map (fun y => (y.state, y.startAt))) = [(.dispatched, some s.cycle)] ∧ physicalFree s 0 0 = true ∧ (match programOf s 0 e 0 with | .ok _ => true | .error _ => false) = true) := by decide +kernel

/-- DispatchEvents: a task in REPLAY, and one that is not. -/
theorem witness_DispatchEvents_a_task_in_replay_and_one_that_is_not :
    [TaskState.replay, .cancelled].all (fun st => let s := (windowOf (anEntry 1 st)).onCore (fun c => { c with discardAt := some 1000 }); decide (entryOf (freeDiscarded s) 0 1 = some (anEntry 1 st) ∧ (anEntry 1 st).pending = none)) = true := by decide +kernel

/-- A command of the host on port 0. -/
def hostMsg (addr : BitVec 56) (len : BitVec 13) (data : List Byte) : HostMsg := { op := 1, status := 0, tag := 7, asid := 0, addr := addr, len := len, data := data, port := 0, boot := false, safe := true }

/-- The running device with the keys of both host ports. -/
def served : State := { running with boot := { running.boot with keys := [(0, 1), (1, 1)], open_ := [0, 1] }, launches := [] }

/-- The same with an access of the device still to come in this cycle. -/
def yielding : State := { served with agenda := [.poll 0 0] }

/-- A launch record of one context on die 0, its image and its cell store on the pages of the table. -/
def launchRecord : List Word :=
  [BitVec.ofNat 64 (2 ^ 32 + 0x4C4C594D), 0x400000, 0x1800000, 65536, 0, 0] ++ List.replicate 8 2 ++ [1, 0]

/-- The served device whose page that may be written holds an image's header. -/
def imaged : State :=
  { served with mem := writeBytes served.mem 0x800000 (wordsBytes [BitVec.ofNat 64 (2 ^ 32 + 0x494C594D), BitVec.ofNat 64 (4096 * 2 ^ 32 + 4096), 0, 0, 0, 0, 0, 0]) }

/-- The device in a step of the boot, with keys. -/
def booting (st : BootStep) : State := { State.reset with cycle := 1000, epoch := 1, board := { Board.reset with wire := 2 }, boot := { Boot.reset with step := st, since := 900, until_ := 0, keys := [(0, 1), (1, 1)] } }

/-- The device in a step of the boot, whose cellar can be reached through host port 0 at the target that its owner area names. -/
def reaching (st : BootStep) : State :=
  { booting st with ports := [(16, true)], boot := { (booting st).boot with owner := [(48, 1)], open_ := [0] } }

/-- Whether a boot-stage command is served, and all of it has come, with some data. -/
def wholeBoot (s : State) (m : HostMsg) (data : List Byte) : Bool :=
  decide (bootWhole s m ∧ (bootPiece s m).2 = data)

/-- The device in its handoff, owned. -/
def owned : State := { booting .handoff with boot := { (booting .handoff).boot with owner := [(0, 1)] } }

/-- The device with a plot withdrawn, its test in a state. -/
def withdrawnPlot (st : UnitState) : State := { running with withdrawn := [{ hw := .plot 0 1 2, state := st, slot := none, holds := [], score := 0, until_ := 0, bad := false }] }

/-- An image of the cellar. -/
def anImage (complete : Bool) : Image :=
  { ident := 9, launches := [], tick := 10, mem := [], dies := [], spaces := [], hscore := [], fscore := [], cells := [], joiners := [], number := 3, complete := complete }

/-- BoardEvents: a word of memory and a word of a pool. -/
theorem witness_BoardEvents_a_word_of_memory_and_a_word_of_a_pool :
    readErrors running (poisonUnit 0x400008).1 (poisonUnit 0x400008).2 = (.clean, running) ∧
      readErrors running (poisonUnit 0x010000000010).1 (poisonUnit 0x010000000010).2 = (.clean, running) := by decide +kernel

/-- BoardEvents: a word whose read is corrected, and one that is poisoned. -/
theorem witness_BoardEvents_a_word_whose_read_is_corrected_and_one_that_is_poisoned :
    (let s : State := { running with injHub := [(256, 0, 0)] }; (readErrors s (poisonUnit 0x400008).1 (poisonUnit 0x400008).2).1 = .corrected) ∧
      (let s := rebuilding; (readErrors s (poisonUnit 0x010000000010).1 (poisonUnit 0x010000000010).2).1 = .rebuilt) ∧
        (let s := poisonAt running 0x400008; (readErrors s (poisonUnit 0x400008).1 (poisonUnit 0x400008).2).1 = .uncorrectable) := by decide +kernel

/-- BoardEvents: a test that is due, and one that is not. -/
theorem witness_BoardEvents_a_test_that_is_due_and_one_that_is_not :
    (testsDue (withdrawnPlot .waiting)).contains (.plot 0 1 2) = true ∧ (testsDue (withdrawnPlot .testing)).contains (.plot 0 1 2) = false := by decide +kernel

/-- BoardEvents: a test that runs, and one that does not. -/
theorem witness_BoardEvents_a_test_that_runs_and_one_that_does_not :
    (let s := withdrawnPlot .testing; (s.withdrawn.find? (fun y => y.hw == .plot 0 1 2 && y.state == .testing)).isSome = true ∧ injectedPlot s (.plot 0 1 2) = false) ∧ (let s := withdrawnPlot .waiting; s.withdrawn.find? (fun y => y.hw == .plot 0 1 2 && y.state == .testing) = none) := by decide +kernel

/-- BoardEvents: reports at the bounds of the means. -/
theorem witness_BoardEvents_reports_at_the_bounds_of_the_means :
    (let log := (((List.replicate 9 3500 : List Nat) ++ [35000 - 31500]).reverse.take 10).reverse; log.sum = 35000 ∧ log.length = 10) ∧ (let log := (((List.replicate 9 3500 : List Nat) ++ [34999 - 31500]).reverse.take 10).reverse; log.sum = 34999 ∧ log.length = 10) ∧ (let log := (((List.replicate 9 3500 : List Nat) ++ [34000 - 31500]).reverse.take 10).reverse; log.sum = 34000 ∧ log.length = 10) ∧ (let log := (((List.replicate 9 3500 : List Nat) ++ [33999 - 31500]).reverse.take 10).reverse; log.sum = 33999 ∧ log.length = 10) ∧ (∀ k ∈ [(1050, 500), (1149, 0), (1049, 400), (1000, 300), (999, 501)], k.1 < 1150 ∧ (k.2 ≤ 500 ∨ running.hotInlet < 1000000)) ∧ (let s : State := { running with hotInlet := 1000000 }; 500 < 501 ∧ 1000000 ≤ s.hotInlet) := by decide +kernel

/-- CheckpointEvents: no checkpoint, and one that has not come so far. -/
theorem witness_CheckpointEvents_no_checkpoint_and_one_that_has_not_come_so_far :
    running.ckpt = none ∧ (let s : State := { running with ckpt := some (aCkpt 1) }; s.ckpt = some (aCkpt 1) ∧ (aCkpt 1).step ≠ 3 ∧ (aCkpt 1).step ≠ 4) ∧ (let s : State := { withCmd (turnCmd none) with ckpt := some (aCkpt 3) }; quiet s = false) := by decide +kernel

/-- CheckpointEvents: a quiet device whose checkpoint has come to step 3. -/
theorem witness_CheckpointEvents_a_quiet_device_whose_checkpoint_has_come_to_step_3 :
    (let s : State := { reaching .running with ckpt := some (aCkpt 3), cellar := [(0, anImage true)] }; streamEnd (streamErrors s).2 = .complete ∧ s.ckpt = some (aCkpt 3) ∧ (aCkpt 3).step = 3 ∧ quiet s = true) := by decide +kernel

/-- CheckpointEvents: a stream that ends. -/
theorem witness_CheckpointEvents_a_stream_that_ends :
    (let s : State := { running with ckpt := some (aCkpt 4), cellar := [(0, anImage false)] }; s.ckpt = some (aCkpt 4) ∧ (aCkpt 4).step = 4 ∧ tfind s.cellar (aCkpt 4).slot = some (anImage false) ∧ (aCkpt 4).joiners = [(0, 1, 5)]) := by decide +kernel

/-- CheckpointEvents: no image, one that is not complete, one over a launch that runs. -/
theorem witness_CheckpointEvents_no_image_one_that_is_not_complete_one_over_a_launch_that_runs :
    (let m := hostMsg 0 1 [0]; wholeBoot (reaching .handoff) m [0] = true ∧ tfind (reaching .handoff).cellar 0 = none ∧
      (let s : State := { reaching .handoff with cellar := [(0, anImage false)] }; wholeBoot s m [0] = true ∧ tfind s.cellar 0 = some (anImage false) ∧
      (anImage false).complete = false) ∧
         (let s : State := { reaching .step4 with cellar := [(0, anImage true)] }; wholeBoot s m [0] = true ∧ s.boot.step ≠ .handoff ∧ s.boot.step ≠ .running) ∧
         (let s : State := { reaching .handoff with cellar := [(0, anImage true)], launches := [theLaunch] }; wholeBoot s m [0] = true ∧ (∃ l ∈ s.launches, l.done = false))) := by decide +kernel

/-- CheckpointEvents: an image that is restored. -/
theorem witness_CheckpointEvents_an_image_that_is_restored :
    (let m := hostMsg 0 1 [0]; let s : State := { reaching .handoff with cellar := [(0, anImage true)] }; bootServed s.boot = true ∧
      m.addr.toNat ≤ (tget s.boot.pieces (256 * m.port + m.op.toNat) []).length ∧ m.data.length < 4096 ∧ (bootPiece s m).2 ≠ [] ∧
      tfind s.cellar (leNat ((bootPiece s m).2.take 1)) = some (anImage true) ∧
         (anImage true).complete = true ∧ s.boot.step = .handoff ∧ (∀ l ∈ s.launches, l.done = true)) := by decide +kernel

/-- BootEvents: a piece where none is served, out of order, and not the last. -/
theorem witness_BootEvents_a_piece_where_none_is_served_out_of_order_and_not_the_last :
    ¬ bootOpen (booting .step1) (hostMsg 0 0 []) ∧ (let s := booting .handoff; bootOpen s (hostMsg 1 0 []) ∧ (tget s.boot.pieces 1 []).length < (hostMsg 1 0 []).addr.toNat ∧ 256 * (hostMsg 1 0 []).port + (hostMsg 1 0 []).op.toNat = 1) ∧ (let m := hostMsg 0 0 (List.replicate 4096 0); m.addr.toNat ≤ (tget (booting .handoff).boot.pieces 1 []).length ∧ 4096 ≤ m.data.length ∧ (let n := { m with op := 0x85 }; (bootData (booting .handoff) n).length < commandNeeds (booting .handoff).boot n.op.toNat)) := by decide +kernel

/-- BootEvents: commands that are whole in each step. -/
theorem witness_BootEvents_commands_that_are_whole_in_each_step :
    (let sizes := [[], List.replicate 8 (0 : Byte), List.replicate 1216 0, [3]];
      [BootStep.step3, .step4, .waiting, .handoff].all (fun st => sizes.all (fun data => let s := booting st; let t := (bootPiece s (hostMsg 0 8 data)).1;
      wholeBoot s (hostMsg 0 8 data) data && decide (t.boot.step = st ∧ t.boot.owned = false ∧ t.boot.booted = none))) = true ∧
        leNat ((List.replicate 8 (0 : Byte)).take 1) ≤ 1 ∧ 0 + (8 - 5) ≤ slotSize ∧ 2 < leNat ([3] : List Byte) ∧
          imageOk (bootPiece (booting .waiting) (hostMsg 0 8 [])).1.boot 0 = false) := by decide +kernel

/-- BootEvents: commands of a device that is owned. -/
theorem witness_BootEvents_commands_of_a_device_that_is_owned :
    (let s := owned; wholeBoot s (hostMsg 0 8 (List.replicate 1216 0)) (List.replicate 1216 0) = true ∧ (bootPiece s (hostMsg 0 8 [])).1.boot.owned = true ∧ wholeBoot s (hostMsg 0 8 [0]) [0] = true ∧ 1 < sigSize ∧ wholeBoot { s with boot := { s.boot with pieces := [(1, List.replicate sigSize 0)] } } { hostMsg 0 8 [0] with addr := BitVec.ofNat 56 sigSize } (List.replicate sigSize 0 ++ [0]) = true) := by decide +kernel

/-- BootEvents: a slot that holds the boot in use. -/
theorem witness_BootEvents_a_slot_that_holds_the_boot_in_use :
    (let s : State := { booting .handoff with boot := { (booting .handoff).boot with booted := some 0 } }; wholeBoot s (hostMsg 0 8 (List.replicate 8 0)) (List.replicate 8 0) = true ∧ (bootPiece s (hostMsg 0 8 [])).1.boot.booted = some 0) := by decide +kernel

/-- BootEvents: power, bounds and the handoff. -/
theorem witness_BootEvents_power_bounds_and_the_handoff :
    (booting .off).boot.step = .off ∧ (booting .step3).boot.step ≠ .off ∧ (booting .step3).boot.step.bound = some 150000000 ∧
      (booting .step3).cycle ≤ (booting .step3).boot.since + 25 * 150000000 ∧
        (let s : State := { booting .step3 with cycle := 900 + 25 * 150000000 + 1 }; s.boot.since + 25 * 150000000 < s.cycle) ∧ (booting .handoff).boot.step = .handoff ∧ (tfind (booting .handoff).boot.keys 0).isSome = true ∧ (tfind (booting .handoff).boot.keys 1).isSome = true ∧ (booting .handoff).boot.step.bound = none ∧ (let s : State := { booting .handoff with cycle := 26000000, boot := { (booting .handoff).boot with keys := [(1, 1)], keysAt := [(1, 900)] } }; s.boot.step = .handoff ∧ tfind s.boot.keysAt 1 = some 900 ∧ 900 + 25000000 ≤ s.cycle ∧ tfind s.boot.keys 0 = none ∧ hostPortUp s 0 = false) ∧ ({ booting .step3 with board := { (booting .step3).board with wire := 3 } } : State).board.wire.getLsbD 0 = true ∧ (booting .step3).board.wire.getLsbD 0 = false := by decide +kernel

/-- HostCommands: before the handoff, a TAG that is kept, an event. -/
theorem witness_HostCommands_before_the_handoff_a_tag_that_is_kept_an_event :
    (booting .handoff).boot.step ≠ .running ∧ (let m := hostMsg 0 8 []; let s : State := { served with uctAnswers := [(0, [m])] }; uctOpen s m ∧
      (tget s.uctAnswers m.port []).filter (fun a => a.tag == m.tag) = [m]) ∧
        (let s : State := { served with events := [(3, .complete 1)] }; s.events.find? (fun x => x.1 == 3) = some (3, .complete 1)) ∧ served.events.find? (fun x => x.1 == 3) = none := by decide +kernel

/-- HostCommands: a command while an image is made. -/
theorem witness_HostCommands_a_command_while_an_image_is_made :
    (let s : State := { served with ckpt := some (aCkpt 4) }; uctOpen s (hostMsg 0 8 []) ∧ tget s.uctAnswers 0 [] = [] ∧ ckptHolding s = true) := by decide +kernel

/-- HostCommands: a range that is not the host's. -/
theorem witness_HostCommands_a_range_that_is_not_the_hosts :
    (let m := hostMsg 0xA00000 16 (List.replicate 16 0); let long := hostMsg 0x400010 4097 (List.replicate 4097 0); uctServes served m ∧
      hostYields served 0 0xC00000 = false ∧ hostYields served 0 0x400010 = false ∧
         [false, true].all (fun w => match hostRuns served 0 w 4 0xC00000 16 with | .ok _ => false | .error _ => true) = true ∧ m.len.toNat ≤ 4096 ∧ 4096 < long.len.toNat ∧ 4096 < long.data.length ∧ hostPhysical 0xFFFFFFFFFF0000 16 = false) := by decide +kernel

/-- HostCommands: a page at the host, whose accesses of the cycle come first. -/
theorem witness_HostCommands_a_page_at_the_host_whose_accesses_of_the_cycle_come_first :
    hostYields yielding 0 0xA00010 = true ∧ ckptHolding yielding = false ∧ uctServes yielding (hostMsg 0xA00010 16 []) := by decide +kernel

/-- HostCommands: memory. -/
theorem witness_HostCommands_memory :
    (let m := hostMsg 0x400010 16 (List.replicate 16 0x5A); uctServes served m ∧ ckptHolding served = false ∧
         [false, true].all (fun w => match hostRuns served 0 w 4 m.addr.toNat 16 with | .ok ps => !(readRuns served .host 8 32 served.seq ps).2.1 && !rebuilds served ps && decide (barrierHold served 8 ps ≤ served.cycle) | .error _ => false) = true ∧ hostPhysical m.addr.toNat 16 = true ∧ (readRuns served .host 8 32 served.seq (physRuns served m.addr.toNat 16)).2.1 = false ∧ served.withdrawn = [] ∧ m.len.toNat ≤ 4096 ∧ m.data.length = 16) := by decide +kernel

/-- HostCommands: a launch whose record is broken, and one that starts. -/
theorem witness_HostCommands_a_launch_whose_record_is_broken_and_one_that_starts :
    launchOk [0] = false ∧ (let words := launchRecord; let s := imaged; launchOk words = true ∧ (match peek s ((wordOf words 0).toNat / 2 ^ 56) ((wordOf words 1).toNat % 2 ^ 56) 8 with
         | .words hd => headerOk ((wordOf words 1).toNat % 2 ^ 56) hd &&
           (launchCtxs words).all (fun x => decide (x.toNat / 2 ^ 8 % 2 ^ 32 < (wordOf hd 1).toNat / 2 ^ 32) && !ctxTaken s x) | _ => false) = true ∧
         storeOk s ((wordOf words 0).toNat / 2 ^ 56) ((wordOf words 2).toNat % 2 ^ 56) (wordOf words 3).toNat = true ∧
           16 * s.launches.foldl (fun n l => if l.done then n else n + l.slots) (launchSlots words) ≤ 0x10000000) := by decide +kernel

/-- HostCommands: a page that goes to the host, and one that comes. -/
theorem witness_HostCommands_a_page_that_goes_to_the_host_and_one_that_comes :
    (match walk served 0 0x400010, walk served 0 0x800010 with | .ok l, .ok k => decide (faultOf served 0 l.va = none ∧ l.home = 0 ∧ l.pte ≠ 0 ∧ l.res = true) &&
         (let f : PageFault := { asid := 0, va := k.va, size := k.size, vint := 0, write := false, event := 0, toHost := false, again := false, waiters := [] };
           let s : State := { served with faults := [f] };
          (match walk s 0 0x800010 with | .ok j => decide (j = k) | .error _ => false) && decide (faultOf s 0 k.va = some f ∧ f.toHost = false ∧ f.waiters = [] ∧ s.poste = [] ∧ (leNat ((leBytes 8 0xC00000).take 8)) / 2 ^ 63 % 2 = 0)) | _, _ => false) = true := by decide +kernel

/-- HostCommands: a launch whose image is broken. -/
theorem witness_HostCommands_a_launch_whose_image_is_broken :
    (let words := launchRecord; launchOk words = true ∧ (match peek served ((wordOf words 0).toNat / 2 ^ 56) ((wordOf words 1).toNat % 2 ^ 56) 8 with | .words hd => !headerOk ((wordOf words 1).toNat % 2 ^ 56) hd | _ => false) = true) := by decide +kernel

/-- HostCommands: pages that stay: unmapped, at the host, in flight, not resident, without a fault. -/
theorem witness_HostCommands_pages_that_stay_unmapped_at_the_host_in_flight_not_resident_without_a_fault :
    (match walk served 0 0x10000000, walk served 0 0xA00010, walk served 0 0x800010, walk served 0 0x400010 with
         | .error _, .ok h, .ok k, .ok l => decide (faultOf served 0 h.va = none ∧ h.home ≠ 0 ∧ hostYields served 0 0xA00010 = false ∧
           hostYields served 0 0x800010 = false ∧ faultOf served 0 k.va = none ∧ k.home = 0 ∧ k.pte ≠ 0 ∧ k.res = false) &&
            (let f (back : Bool) : PageFault := { asid := 0, va := l.va, size := l.size, vint := 0, write := false, event := 0, toHost := back, again := false, waiters := [] }
             [true, false].all (fun back => let s : State := { served with faults := [f back] }; decide (faultOf s 0 l.va = some (f back)) && (match walk s 0 0x400010 with | .ok j => decide (j = l) | .error _ => false)))
         | _, _, _, _ => false) = true ∧ (BitVec.ofNat 64 (leNat ((leBytes 8 (2 ^ 63)).take 8))).getLsbD 63 = true := by decide +kernel

/-- HostCommands: an identity that is refused. -/
theorem witness_HostCommands_an_identity_that_is_refused :
    (4095 : Nat) < (hostMsg 4096 8 []).addr.toNat ∧ (let s : State := { served with devid := some 3, launches := [theLaunch] }; s.devid.isSome = true ∧ ∃ l ∈ s.launches, l.done = false) := by decide +kernel

/-- HostCommands: identity, lists, answers, events. -/
theorem witness_HostCommands_identity_lists_answers_events :
    (let m := hostMsg 4095 8 (leBytes 8 1); m.addr.toNat ≤ 4095 ∧ (served.devid = none ∨ ∀ l ∈ served.launches, l.done = true) ∧ 8 ≤ m.data.length) := by decide +kernel

/-- Device 3, which shares a domain with device 5. -/
def inDomain : State := { served with devid := some 3 }

/-- A frame from device 5 to device 3 on port 1. -/
def aFrame (aux : BitVec 8) (va : BitVec 56) (data : List Byte) : Frame :=
  { epoch := 2, asid := 0, dst := 3, src := 5, type := 1, retry := false, ece := false, version := 1, len := BitVec.ofNat 13 data.length, opid := 8, aux := aux,
    va := va, aux2 := 1, psn := 0, payload := data, port := 1, ce := false }

/-- The same, with the answer of operation 8 of device 5 kept. -/
def answered : State :=
  { inDomain with answers := [(5, [{ opid := 8, at_ := 900, status := 0, value := 7 }])], flows := [(5, { Flow.reset with peerEpoch := some 2, known := true })] }

/-- The same, with operation 8 of device 5 in progress, due in a cycle. -/
def inProgress (due : Nat) : State := { inDomain with served := [{ newServed 5 8 with bytes := 0x800000, due := some due }] }

/-- The same, with a letterbox on die 0 and a handle table: its slots of page 4 are not resident. -/
def lettered : State :=
  onDie { inDomain with mem := writeBytes inDomain.mem 0x1FE0 (leBytes 8 (2 ^ 63 + 1)), launches := graph.launches } 0 (fun x => { x with letterboxBit := true })

/-- A record whose handle names a slot of page 4. -/
def farHandle : List Word := [0, BitVec.ofNat 64 (4 * 32768)] ++ List.replicate 30 0

/-- The device as a member of a list that device 5 sends. -/
def listed : State :=
  { inDomain with flows := [(5, { Flow.reset with peerEpoch := some 2, known := true })], listRecv := [(1024 * 5 + 1, { ListRecv.reset with known := true })] }

/-- The device with a frame of list 1 that device 5 has not acknowledged. -/
def unacked : State :=
  { inDomain with listSend := [(1, { psn := 1, rate := .full, unacked := [(5, [{ frame := aFrame 0 0 [], first := 900, attempt := 0, hold := false, acked := false }])] })] }

/-- The device with an operation toward device 5 outstanding for a user. -/
def asking (u : RemoteUser) : State := { inDomain with ops := [{ dev := 5, opid := 8, user := u, left := 1, dst := 0 }] }

/-- The task with a command of 256 bytes of two pages that has started, and its operation. -/
def gettingBy (k : CmdKind) : State :=
  { committed.onCore (fun c => { c with cmds := [{ Cmd.blank 7 (.chan 0) k 900 with
      params := [0x400000, 0x800F80, BitVec.ofNat 64 (5 + 256 * 2 ^ 16), 0], started := some 900 }] }) with
    devid := some 3, ops := [{ dev := 5, opid := 8, user := .cmd 0 0 7, left := 2, dst := 0 }] }

/-- The same with an RGET. -/
def getting : State := gettingBy .rget

/-- The task with an MCAST whose members' answers have come. -/
def multicast : State :=
  { committed.onCore (fun c => { c with cmds := [{ Cmd.blank 7 (.chan 0) .mcast 900 with started := some 900 }] }) with
    mcasts := [{ id := 4, die := 0, core := 0, cmd := 7, list := 3, receipt := 0x400000, members := [5, 6], grp := 0, sent := true, answers := [(5, 0), (6, 0x54)], opids := [] }] }

/-- The graph context and the task with words at the beginning of the text. -/
def stepping (ws : List Word) : State :=
  { onCtl committed 0 (fun c => { c with monitor := false, ctxs := [(0, { Ctx.free with state := .runnable, launch := 1 })] }) with
    mem := writeBytes committed.mem 0x400000 (wordsBytes ws) }

/-- What EncodedInstructionDecodes asks of a state holds of one: instructions of several families. -/
theorem witness_EncodedInstructionDecodes :
    [Instr.apAdd ⟨true, false, 0⟩ ⟨0, 0, 0, 0, 0, 0⟩, .vfma ⟨true, false, 0⟩ ⟨12, 3, 4, 12, 6, 0⟩, .post ⟨true, false, 0⟩ ⟨5, 8, 9⟩, .cwEnd, .tacs ⟨true, false, 0⟩ ⟨5, 0, 1⟩].all (fun i => i.wf &&
      (encode i).isSome) = true := by decide +kernel

/-- What DecodedWordEncodes asks of a state holds of one: words of both lengths. -/
theorem witness_DecodedWordEncodes :
    (decode (wordBytes 0x90000286200A6042)).isSome = true ∧ (decode (leBytes 4 0x50000000)).isSome = true := by decide +kernel

/-- NotInstructions: each of the tags and each of the checks. -/
theorem witness_NotInstructions_each_of_the_tags_and_each_of_the_checks :
    engOf 0xC000000000000000 = 6 ∧ engOf 0xF380002810000009 = 7 ∧ engOf 0xE380002810000009 = 7 ∧ (0xE380002810000009 : Word).getLsbD 60 = false ∧
      engOf 0xFFFFFFFFFFFFFFFF = 7 ∧ decodeOp 0xFFFFFFFFFFFFFFFF = none ∧
        engOf 0x1F00000000000000 < 6 ∧ decodeOp 0x1F00000000000000 = none ∧ (match decodeOp 0x1000000000000001 with | some i => !i.wf | none => false) = true ∧ (match checkWord false 0x1000000000000000 with | .ok _ => true | .error _ => false) = true := by decide +kernel

/-- FabricEvents: a frame that is not the device's, and one that echoes another epoch. -/
theorem witness_FabricEvents_a_frame_that_is_not_the_devices_and_one_that_echoes_another_epoch :
    (let f := aFrame 0 0x400000 [1]; frameOurs served f = false ∧ f.port ≠ innerPort ∧ frameOurs inDomain { f with aux2 := 9 } = true ∧ (9#32).toNat % 65536 ≠ inDomain.epoch.toNat ∧ answerOurs inDomain { f with aux2 := 9 } = false) := by decide +kernel

/-- FabricEvents: a request out of its turn. -/
theorem witness_FabricEvents_a_request_out_of_its_turn :
    (let f := { aFrame 0 0x400000 [1] with psn := 3 }; (arrive inDomain f).1 = .other) := by decide +kernel

/-- FabricEvents: requests answered before, in their turn and repeated. -/
theorem witness_FabricEvents_requests_answered_before_in_their_turn_and_repeated :
    (let f := aFrame 0 0x400000 [1]; (arrive answered f).1 = .next ∧ answerFor (arrive answered f).2 5 8 = some { opid := 8, at_ := 900, status := 0, value := 7 } ∧ (arrive answered (innerFrame f)).1 = .again ∧ answerFor (arrive answered (innerFrame f)).2 5 8 = some { opid := 8, at_ := 900, status := 0, value := 7 }) := by decide +kernel

/-- FabricEvents: requests looked at again. -/
theorem witness_FabricEvents_requests_looked_at_again :
    (let f := innerFrame (aFrame 0 0x400000 [5, 0, 0, 0, 0, 0, 0, 0]); (arrive (inProgress 1000) f).1 = .again ∧ (arrive (inProgress 1000) f).2 = inProgress 1000 ∧ answerFor (inProgress 1000) 5 8 = none ∧ (servedFor (inProgress 1000) 5 8).map (fun o => o.due) = some (some 1000) ∧ (servedFor (inProgress 1001) 5 8).map (fun o => o.due) = some (some 1001) ∧ (readErrors (inProgress 1000) 0x800000 4).1 = .clean ∧ (servedFor (inProgress 1000) 5 8).isSome = true ∧ (arrive inDomain f).1 = .again ∧ (arrive inDomain f).2 = inDomain ∧ answerFor inDomain 5 8 = none ∧ servedFor inDomain 5 8 = none) := by decide +kernel

/-- FabricEvents: requests that come in their turn for the first time. -/
theorem witness_FabricEvents_requests_that_come_in_their_turn_for_the_first_time :
    [aFrame 0 0x400000 [1, 2], aFrame 0 0xC00000 [1, 2], aFrame 0 0 [], aFrame 0 4 [], aFrame 0 0x400008 [], aFrame 0 0xC00000 [], aFrame 7 0 (List.replicate 256 0), aFrame 8 0 []].all (fun f => (arrive inDomain f).1 == .next &&
      (answerFor (arrive inDomain f).2 5 8).isNone && (((servedFor (arrive inDomain f).2 5 8).getD (newServed 5 8)).failed == 0)) = true ∧
         (let f := aFrame 0 0x400000 [1, 2]; let t := (arrive inDomain f).2; (match outerParts 0 8 0x400000 2 t, outerParts 0 8 0xC00000 2 t with | (.ok ps, u), (.error _, _) => posteRoom u ps.2 | _, _ => false) = true) ∧
         (let t := (arrive inDomain (aFrame 0 0x400008 [])).2; (match outerParts 0 2 0x400008 8 t, outerParts 0 2 0xC00000 8 t with | (.ok ps, u), (.error _, _) => posteRoom u ps.2 | _, _ => false) = true) ∧
         (let s : State := { inDomain with served := [{ newServed 5 8 with failed := 9 }], flows := [(5, { Flow.reset with peerEpoch := some 2, known := true })] };
           ((servedFor (arrive s (aFrame 0 0 [])).2 5 8).getD (newServed 5 8)).failed ≠ 0 ∧ (arrive s (aFrame 0 0 [])).1 = .next ∧
           answerFor (arrive s (aFrame 0 0 [])).2 5 8 = none) ∧
         (let f := aFrame 7 0 (List.replicate 256 0); postAwaits (arrive inDomain f).2 7 (.remote 5 8) (bytesWords 32 f.payload) = none) ∧
         (let f := aFrame 0 0 (wordsBytes farHandle); let t := (arrive lettered f).2; (arrive lettered f).1 = .next ∧ answerFor t 5 8 = none ∧ (postAwaits t 0 (.remote 5 8) (bytesWords 32 f.payload)).isSome = true) := by decide +kernel

/-- FabricEvents: a delivery of a list, and frames of one that are none. -/
theorem witness_FabricEvents_a_delivery_of_a_list_and_frames_of_one_that_are_none :
    (let f := { aFrame 0 0x400000 (List.replicate 9 1) with type := 9 }; let s := listed;
        frameOurs s f = true ∧ 9 ≤ f.payload.length ∧ f.port ≠ innerPort ∧ f.port ≠ stallPort ∧ ckptHolding s = false ∧
          recvOf (takeEpoch s f) f = { ListRecv.reset with known := true } ∧ f.psn = 0 ∧
        (innerFrame f).port = innerPort ∧ ckptHolding { s with ckpt := some (aCkpt 4) } = true ∧
        (let g := { f with psn := 3, aux2 := 2 }; frameOurs s g = true ∧ (recvOf (takeEpoch s g) g).known = false ∧
          (recvOf (takeEpoch s g) g).resetSent = false ∧ g.psn ≠ 0) ∧
        (let e := { f with psn := BitVec.ofNat 32 5 }; frameOurs s e = true ∧ e.psn.toNat = (recvOf (takeEpoch s e) e).psn + 4 + 1) ∧
        (let u := onRecv s f (fun x => { x with psn := 7 }); (recvOf (takeEpoch u f) f).psn = f.psn.toNat + 6 + 1 ∧ (recvOf (takeEpoch u f) f).known = true) ∧
        (let h := { f with port := stallPort }; (recvOf (onRecv s h (fun x => { x with stall := [h] })) h).stall.head? = some h)) := by decide +kernel

/-- FabricEvents: answers of an RPOST and a CANCEL, and none. -/
theorem witness_FabricEvents_answers_of_an_rpost_and_a_cancel_and_none :
    (let f := aFrame 0 0x800100 [1, 2]; answerOurs inDomain f = true ∧ opFor inDomain f = none ∧ (let s := asking (.rpost 0 0 9); answerOurs s f = true ∧ (opFor s f).map (fun o => o.user) = some (.rpost 0 0 9)) ∧ (let s := asking (.cancel 0 0 9); (opFor s f).map (fun o => o.user) = some (.cancel 0 0 9))) := by decide +kernel

/-- FabricEvents: pieces of an RGET: one that is due, one that is not of it. -/
theorem witness_FabricEvents_pieces_of_an_rget_one_that_is_due_one_that_is_not_of_it :
    (let f := { aFrame 0 0 (List.replicate 128 1) with va := 0x800F80 }; let s := getting; answerOurs s f = true ∧ (opFor s f).map (fun o => o.user) = some (.cmd 0 0 7) ∧ (match (coreOf s 0 0).cmdOf 7 with
          | some m => (let off := f.va.toNat - (wordOf m.params 1).toNat; let ps := getPieces (wordOf m.params 1).toNat (fabLen m.params) 4098 0; ps.contains (off, 128) && !ps.contains (off, 127) && decide (off ∉ m.seen)) | none => false) = true) := by decide +kernel

/-- FabricEvents: a RESULT of a command: an error, an end, an old value. -/
theorem witness_FabricEvents_a_result_of_a_command_an_error_an_end_an_old_value :
    (let s := getting; let f := aFrame 0x51 0 (List.replicate 8 0); answerOurs s f = true ∧ (opFor s f).map (fun o => o.user) = some (.cmd 0 0 7) ∧ ((coreOf s 0 0).cmdOf 7).map (fun m => m.kind) = some .rget ∧ f.aux.toNat ≠ 0 ∧ (aFrame 0 0 (List.replicate 8 0)).aux.toNat = 0 ∧ ((coreOf (gettingBy .ramo) 0 0).cmdOf 7).map (fun m => m.kind) = some .ramo) := by decide +kernel

/-- FabricEvents: acknowledgements and resets. -/
theorem witness_FabricEvents_acknowledgements_and_resets :
    (let f := aFrame 0 0 []; frameOurs inDomain f = true ∧ f.aux2.toNat % 65536 = inDomain.epoch.toNat ∧ f.aux.getLsbD 0 = false ∧ (aFrame 1 0 []).aux.getLsbD 0 = true ∧ ((listUnacked unacked 1 5).find? (fun y => !y.acked)).isSome = true ∧ frameOurs unacked (aFrame 1 1 []) = true) := by decide +kernel

/-- FabricEvents: timers of a flow. -/
theorem witness_FabricEvents_timers_of_a_flow :
    (flowOf inDomain 5).ackDue = none ∧ (flowOf (onFlow inDomain 5 (fun x => { x with ackDue := some 1000 })) 5).ackDue = some 1000 ∧ 1000 ≤ inDomain.cycle ∧
      (rateOf inDomain 5).raiseAt ≠ some inDomain.cycle ∧
         (let s := onFlow inDomain 5 (fun x => { x with rate := { num := 75, halvings := 3, lastCut := some 900, raiseAt := some 1000 } });
           (rateOf s 5).raiseAt = some s.cycle ∧ 75 + 8 * 2 ^ 3 < 800 * 2 ^ 3) ∧
         (let s := onFlow inDomain 5 (fun x => { x with rate := { num := 792, halvings := 0, lastCut := some 900, raiseAt := some 1000 } }); (rateOf s 5).raiseAt = some s.cycle ∧ 800 ≤ 792 + 8) ∧ (flowOf inDomain 5).up = true ∧ (flowOf (onFlow inDomain 5 (fun x => { x with up := false, resetAt := some 1000 })) 5).up = false ∧ (flowOf (onFlow inDomain 5 (fun x => { x with up := false, resetAt := some 1000 })) 5).resetAt = some inDomain.cycle ∧ (5 : Nat) < 4096 ∧ (4096 : Nat) ≤ 4096 + 5 ∧ (flowOf (onFlow inDomain 5 (fun x => { x with ackDue := some 1001 })) 5).ackDue = some 1001 ∧ inDomain.cycle < 1001 := by decide +kernel

/-- FabricEvents: a receipt. -/
theorem witness_FabricEvents_a_receipt :
    inDomain.mcasts.find? (fun o => o.id == 4) = none ∧ (let s := multicast; (match s.mcasts.find? (fun o => o.id == 4) with | some o => (match (coreOf s o.die o.core).cmdOf o.cmd with
         | some m => (match engineWrite o.die o.core m true 16 o.receipt (wordsBytes (receiptWords o)) s with | (.ok _, _) => true | _ => false) | none => false) | none => false) = true ∧ s.writes = []) := by decide +kernel

/-- StepRunsDecodedWord: a word of each processor, and one that is none. -/
theorem witness_StepRunsDecodedWord_a_word_of_each_processor_and_one_that_is_none :
    ((match wordFor (stepping [0xF380002810000009, 0xC000000000000000]) (.cc 0) (0) with | some w => (match checkWord true w with | .ok _ => true | .error _ => false) | none => false) = true ∧ (match wordFor (stepping [0xF380002810000009, 0xC000000000000000]) (.cc 0) (0 + 8) with | some w => (match checkWord true w with | .ok _ => false | .error _ => true) | none => false) = true ∧ trappedNow (stepping [0xF380002810000009, 0xC000000000000000]) (.cc 0) = false) ∧ ((match wordFor (stepping [0x1000000000000000, 0xC000000000000000]) (.ap 0 0) (0x200000) with | some w => (match checkWord false w with | .ok _ => true | .error _ => false) | none => false) = true ∧ (match wordFor (stepping [0x1000000000000000, 0xC000000000000000]) (.ap 0 0) (0x200000 + 8) with | some w => (match checkWord false w with | .ok _ => false | .error _ => true) | none => false) = true ∧ trappedNow (stepping [0x1000000000000000, 0xC000000000000000]) (.ap 0 0) = false) ∧ ((match wordFor (stepping [0x3386006006020198, 0xC000000000000000]) (.xp 0 0) (0x200000) with | some w => (match checkWord false w with | .ok _ => true | .error _ => false) | none => false) = true ∧ (match wordFor (stepping [0x3386006006020198, 0xC000000000000000]) (.xp 0 0) (0x200000 + 8) with | some w => (match checkWord false w with | .ok _ => false | .error _ => true) | none => false) = true ∧ trappedNow (stepping [0x3386006006020198, 0xC000000000000000]) (.xp 0 0) = false) := by decide +kernel

/-- StepRunsDecodedWord: a word of the courier. -/
theorem witness_StepRunsDecodedWord_a_word_of_the_courier :
    (match courierWordAt (stepping [0x50000000]) 0 0 0x200000 with | some w => (match checkCourier w with | .ok i => decide (i = .cwEnd) | .error _ => false) | none => false) = true := by decide +kernel

/-- StepRunsDecodedWord: an event. -/
theorem witness_StepRunsDecodedWord_an_event :
    ({ running with agenda := [.ev .scoreHalve] } : State).agenda = .ev .scoreHalve :: [] := by decide +kernel

/-- NextCycleBegins: a device that runs, one without power, and one whose power comes. -/
theorem witness_NextCycleBegins_a_device_that_runs_one_without_power_and_one_whose_power_comes :
    running.agenda = [] ∧ running.boot.step ≠ .off ∧ (let s := booting .off; s.agenda = [] ∧ s.boot.step = .off ∧ .powerOn ∉ s.inbox) ∧ (let s : State := { booting .off with inbox := [.powerOn] }; .powerOn ∈ s.inbox) := by decide +kernel

/-- What StepKeepsCanonicalMemory asks of a state holds of one: a step that writes. -/
theorem witness_StepKeepsCanonicalMemory :
    (let s : State := { committed with writes := [{ id := 3, agent := apAgent committed, die := 0, core := 0, seq := 3, at_ := 980, hubAt := 990, coreAt := 990, dieAt := 995, due := 1000, kind := .rc, release := false, act := .bytes [(0x800000, [1, 2, 0, 4])] }], agenda := [.ev (.writePerformedAtHome 3)] }; s.mem.wf ∧ (∀ p ∈ s.cellar, p.2.mem.wf) ∧ (match step s with | .next _ => true | _ => false) = true) := by decide +kernel

/-- The task with other addresses in a2 and one entry in xq 0, whose mask it names. -/
def storing (va : Nat) (mask : Mask) : State :=
  task.onCore (fun c => { c with a := tput c.a 2 (BitVec.ofNat 64 va), xq := [(0, [{ indices with mask := mask }]), (1, [indices])] })

/-- The window's task with its image in the pool, where a read of its bank is rebuilt. -/
def inPool (kind : Nat) (e : Entry) : State :=
  { onDie { running with launches := [theLaunch] } 0 (fun x => { x with entries := [e], nextSerial := 6, wlog2 := 3 }) with
    mem := writeBytes (writeBytes (writeBytes (writeBytes running.mem 0x1FE0 (leBytes 8 (2 ^ 63 + 1))) 0x800000 (wordsBytes [0x1600000, BitVec.ofNat 64 (2 ^ 32)]))
      0x010000000000 (wordsBytes [0, BitVec.ofNat 64 (2048 * 2 ^ 32 + 2048)])) 0x010000000080 (wordsBytes [64, 0])
    injPool := [(0, kind)] }

/-- A plot under test until a cycle, with what the test has found. -/
def tested (until_ : Nat) (bad : Bool) : State :=
  { running with withdrawn := [{ hw := .plot 0 1 2, state := .testing, slot := none, holds := [], score := 7, until_ := until_, bad := bad }] }

/-- A command of the host that names no command of its port. -/
def bootMsg : HostMsg := { hostMsg 0 8 [] with boot := true }

/-- ApStoresComplete: an entry whose bytes lie in a sealed page and in one of another code. -/
theorem witness_ApStoresComplete_an_entry_whose_bytes_lie_in_a_sealed_page_and_in_one_of_another_code :
    (let s := storing 0xFFFFC0 (BitVec.allOnes 256); apHolds hd s = true ∧ s.core.xqHead 0 s.cycle = some { indices with mask := BitVec.allOnes 256 } ∧
         mixedRuns s ((maskRuns (BitVec.allOnes 256) (vecBytes indices.data)).map (fun r => ((0xFFFFC0 + r.1) % 2 ^ 64, r.2))) = true) ∧
        (let s := storing 0xFFFFC0 (BitVec.allOnes 256); s.core.xqHead 1 s.cycle = some indices ∧ (apGet s 2).toNat % 8 = 0 ∧
         mixedRuns s (((List.range 32).filter (fun i => (BitVec.allOnes 256).getLsbD (i * 8))).map (fun i =>
            (elementAddress (apGet s 2) 8 0 indices.data i, leBytes 8 (indices.data.toNat / 2 ^ (8 * 8 * i) % 2 ^ (8 * 8))))) = true) := by decide +kernel

/-- ApStoresComplete: an entry without a masked byte. -/
theorem witness_ApStoresComplete_an_entry_without_a_masked_byte :
    (let s := storing 0x400000 0; s.core.xqHead 0 s.cycle = some { indices with mask := 0 } ∧ s.core.xqHead 1 s.cycle = some indices ∧ (List.range 32).all (fun i => !(0 : Mask).getLsbD (i * 8)) = true) := by decide +kernel

/-- CommandEvents: a command of a claim that meets a soft error. -/
theorem witness_CommandEvents_a_command_of_a_claim_that_meets_a_soft_error :
    (let s : State := { trellisWith .mstream false none with strikes := [.queues 0 0] }; (match s.core.cmds.find? (fun y => y.id == 7) with | some m => decide (m.queue = .claim 1 ∧ m.started = none) && trellisReady s 0 0 m && s.strikes.contains (.queues 0 0) | none => false) = true) := by decide +kernel

/-- CheckerMatches: a store and an atomic whose page may be written. -/
theorem witness_CheckerMatches_a_store_and_an_atomic_whose_page_may_be_written :
    ∀ a ∈ ([.store 0 0x400000 [(0x800000, [1])] .rc false ⟨0, 0, 0, 0⟩, .amo .add 0 0x400000 4 1 0 9] : List OutAct), let s := acting (anAct a);
      let u := onCtl s 0 (fun c => { c with outward := [], shadows := tput c.shadows 0 { (anAct a).snap with awaits := a.awaited } });
        readyOutward s.cycle [] (ctlOf s 0).outward = some (anAct a) ∧ s.ckpt = none ∧
        (splitAccess 0 none 0 0 { write := true, raw := true, ordered := false, hostTrap := true } 0x400000 1 u).2.1 = none ∧
        (match splitAccess 0 none 0 0 { write := true, raw := true, ordered := false, hostTrap := true } 0x400000 4 u with | (_ :: _, none, _) => true | _ => false) = true := by decide +kernel

/-- WritesPerform: several runs, several blocks, a block in planes. -/
theorem witness_WritesPerform_several_runs_several_blocks_a_block_in_planes :
    (({ committed with writes := [{ id := 3, agent := apAgent committed, die := 0, core := 0, seq := 3, at_ := 980, hubAt := 990, coreAt := 990, dieAt := 995, due := 1000, kind := .rc, release := false, act := .bytes [(0x800000, [1, 2]), (0x800100, [0, 4])] }] } : State).writes.find? (fun x => x.id == 3)).isSome = true ∧
      (({ committed with writes := [{ id := 3, agent := apAgent committed, die := 0, core := 0, seq := 3, at_ := 980, hubAt := 990, coreAt := 990, dieAt := 995, due := 1000, kind := .rc, release := false, act := .blocks 11 [{ pa := 0x800000, scale := 0x900000, first := 31, vals := [.fin false 3 0] }, { pa := 0x800020, scale := 0x900001, first := 0, vals := [.fin true 5 0, .fin false 1 0] }] }] } : State).writes.find? (fun x => x.id == 3)).isSome = true ∧
      (({ committed with writes := [{ id := 3, agent := apAgent committed, die := 0, core := 0, seq := 3, at_ := 980, hubAt := 990, coreAt := 990, dieAt := 995, due := 1000, kind := .rc, release := false, act := .planes 3 [(0x800000, 12)] 0 [.fin false 5 0, .fin true 1 0] }] } : State).writes.find? (fun x => x.id == 3)).isSome = true ∧
      committed.mem.wf := by decide +kernel

/-- WritesPerform: an atomic that reads a poisoned word. -/
theorem witness_WritesPerform_an_atomic_that_reads_a_poisoned_word :
    (let s := poisonAt ({ committed with writes := [{ id := 3, agent := apAgent committed, die := 0, core := 0, seq := 3, at_ := 980, hubAt := 990, coreAt := 990, dieAt := 995, due := 1000, kind := .rc, release := false, act := .amo .add 0x800000 8 5 0 (.core 0 0) (.ap 9) 0x200010 }] } : State) 0x800000; (s.writes.find? (fun x => x.id == 3)).isSome = true ∧ (readErrors { s with writes := [] } 0x800000 8).1 = .uncorrectable) := by decide +kernel

/-- ResultsLandAsScheduled: a step of an offset, and results of one register in one cycle. -/
theorem witness_ResultsLandAsScheduled_a_step_of_an_offset_and_results_of_one_register_in_one_cycle :
    (lone (.offsetAdd 3 5)).core.landings = [⟨980, 0x1000, 990, [.offsetAdd 3 5]⟩] ∧
        (let s := vectors.onCore (fun c => { c with landings := [⟨981, 0x1000, 990, [.ap 3 7]⟩, ⟨980, 0x1000, 1000, [.ap 3 8]⟩] });
          s.core.landings = [⟨981, 0x1000, 990, [.ap 3 7]⟩, ⟨980, 0x1000, 1000, [.ap 3 8]⟩] ∧ (990 : Nat) ≤ s.cycle ∧ (1000 : Nat) ≤ s.cycle) ∧
        (let s := vectors.onCore (fun c => { c with landings := [⟨980, 0x1008, 1000, [.ap 3 7]⟩, ⟨980, 0x1000, 1000, [.ap 3 8]⟩] }); s.core.landings.map (fun l => l.pc) = [0x1008, 0x1000]) := by decide +kernel

/-- DispatchEvents: a preload that is rebuilt, and one that meets an uncorrectable error. -/
theorem witness_DispatchEvents_a_preload_that_is_rebuilt_and_one_that_meets_an_uncorrectable_error :
    [(1, TaskState.dispatched), (2, .dispatched), (2, .committed)].all (fun k => let e := { taskEntry .dispatched .dispatched with state := k.2 }; let s := inPool k.1 e
       decide (entryOf s 0 1 = some e ∧ e.pending = none ∧ preloadDue s 0 e 100 ≤ s.cycle) && (match programOf s 0 e 0 with
        | .ok t => (descriptorFault t.desc).isNone && (absentIn s t.asid (preloadRuns e t)).isNone &&
          decide ((runsFound t.asid (preloadRuns e t) s).1 = (if k.1 = 1 then .rebuilt else .uncorrectable))
        | .error _ => false)) = true := by decide +kernel

/-- BoardEvents: a test that is not over, and ones that are, with and without a finding. -/
theorem witness_BoardEvents_a_test_that_is_not_over_and_ones_that_are_with_and_without_a_finding :
    ((tested 1001 true).withdrawn.find? (fun y => y.hw == .plot 0 1 2 && y.state == .testing)).map (fun w => (w.until_, w.bad)) = some (1001, true) ∧
      ((tested 1001 false).withdrawn.find? (fun y => y.hw == .plot 0 1 2 && y.state == .testing)).map (fun w => (w.until_, w.bad)) = some (1001, false) ∧
      ((tested 1000 true).withdrawn.find? (fun y => y.hw == .plot 0 1 2 && y.state == .testing)).map (fun w => (w.until_, w.bad)) = some (1000, true) ∧
      ((tested 1000 false).withdrawn.find? (fun y => y.hw == .plot 0 1 2 && y.state == .testing)).map (fun w => (w.until_, w.bad)) = some (1000, false) ∧
      (List.range 8).flatMap (dispatchedOn (tested 1000 false)) = [] := by decide +kernel

/-- CheckpointEvents: each end of a stream. -/
theorem witness_CheckpointEvents_each_end_of_a_stream :
    (let s : State := running; hostPortUp s 0 = false ∧ hostPortUp s 1 = false) ∧ (let s : State := { running with ports := [(16, true)] };
      hostPortUp s 0 = true ∧ 0 ∉ s.boot.open_ ∧ hostPortUp s 1 = false) ∧
        (let s : State := { served with ports := [(16, true)] }; hostPortUp s 0 = true ∧ 0 ∈ s.boot.open_ ∧ cellarTarget s.boot = none) ∧
        (let s := reaching .running; (cellarTarget s.boot).isSome = true ∧ s.cellarLink = .up) ∧ running.injPool = [] ∧ running.injHub = [] := by decide +kernel

/-- HostCommands: an OP of no boot command. -/
theorem witness_HostCommands_an_op_of_no_boot_command :
    bootMsg.boot = true ∧ bootServed (booting .handoff).boot = true ∧ bootServed served.boot = false := by decide +kernel

/-- HostCommands: memory whose bank rebuilds it, and a poisoned word. -/
theorem witness_HostCommands_memory_whose_bank_rebuilds_it_and_a_poisoned_word :
    (let s : State := { served with injPool := [(0, 1)] }; let m := hostMsg 0x1600000 16 []; uctServes s m ∧ hostYields s 0 0x1600000 = false ∧ (match hostRuns s 0 false 4 0x1600000 16 with | .ok ps => rebuilds s ps && !(readRuns s .host 8 32 s.seq ps).2.1 | .error _ => false) = true) ∧
        (let s : State := { served with injPool := [(0, 1)] }; hostPhysical 0x010000000000 16 = true ∧ rebuilds s (physRuns s 0x010000000000 16) = true) ∧
        (let s := poisonAt served 0x800010; (match hostRuns s 0 false 4 0x400010 16 with | .ok ps => (readRuns s .host 8 32 s.seq ps).2.1 | .error _ => false) = true ∧ hostYields s 0 0x400010 = false) := by decide +kernel

/-- XpBufferWords: a vector of AB without a phase range. -/
theorem witness_XpBufferWords_a_vector_of_ab_without_a_phase_range :
    (let f : FM := FM.mk 9 0 2 0 0 4; let c := vectors.core; isMappedOff c 2 4 = false ∧ 4 % 2 ^ f.sz.toNat = 0 ∧ 4 + 256 ≤ 16777216 ∧
      ((c.oGet 0).setWidth 64 + sext f.off * BitVec.ofNat 64 (2 ^ f.sz.toNat)).toNat % 2 ^ 32 = 4 ∧ f.b.toNat % 4 = 2 ∧
         xpHolds hd vectors = true ∧ armedOn vectors 0 0 2 = none ∧ f.d.getLsbD 9 = false ∧ canWrite c 1 f.d = true ∧ armedOn vectors 0 0 0 = none) := by decide +kernel

/-- NextCycleBegins: no soft error and no injection that was used. -/
theorem witness_NextCycleBegins_no_soft_error_and_no_injection_that_was_used :
    running.agenda = [] ∧ running.boot.step ≠ .off ∧ running.strikes = [] ∧ (∀ d ∈ List.range 8, (dieOf running d).injUsed = false ∧
      readyOutward 1001 [] (ctlOf running d).outward = none) := by decide +kernel

/-- NextCycleBegins: a soft error. -/
theorem witness_NextCycleBegins_a_soft_error :
    (let s : State := { running with strikes := [.queues 0 0] }; s.agenda = [] ∧ s.boot.step ≠ .off) := by decide +kernel

/-- The graph context whose die's core 0 has counted, of tag 3, 20 bytes and 7 waits; its task has counted almost all that its counter holds in its earlier runs. -/
def heated (runs : Bool) : State :=
  onCore (onDie graph 0 (fun x => { x with
      entries := [{ anEntry 1 .running with shards := [{ aShard .running with hotBytes := [(3, 2 ^ 56 - 10)] }] }], thresh := 7, inj := 9, testrec := 11, errcnt := 2
      errors := [(1, { w0 := 21, w1 := 22, w2 := 23, w3 := 24 })], pscore := [(3, 9)], cscore := [(2, 1)], gscore := [(15, 6)], lscore := [(3, 5)] })) 0 0
    (fun c => { c with task := if runs then some (theTask false) else none, hotBytes := [(3, 20)], hotStall := [(3, 7)] })

/-- The same in its monitor, with scores of the hubs and of the fabric's ports. -/
def scored : State :=
  { onCtl (heated false) 0 (fun c => { c with monitor := true, mon := { c.mon with state := .runnable, wait := .none, regs := ccValues } }) with
    hscore := [(2047, 3)], fscore := [(15, 2)] }

/-- The graph context of a launch that has no other. -/
def last : State := onCtl graph 0 (fun c => { c with ctxs := [(0, { Ctx.free with state := .runnable, launch := 1, regs := ccValues })] })

/-- The task with a load of eight bytes of the table alone to land. -/
def loading (signed : Bool) : State := lone (.load (.ap 3) signed [(0x1000, 8)] (apAgent task) 4 0x1000)

/-- A cell that is being made, and its state. -/
def aMake (fresh taken : Bool) : Materialise := { id := 3, asid := 0, vint := 5, va := 0x1000, size := 4096, fresh := fresh, base := 0x1000, frame := 0x5000, readyAt := 1003, taken := taken }

/-- A write under way. -/
def underWay (due : Nat) (act : WriteAct) : Pending :=
  { id := 3, agent := apAgent committed, die := 0, core := 0, seq := 3, at_ := 980, hubAt := 990, coreAt := 990, dieAt := 995, due := due, kind := .rc, release := false, act := act }

/-- The committed task with a write under way. -/
def writing (due : Nat) (act : WriteAct) : State := { committed with writes := [underWay due act] }

/-- The same with a barrier object of die 1's pool, on which die 1 has a write of its own under way. -/
def across : State :=
  { writing 1000 (.amo .add 0x010040000000 8 5 0 (.core 0 0) (.ap 9) 0x200010) with
    barriers := [0x010040000000], writes := [underWay 1000 (.amo .add 0x010040000000 8 5 0 (.core 0 0) (.ap 9) 0x200010), { underWay 1040 (.bytes [(0x010040000000, [1])]) with id := 4, die := 1, agent := .copier 1 }] }

/-- The device with a task's image at an address, and, of an image on page 10, the entries of the table around its own poisoned. -/
def farImage (e : Entry) (image : Word) : State :=
  poisonAt { placed false e with
    mem := writeBytes (writeBytes (placed false e).mem 0x800000 (wordsBytes [image, BitVec.ofNat 64 (2 ^ 32)])) 0x2800000 (wordsBytes [0, BitVec.ofNat 64 (4096 * 2 ^ 32 + 4096)]) }
    (if image = 0x1400000 then 0x1080 else 0)

/-- A fold task of vintage 5 with one cell, in the pool of a die. -/
def folding (pa : Nat) : State := { windowOf { anEntry 1 .running with recd := aFold } with cells := [{ slot := 0, asid := 0, vint := 5, va := 0x1600000, frame := pa, size := 4096 }] }

/-- A write under way at a die, and a barrier object at its address. -/
def atBarrier (s : State) (die pa : Nat) : State :=
  { s with barriers := [pa], writes := [{ underWay 1040 (.bytes [(pa, [1])]) with die := die, agent := .copier die }] }

/-- The device with a word's unit served from a slot at 0x40000000. -/
def slotted (pa : Nat) : State := { running with withdrawn := [{ hw := unitOfPa pa, state := .fenced, slot := some 0x40000000, holds := [], score := 0, until_ := 0, bad := false }] }

/-- A launch record whose image lies at an address. -/
def recordAt (image : Word) : List Word := launchRecord.mapIdx (fun i w => if i = 1 then image else w)

/-- The device with a launch's image in the pool of die 0, of which the next read of its bank is not clean. -/
def poolImage (kind : Nat) : State :=
  { served with
    mem := writeBytes served.mem 0x010000000000 (wordsBytes [BitVec.ofNat 64 (2 ^ 32 + 0x494C594D), BitVec.ofNat 64 (2048 * 2 ^ 32 + 2048), 0, 0, 0, 0, 0, 0])
    injPool := [(0, kind)] }

/-- A piece of a boot-stage command with all that it needs come before it. -/
def lastPiece (s : State) (before : List Byte) (tail : List Byte) : State × HostMsg :=
  ({ s with boot := { s.boot with pieces := [(1, before)] } }, { hostMsg 0 8 tail with addr := BitVec.ofNat 56 before.length })

/-- A frame of list 1 from device 5. -/
def listFrame (psn : BitVec 32) (retry : Bool) : Frame := { aFrame 0 0x400000 (List.replicate 9 1) with type := 9, psn := psn, retry := retry, ce := true }

/-- A device that has no identity, with frames of device 5 that stand first in their stalls. -/
def stalled (f : Frame) : State :=
  { served with flows := [(5, { Flow.reset with peerEpoch := some 2, known := true, stall := [f] })], listRecv := [(1024 * 5 + 1, { ListRecv.reset with known := true, stall := [f] })] }

/-- The device with an atomic operation of device 5 in progress on the pool of die 0, whose bank's next read is not clean, or with a strike of its link. -/
def atomicAt (kind : Nat) (strikes : List Strike) : State := { inDomain with served := [{ newServed 5 8 with bytes := 0x010000000000, due := some 1000 }], injPool := if kind = 0 then [] else [(0, kind)], strikes := strikes }

/-- NotInstructions: a word of the control core with a field that must be zero. -/
theorem witness_NotInstructions_a_word_of_the_control_core_with_a_field_that_must_be_zero :
    engOf 17656925289059450881 = 7 ∧ (17656925289059450881 : Word).getLsbD 60 = true ∧ (match decodeOp 17656925289059450881 with | some i => !i.wf | none => false) = true := by decide +kernel

/-- CcVintages: a fold in monitor mode, of no LIVE vintage, with each kind of slot. -/
theorem witness_CcVintages_a_fold_in_monitor_mode_of_no_live_vintage_with_each_kind_of_slot :
    (onCtl vintages 0 (fun c => { c with monitor := true })).dies ≠ vintages.dies ∧ (ctlOf vintages 0).monitor = false ∧ ccHolds hd vintages = true ∧
      (ccGet vintages 5).toNat = 5 ∧ tget (spaceOf vintages (ccAsid vintages)).vints 5 .free = .live ∧
        ((ccRegs vintages).get 4).toNat % 64 ≠ 0 ∧ [(1, false), (2, true)].all (fun k => let there := ((ccRegs vintages).get k.1).toNat; decide (there % 64 = 0) && (match walk vintages (ccAsid vintages) there with | .ok l => (l.home == 0 && l.wr) == k.2 | .error _ => false)) = true ∧
        (ccGet vintages 0).toNat = 0 ∧ 4095 < (ccGet vintages 31).toNat := by decide +kernel

/-- SystemRegisters: registers that both modes read. -/
theorem witness_SystemRegisters_registers_that_both_modes_read :
    ccHolds hd graph = true ∧ (ctlOf graph 0).monitor = false ∧ ∀ n ∈ [0, 0x10, 0x11, 0x12, 0x13, 0x14, 0x15, 0x20], n ∈ sysValues.map (fun e => e.1) := by decide +kernel

/-- SystemRegisters: error records and scores. -/
theorem witness_SystemRegisters_error_records_and_scores :
    ccHolds hd scored = true ∧ (ctlOf scored 0).monitor = true ∧ (ctlOf (heated false) 0).monitor = false ∧ (0 : Nat) < 64 ∧ (63 : Nat) < 64 ∧
      sysScores.map (fun e => (e.1, e.2.1)) = [(0x200000, 512), (0x250000, 32), (0x250100, 16), (0x250200, 4), (0x260000, 2048), (0x261000, 16)] := by decide +kernel

/-- SystemRegisters: a hotness counter. -/
theorem witness_SystemRegisters_a_hotness_counter :
    (coreOf (heated false) 0 0).task = none ∧ (coreOf (heated true) 0 0).task = some (theTask false) ∧ (match entryOf (heated true) 0 1 with | some e => (e.shards[0]?).isSome | none => false) = true ∧ (0x100000 : Nat) + 2 * 3 / 512 % 32 = 0x100000 ∧ 0x100007 < 0x104000 := by decide +kernel

/-- CcSystemWords: HALT of one context of two, and of the last. -/
theorem witness_CcSystemWords_halt_of_one_context_of_two_and_of_the_last :
    (let t := ccOn graph (fun x => { x with state := .done }); graph.launches = [theLaunch] ∧ theLaunch.done = false ∧
      ¬ (∀ x ∈ t.dies, (∀ k ∈ x.2.ctl.ctxs, k.2.launch = 1 → k.2.state = .done ∨ k.2.state = .free) ∧ x.2.entries = [])) ∧
         (let t := ccOn last (fun x => { x with state := .done }); last.launches = [theLaunch] ∧ (ctlOf last 0).monitor = false ∧ ∀ x ∈ t.dies, (∀ k ∈ x.2.ctl.ctxs, k.2.launch = 1 → k.2.state = .done ∨ k.2.state = .free) ∧ x.2.entries = [] ∧ x.2.letterbox = [] ∧ x.2.childQueue = [] ∧ x.2.stalled = []) := by decide +kernel

/-- What CcTrapEntry asks of a state holds of one: a trap with an action of the monitor before the checker, and without. -/
theorem witness_CcTrapEntry :
    (∀ o ∈ (ctlOf (acting (anAct (.ckpt 9 5))) 0).outward, o.set ≠ 8) ∧
      (∃ o ∈ (ctlOf (acting { anAct (.sysw 4 5) with set := 8 }) 0).outward, o.set = 8) := by decide +kernel

/-- MonitorEntryAndReturn: ERET to a context that is DONE. -/
theorem witness_MonitorEntryAndReturn_eret_to_a_context_that_is_done :
    (let s := onCtl monitor 0 (fun c => { c with epc := 64, pctx := 3, ctxs := c.ctxs ++ [(3, { Ctx.free with state := .done })] }); (ctlOf s 0).events = [] ∧ (ctlOf s 0).pmode = false ∧ ((ctlOf s 0).ctxOf 3).state = .done ∧ ({ ctlOf s 0 with ctx := 3 } : Ctl).nextCtx = some 0) := by decide +kernel

/-- XpLoopsCount: an entry whose page is in a format of blocks. -/
theorem witness_XpLoopsCount_an_entry_whose_page_is_in_a_format_of_blocks :
    (let t := { theTask false with image := 0x1000000 }; let s := task.onCore (fun c => { c with task := some t }); s.core.task = some t ∧ s.core.xp.loop = none ∧ (loopTrap s t 0).isSome = true) := by decide +kernel

/-- CourierWords: words that stop the courier. -/
theorem witness_CourierWords_words_that_stop_the_courier :
    [0x80 * 2 ^ 56 + Cause.reservedField.code * 2 ^ 48 + 16 * 2 ^ 24].all (fun flag => match (coreOf (courierEnding courier flag) 0 0).cmdOf 7 with
         | some k => decide (k.unit = 1 ∧ k.aux = [flag]) && (match writeFlag (courierEnding courier flag) 0 0 k (BitVec.ofNat 64 flag) with | (.ok _, _) => true | _ => false)
         | none => false) = true ∧ (0x60000000 : BitVec 32).toNat / 2 ^ 28 = 6 ∧ (0x08000000 : BitVec 32).toNat / 2 ^ 24 % 2 ^ 4 = 8 ∧
           (0x1F000000 : BitVec 32).toNat / 2 ^ 28 < 2 ∧ (0x21000000 : BitVec 32).toNat / 2 ^ 24 % 2 ^ 4 = 1 ∧
           (0x50000001 : BitVec 32).toNat % 2 ^ 28 ≠ 0 := by decide +kernel

/-- ResultsLandAsScheduled: a predicate of a control core. -/
theorem witness_ResultsLandAsScheduled_a_predicate_of_a_control_core :
    (let s := onCtl graph 0 (fun c => { c with landings := [⟨980, 0x1000, 990, [.ccPred 0 7 false]⟩] }); (ctlOf s 0).landings = [⟨980, 0x1000, 990, [.ccPred 0 7 false]⟩] ∧ (990 : Nat) ≤ s.cycle ∧ (7 : Nat) < 8) := by decide +kernel

/-- ResultsLandAsScheduled: a load that can be read, and one whose cell is still being made. -/
theorem witness_ResultsLandAsScheduled_a_load_that_can_be_read_and_one_whose_cell_is_still_being_made :
    [true, false].all (fun g => let s := loading g; let u := onCore s 0 0 (fun x => { x with landings := [] }); let r := readRuns u (apAgent task) 0 0 4 [(0x1000, 8)]
         decide (s.core.landings = [⟨980, 0x1000, 990, [.load (.ap 3) g [(0x1000, 8)] (apAgent task) 4 0x1000]⟩]) && !r.2.1 && !rebuilds u [(0x1000, 8)] &&
           decide (cellHold u [(0x1000, 8)] ≤ u.cycle ∧ barrierHold u 0 [(0x1000, 8)] ≤ u.cycle)) = true ∧
       (let s : State := { loading false with making := [{ aMake false true with frame := 0x1000 }] };
         s.cycle < cellHold (onCore s 0 0 (fun x => { x with landings := [] })) [(0x1000, 8)]) ∧
       (let s := onCtl graph 0 (fun c => { c with landings := [⟨980, 0, 990, [.load (.cc 0 9) true [(0x1000, 4)] (.ctx 0 0) 4 16]⟩] });
         let v := onCtl s 0 (fun x => { x with landings := [] });
         (ctlOf s 0).landings = [⟨980, 0, 990, [.load (.cc 0 9) true [(0x1000, 4)] (.ctx 0 0) 4 16]⟩] ∧
         (readRuns v (.ctx 0 0) 0 32 v.seq [(0x1000, 4)]).2.1 = false) ∧
       (task.writes = [] ∧ task.poison = [] ∧ task.injPool = [] ∧ task.injHub = [] ∧ task.strikes = []) := by decide +kernel

/-- ResultsLandAsScheduled: a re-read of a condition that lands alone. -/
theorem witness_ResultsLandAsScheduled_a_re_read_of_a_condition_that_lands_alone :
    [Proc.ap 0 0, .xp 0 0].all (fun p => let s := onProc (lone (.cond p 1 true [(0x1000, 8)] (apAgent task) 4 900)) p (fun q => { q with wait := .conds true [1, 2] 3 none [(0, true), (1, false)] 900 });
         decide ((coreOf s 0 0).landings = [⟨980, 0x1000, 990, [.cond p 1 true [(0x1000, 8)] (apAgent task) 4 900]⟩] ∧
           (procOf s p).wait = .conds true [1, 2] 3 none [(0, true), (1, false)] 900)) = true := by decide +kernel

/-- WritesPerform: a write that is no more, one that is not due, and one that its link has lost. -/
theorem witness_WritesPerform_a_write_that_is_no_more_one_that_is_not_due_and_one_that_its_link_has_lost :
    committed.writes.find? (fun x => x.id == 3) = none ∧ (writing 1001 (.bytes [(0x800000, [1])])).cycle < 1001 ∧ (let s : State := { writing 1000 (.bytes [(0x800000, [1])]) with strikes := [.link 0 (0x800000 / 256 % 1152 / 288)] }; (writeLost { s with writes := [] } (underWay 1000 (.bytes [(0x800000, [1])]))).1 = true) := by decide +kernel

/-- WritesPerform: atomics of each operation and size. -/
theorem witness_WritesPerform_atomics_of_each_operation_and_size :
    ([AmoOp.add, .and, .or, .xor, .min, .max, .minu, .maxu, .swap, .cas, .fadd].all (fun op => [4, 8].all (fun z => let w := underWay 1000 (.amo op 0x1008 z 0xC0000000FFFFFFFE 0x80000000 (.core 0 0) (.ap 9) 0x200010); let s := { writing 1000 w.act with mem := putNat committed.mem 0x1008 8 0x8000000080000000 }; let here := { s with writes := [] }
          decide ((readHold here w.agent w.id w.die [(0x1008, z)]).1 = 0) && decide ((writeLost here w).1 = false) &&
            decide ((readErrors here 0x1008 z).1 = .clean)))) = true := by decide +kernel

/-- WritesPerform: an atomic of a control core, one of a barrier object of another die, and updates of a barrier object. -/
theorem witness_WritesPerform_an_atomic_of_a_control_core_one_of_a_barrier_object_of_another_die_and_updates_of_a_barrier_object :
    (let w := underWay 1000 (.amo .cas 0x1008 8 5 0 (.ctl 0) (.cc 2 9) 16); let s := { writing 1000 w.act with mem := committed.mem };
      (writeLost { s with writes := [] } w).1 = false) ∧ (let w := underWay 1000 (.amo .add 0x010040000000 8 5 0 (.core 0 0) (.ap 9) 0x200010);
      let here : State := { across with writes := across.writes.drop 1 }; across.cycle < (readHold here w.agent w.id w.die [(0x010040000000, 8)]).1 ∧
      across.writes.find? (fun x => x.id == 3) = some w) ∧
        ([BarOp.init, .exp, .arr, .land].all (fun op => let w := underWay 1000 (.barrier op 0x800000 5 0x200010); let s := writing 1000 w.act;
          decide ((writeLost { s with writes := [] } w).1 = false ∧ (runsErrors [(0x800000, 24)] { s with writes := [] }).1 = .clean))) = true ∧
        ([BarOp.exp, .arr, .land].all (fun op => let s := poisonAt (writing 1000 (.barrier op 0x800000 5 0x200010)) 0x800010; decide ((runsErrors [(0x800000, 24)] { s with writes := [] }).1 = .uncorrectable))) = true := by decide +kernel

/-- AccessEvents: an entry whose cell is still being made. -/
theorem witness_AccessEvents_an_entry_whose_cell_is_still_being_made :
    (let s : State := { landing with making := [{ aMake false true with frame := 0x400000 }] }; match (tget s.core.aq 1 []).find? (fun y => y.id == 4) with | some e => decide (s.cycle < cellHold s e.reads) && !(readPieces s (apOf s 0 0) 0 0 e.seq e.pieces).2.1 | none => false) = true := by decide +kernel

/-- AccessEvents: a shootdown that a load through the old translation holds up, and a walk under it. -/
theorem witness_AccessEvents_a_shootdown_that_a_load_through_the_old_translation_holds_up_and_a_walk_under_it :
    (let s : State := { (apWaits (.seal 6)).onCore (fun c => { c with landings := [⟨990, 0x200010, 1040, [.load (.ap 3) false [(0x800000, 8)] (apAgent task) 4 0x200010]⟩] }) with shoots := [{ id := 6, asid := 0, vint := none, va := 0x400000, len := 0x200000, held := some [(0x800000, 0x200000)], done := .seal 0 0 }] };
         s.cycle < pinsFree s 6 (some [(0x800000, 0x200000)]) ∧ (match walk s 0 0x400000 with | .ok l => l.res && l.home == 0 && s.shoots.any (fun k => k.covers 0 0 l) | .error _ => false) = true) := by decide +kernel

/-- AccessEvents: a cell that is not ready, one whose base is still read, and one that is ready. -/
theorem witness_AccessEvents_a_cell_that_is_not_ready_one_whose_base_is_still_read_and_one_that_is_ready :
    (let s : State := { task with making := [aMake true true] }; (s.making.find? (fun y => y.id == 3)) = some (aMake true true) ∧ s.cycle < (aMake true true).readyAt) ∧
        (let m : Materialise := { aMake false true with vint := 0, readyAt := 1000 };
          let s : State := { task.onCore (fun c => { c with landings := [⟨990, 0x200010, 1040, [.load (.ap 3) false [(0x1000, 8)] (apAgent task) 4 0x200010]⟩] }) with making := [m] };
          s.making.find? (fun y => y.id == 3) = some m ∧ m.readyAt ≤ s.cycle ∧ s.cycle < oldPins s m) ∧
        (let m : Materialise := { aMake false true with readyAt := 1000 }; let s : State := { task with making := [m] }; oldPins s m ≤ s.cycle ∧ (fillErrors s m).1 = .clean) := by decide +kernel

/-- AccessEvents: a fold of a vintage of which a cell is being made and waited for. -/
theorem witness_AccessEvents_a_fold_of_a_vintage_of_which_a_cell_is_being_made_and_waited_for :
    (let s : State := { vintages with making := [{ aMake false true with vint := 7 }], cellWaits := [{ id := 8, hubAt := 990, asid := 0, vint := 7, va := 0x1000, src := 0, waiter := .ap 0 0, until_ := none }] }; liveRecords s 0 7 = 0 ∧ (spaceOf s 0).stateOf 7 = .retiring ∧ s.making ≠ [] ∧ s.cellWaits ≠ []) := by decide +kernel

/-- WindowEvents: a halted task whose renamed region is not yet visible. -/
theorem witness_WindowEvents_a_halted_task_whose_renamed_region_is_not_yet_visible :
    (let e : Entry := { anEntry 1 .running with shards := [aShard .halted], homeDue := 1040, shadows := [{ region := 0, blocks := [(0x400000, 0)], filled := true, renamed := true }] }; let s := windowOf e; entryOf s 0 1 = some e ∧ s.cycle < e.homeDue ∧ (∃ y ∈ e.shadows, y.renamed = true) ∧ (∀ y ∈ e.shards, y.state = .halted)) := by decide +kernel

/-- WindowEvents: a fold whose cell is a barrier object of another die. -/
theorem witness_WindowEvents_a_fold_whose_cell_is_a_barrier_object_of_another_die :
    (let s := atBarrier (folding 0x010040000000) 1 0x010040000000; (match entryOf s 0 1 with | some e => decide (e.pending = none ∧ e.state = .running ∧ (lowestCell (cellsIn s (recAsid e.recd) (recVint e.recd))).isSome) | none => false) = true ∧
         (match dieTranslate s 0 0 0 0x1600000 with | (.page l _ _ _ _, t) => !l.seal && decide (s.cycle < (readHold t (.copier 0) 1 0 [(0x010040000000, 4096)]).1) | _ => false) = true) := by decide +kernel

/-- DispatchEvents: a core kept for a gang that waits no more. -/
theorem witness_DispatchEvents_a_core_kept_for_a_gang_that_waits_no_more :
    (let s := onDie (placed false (taskEntry .ready .waiting)) 0 (fun x => { x with reserved := [(3, 8 * 7)] }); (dieOf s 0).reserved = [(3, 56)] ∧ keptFor s 0 3 = none ∧ dispatchHeld (dropKeeps s 0) 0 = false ∧ (dropKeeps s 0).ckpt = none) ∧ (let s : State := { placed false (taskEntry .ready .waiting) with ckpt := some (aCkpt 1) }; (dieOf s 0).reserved = [] ∧ dispatchHeld s 0 = false ∧ s.ckpt.isSome = true) := by decide +kernel

/-- DispatchEvents: a preload whose header cannot be read. -/
theorem witness_DispatchEvents_a_preload_whose_header_cannot_be_read :
    [TaskState.dispatched, .committed].all (fun st => let e := { taskEntry .dispatched .dispatched with state := st }; let s := farImage e 0x1400000; decide (entryOf s 0 1 = some e ∧ e.shards[0]? = some (aShard .dispatched) ∧ preloadDue s 0 e 100 ≤ s.cycle) && (match programOf s 0 e 0 with | .error (.trap k _ _) => decide (k = .uncorrectable) | _ => false)) = true ∧
         (let e := taskEntry .dispatched .dispatched; let s := farImage e 0x1000000; (match programOf s 0 e 0 with | .error (.trap k _ _) => decide (k ≠ .uncorrectable) | _ => false) = true) := by decide +kernel

/-- DispatchEvents: a replay that counts. -/
theorem witness_DispatchEvents_a_replay_that_counts :
    (let s := (windowOf { anEntry 1 .replay with recount := true }).onCore (fun c => { c with discardAt := some 1000 }); entryOf (freeDiscarded s) 0 1 = some { anEntry 1 .replay with recount := true }) := by decide +kernel

/-- BoardEvents: a word whose unit is served from a slot, and a word of the slot. -/
theorem witness_BoardEvents_a_word_whose_unit_is_served_from_a_slot_and_a_word_of_the_slot :
    (let s := slotted 0x400000; keptPa s 0x400000 = 0x400000 ∧ servedPa s 0x400000 ≠ 0x400000) ∧ (let s := slotted 0x400000; keptPa s 0x40000000 ≠ 0x40000000 ∧ (readErrors s (keptPa s 0x40000000) 64).1 = .clean) := by decide +kernel

/-- CheckpointEvents: a stream whose ports are lost, or whose target is. -/
theorem witness_CheckpointEvents_a_stream_whose_ports_are_lost_or_whose_target_is :
    [({ reaching .running with ports := [] } : State), { reaching .running with cellarLink := .unreachable }].all (fun b => let s : State := { b with ckpt := some (aCkpt 3) };
      decide (quiet s = true ∧ (streamEnd (streamErrors s).2 = .portsLost ∨ streamEnd (streamErrors s).2 = .unreachable))) = true ∧
        (let s := poisonAt (reaching .running) 0x400000; s.injPool = [] ∧ s.injHub = []) := by decide +kernel

/-- CheckpointEvents: a RESUME without a host port in service, without a target. -/
theorem witness_CheckpointEvents_a_resume_without_a_host_port_in_service_without_a_target :
    (let m := hostMsg 0 1 [0]; wholeBoot (booting .handoff) m [0] = true ∧ hostPortUp (booting .handoff) 0 = false ∧ hostPortUp (booting .handoff) 1 = false ∧ (let s : State := { booting .handoff with ports := [(16, true)], cellar := [(0, anImage true)] }; wholeBoot s m [0] = true ∧ hostPortUp s 0 = true ∧ cellarTarget s.boot = none)) := by decide +kernel

/-- BootEvents: two BOOTs in one step, and an OWNERSET of a module that is owned. -/
theorem witness_BootEvents_two_boots_in_one_step_and_an_ownerset_of_a_module_that_is_owned :
    (let m := hostMsg 0 8 [1]; let s : State := { booting .step4 with boot := { (booting .step4).boot with held := [hostMsg 0 8 [0]] } };
      wholeBoot s m [1] = true ∧ s.boot.step = .step4 ∧ s.boot.held ≠ []) ∧
         wholeBoot owned (hostMsg 0 8 [0]) [0] = true ∧ (bootPiece owned (hostMsg 0 8 [0])).1.boot.owned = true ∧ ([0] : List Byte).length < sigSize := by decide +kernel

/-- BootEvents: an OWNERSET that is too long. -/
theorem witness_BootEvents_an_ownerset_that_is_too_long :
    (let p := lastPiece (booting .handoff) (List.replicate 65536 (0 : Byte)) [7]; bootServed p.1.boot = true ∧ p.2.addr.toNat = 65536 ∧ (bootPiece p.1 p.2).2.length = 65537 ∧ (bootPiece p.1 p.2).1.boot.owned = false) := by decide +kernel

/-- HostCommands: memory that is a barrier object. -/
theorem witness_HostCommands_memory_that_is_a_barrier_object :
    (let s := atBarrier served 0 0x010000000000; let m := hostMsg 0x1600000 16 []; uctServes s m ∧ hostYields s 0 0x1600000 = false ∧ (match hostRuns s 0 false 4 0x1600000 16 with | .ok ps => decide (s.cycle < (readHold s .host (hostKey m) 8 ps).1) | .error _ => false) = true ∧ s.cycle < (readHold s .host (hostKey m) 8 (physRuns s 0x010000000000 16)).1) := by decide +kernel

/-- HostCommands: a launch whose image is rebuilt, uncorrectable, or in a format of blocks. -/
theorem witness_HostCommands_a_launch_whose_image_is_rebuilt_uncorrectable_or_in_a_format_of_blocks :
    launchOk (recordAt 0x1600000) = true ∧ launchOk (recordAt 0x1000000) = true ∧ (match peek served 0 0x1000000 8 with | .trap _ _ _ => true | _ => false) = true ∧ [(1, ReadError.rebuilt), (2, .uncorrectable)].all (fun k => let s := poolImage k.1; (match peek s 0 0x1600000 8 with | .words _ => decide ((textErrors s 0 0x1600000 64).1 = k.2) | _ => false)) = true := by decide +kernel

/-- FabricEvents: a frame that stands in a stall, first or not, of a device without an identity. -/
theorem witness_FabricEvents_a_frame_that_stands_in_a_stall_first_or_not_of_a_device_without_an_identity :
    (let f := { aFrame 0 0x400000 [1] with port := stallPort }; let g := { f with opid := 9 }; frameOurs (stalled f) f = false ∧ frameOurs (stalled f) g = false ∧ f.port = stallPort ∧ (flowOf (stalled f) 5).stall.head? = some f ∧ (flowOf (stalled f) 5).stall.head? ≠ some g ∧ (recvOf (stalled f) f).stall.head? = some f ∧ (recvOf (stalled f) g).stall.head? ≠ some g ∧ (arrive (stalled f) f).1 = .next ∧ answerFor (arrive (stalled f) f).2 5 8 = none) := by decide +kernel

/-- FabricEvents: a delivery without a byte of a line. -/
theorem witness_FabricEvents_a_delivery_without_a_byte_of_a_line :
    (let f := { aFrame 0 0x400000 (List.replicate 8 1) with type := 9 }; f.payload.length < 9 ∧ f.port ≠ innerPort ∧ f.port ≠ stallPort ∧ frameOurs listed f = true) := by decide +kernel

/-- FabricEvents: the first frame of a list, and the answer of its RESET. -/
theorem witness_FabricEvents_the_first_frame_of_a_list_and_the_answer_of_its_reset :
    (let f := listFrame 0 false; frameOurs inDomain f = true ∧ (recvOf (takeEpoch inDomain f) f).known = false ∧ f.psn = 0) ∧ (let f := listFrame 7 true;
      let s := onRecv inDomain f (fun x => { x with resetSent := true });
      (recvOf (takeEpoch s f) f).known = false ∨ (recvOf (takeEpoch s f) f).resetSent = true) ∧
        (let f := listFrame 7 true;
          let s : State := { inDomain with flows := [(5, { Flow.reset with peerEpoch := some 2, known := true })], listRecv := [(1024 * 5 + 1, { ListRecv.reset with resetSent := true })] };
          (recvOf (takeEpoch s f) f).resetSent = true ∧ (recvOf (takeEpoch s f) f).known = false) ∧
        (let f := listFrame 2000 false; f.psn ≠ 0 ∧ (recvOf (takeEpoch listed f) f).known = true ∧ 1024 ≤ (f.psn.toNat + 2 ^ 32 - (recvOf (takeEpoch listed f) f).psn) % 2 ^ 32) := by decide +kernel

/-- FabricEvents: atomics in progress: on a barrier object, rebuilt, with a lost link, without a record. -/
theorem witness_FabricEvents_atomics_in_progress_on_a_barrier_object_rebuilt_with_a_lost_link_without_a_record :
    (let f := innerFrame (aFrame 0 0x400000 [5, 0, 0, 0, 0, 0, 0, 0]);
      [atomicAt 0 [], atomicAt 1 [], atomicAt 2 [], atomicAt 0 [.link 0 0]].all (fun s => decide ((arrive s f).1 = .again ∧ (arrive s f).2 = s ∧
      answerFor s 5 8 = none)) = true ∧ (linkError (atomicAt 0 [.link 0 0]) 8 0x010000000000).1 = true ∧
      (readErrors (atomicAt 1 []) 0x010000000000 4).1 = .rebuilt ∧ (readErrors (atomicAt 2 []) 0x010000000000 4).1 = .uncorrectable ∧
         (let s := atBarrier (atomicAt 0 []) 0 0x010000000000; (arrive s f).2 = s ∧ s.cycle < (readHold s (.remote 5) 8 8 [(0x010000000000, 4)]).1) ∧ (let s : State := { inDomain with served := [newServed 5 8] }; (servedFor s 5 8).map (fun o => o.due) = some none) ∧ servedFor inDomain 5 8 = none) := by decide +kernel

/-- FabricEvents: a post whose handle is rebuilt. -/
theorem witness_FabricEvents_a_post_whose_handle_is_rebuilt :
    (let f := aFrame 0 0 (wordsBytes ([0, 0x58000] ++ List.replicate 30 0)); let s : State := { lettered with injPool := [(0, 1)] }; let t := (arrive s f).2; (arrive s f).1 = .next ∧ answerFor t 5 8 = none ∧ postAwaits t 0 (.remote 5 8) (bytesWords 32 f.payload) = none ∧ (recordNeeds t (bytesWords 32 f.payload)).1 = .rebuilt) := by decide +kernel

/-- FabricEvents: a RESULT of a multicast, and of nothing. -/
theorem witness_FabricEvents_a_result_of_a_multicast_and_of_nothing :
    (let f := aFrame 0x54 0 (List.replicate 8 0); let s : State := { inDomain with mcasts := [{ id := 4, die := 0, core := 0, cmd := 7, list := 3, receipt := 0x400000, members := [5, 6], grp := 0, sent := true, answers := [], opids := [(5, 8)] }] }; answerOurs s f = true ∧ opFor s f = none ∧ (s.mcasts.find? (fun o => o.opids.contains (5, 8))).isSome = true ∧ opFor inDomain f = none ∧ inDomain.mcasts = []) := by decide +kernel

/-- FabricEvents: a RESET of a list. -/
theorem witness_FabricEvents_a_reset_of_a_list :
    frameOurs unacked (aFrame 1 1 []) = true ∧ ((listUnacked unacked 1 5).find? (fun y => !y.acked)).isSome = true ∧
      (listUnacked inDomain 1 5).find? (fun y => !y.acked) = none := by decide +kernel

/-- StepRunsDecodedWord: a word whose predicate does not hold, where its registers are struck. -/
theorem witness_StepRunsDecodedWord_a_word_whose_predicate_does_not_hold_where_its_registers_are_struck :
    [(Proc.ap 0 0, 0x200000), (.xp 0 0, 0x200000), (.cc 0, 0)].all (fun p => let w : Word := match p.1 with | .ap _ _ => 0x1001000000000000 | .xp _ _ => 0x3387006006020198 | _ => 0xF381002810000009; let s : State := { stepping [w] with agenda := [.word p.1 p.2], strikes := [.regs p.1] }; let t : State := { s with agenda := [] }
          decide (s.strikes ≠ [] ∧ wordFor t p.1 p.2 = some w ∧ readsOperands t p.1 p.2 = false ∧ trappedNow t p.1 = false)) = true := by decide +kernel

/-- FabricEvents: a put for a page that is not resident, and a full poste restante of its hub. -/
theorem witness_FabricEvents_a_full_poste_restante :
    (let f := aFrame 0 0x800000 [1]
     let t := (arrive inDomain f).2
     (arrive inDomain f).1 = .next ∧ answerFor t 5 8 = none ∧
     (match outerParts 0 8 0x800000 1 t with | (.ok ps, _) => decide (ps.2.map (fun d => (d.1, d.2.1)) = [(0x800000, 1)]) | _ => false) = true) ∧
    (∀ (t : State) (l : Leaf) (bs : List Byte), bs.length = 0x4000000 → t.poste = [{ asid := 0, va := 0x800000, vint := 0, hub := hubOf 0x800000, seq := 0, due := 0, data := bs }] →
      posteRoom t [(0x800000, 1, l)] = false) := by
  refine ⟨by decide +kernel, fun t l bs hl h => ?_⟩
  simp [posteRoom, posteUsed, h, roundUp, hubOf, hl, List.range, List.range.loop]

/-! ## Single steps -/

/-- What a control core's word, or a core's, has to land. -/
def toLand (o : Host.Outcome State Fault Refusal) : List (Nat × List RegWrite) :=
  match o with
  | .next t => ((ctlOf t 0).landings ++ (coreOf t 0 0).landings).map (fun l => (l.due, l.writes))
  | _ => []

/-- The first byte of the vector that a word has to land. -/
def firstByte (o : Host.Outcome State Fault Refusal) : Option Byte :=
  match toLand o with
  | [l] => l.2.findSome? (fun w => match w with | .space _ bs => bs[0]? | _ => none)
  | _ => none

/-- The task whose latches 1 to 3 hold these bytes in every lane. -/
def lanes (x y z : List Byte) : State :=
  let fill (b : List Byte) : List Byte := (List.range (256 / b.length)).flatMap (fun _ => b)
  task.onCore (fun c => { c with latches := [(1, vecOf (fill x)), (2, vecOf (fill y)), (3, vecOf (fill z))] })

/-- R107: lui c9, 0x40, and ori c9, c9, 0x123456 on its result. -/
theorem test_lui_and_ori :
    toLand (exec (.ccLui hd ⟨9, 0, 0x40⟩) graph) = [(1001, [.cc 0 9 0x80000000])] ∧
    toLand (exec (.ccOri hd ⟨9, 9, 0x123456⟩) (onCtl graph 0 (fun c => c.onCtx 0 (fun x => { x with regs := { x.regs with c := [(9, 0x80000000)] } })))) =
      [(1001, [.cc 0 9 0x80123456])] := by
  decide +kernel

/-- R106: a division by zero, and the division that overflows, do not trap. -/
theorem test_division_corners :
    toLand (exec (.ccDiv hd ⟨9, 5, 0, 0, 0, 0⟩) graph) = [(1018, [.cc 0 9 0xFFFFFFFFFFFFFFFF])] ∧
    toLand (exec (.ccRem hd ⟨9, 5, 0, 0, 0, 0⟩) graph) = [(1018, [.cc 0 9 5])] := by
  decide +kernel

/-- R170: VADD.i8 of 100 and 50 gives 127 under .sats and 0x96 under .wrap; VABSD.i8.wrap of 100 and -100 gives 0xC8. -/
theorem test_byte_lanes :
    firstByte (exec (.vadd hd ⟨9, 513, 514, 0, 0, 1⟩) (lanes [100] [50] [0])) = some 127 ∧
    firstByte (exec (.vadd hd ⟨9, 513, 514, 0, 0, 0⟩) (lanes [100] [50] [0])) = some 0x96 ∧
    firstByte (exec (.vabsd hd ⟨9, 513, 514, 0, 0, 0⟩) (lanes [100] [156] [0])) = some 0xC8 := by
  decide +kernel

/-- R171: VFSHR.i32 of 0xAB, 0x12345678 and 8 gives 0xAB123456, whose first byte is 0x56. -/
theorem test_funnel_shift :
    firstByte (exec (.vfshr hd ⟨9, 513, 514, 515, 2, 0⟩) (lanes [0xAB, 0, 0, 0] [0x78, 0x56, 0x34, 0x12] [8, 0, 0, 0])) = some 0x56 := by
  decide +kernel

/-- R99, R101: TRAP enters the monitor with its number in EINFO and the address after it in EPC. -/
theorem test_trap :
    (match exec (.trap hd ⟨0, 0, 77⟩) graph with
     | .next t => decide ((ctlOf t 0).monitor = true ∧ (ctlOf t 0).einfo = 77 ∧ (ctlOf t 0).epc = 24 ∧ (ctlOf t 0).ecause = 0)
     | _ => false) = true := by
  decide +kernel

/-- The first step from the placed word runs it: addi c3, c4, -1 of the monitor, and addi a3, a4, -1 of an AP. -/
theorem test_first_step :
    (toLand (step (State.reset.withFetchWord 64 0xF080001809FFFFFF))).map Prod.snd = [[.cc 8 3 0xFFFFFFFFFFFFFFFF]] ∧
    (toLand (step (State.reset.withFetchWord 64 0x1080001809FFFFFF))).map Prod.snd = [[.ap 3 0xFFFFFFFFFFFFFFFF]] := by
  decide +kernel

end Sys2Proof.Tests
end

section
/-! SUPPORT. Numbers in byte memory (R3): what a number written reads, what a write leaves unchanged, and that canonical
memories with the same bytes are the same data. -/

namespace Sys2Proof

@[simp] theorem leBytes_length (n x : Nat) : (leBytes n x).length = n := by
  induction n generalizing x with
  | zero => rfl
  | succ n ih => rw [leBytes, List.length_cons, ih]

/-- The n low bytes of a number stand for what the number leaves modulo 2^(8n) (R3). -/
@[simp] theorem leNat_leBytes (n x : Nat) : leNat (leBytes n x) = x % 2 ^ (8 * n) := by
  induction n generalizing x with
  | zero => rw [leBytes, leNat, Nat.mul_zero, Nat.pow_zero, Nat.mod_one]
  | succ n ih =>
    have low_byte : x % 2 ^ (8 * (n + 1)) = x % 256 + 256 * (x / 256 % 2 ^ (8 * n)) := by
      rw [show 8 * (n + 1) = 8 + 8 * n by omega, Nat.pow_add, Nat.mod_mul]
    rw [leBytes, leNat, ih, low_byte, BitVec.toNat_ofNat]

end Sys2Proof

namespace Sys2Proof.Machine

/-- A run of bytes beside a run written reads as it did. -/
theorem bytesAt_writeBytes_outside (m : Memory) (a : Nat) (bs : List Byte) (b k : Nat) (h : b + k ≤ a ∨ a + bs.length ≤ b) :
    bytesAt (writeBytes m a bs) b k = bytesAt m b k := by
  rw [bytesAt_eq, bytesAt_eq]
  refine List.map_congr_left (fun i hi => byteAt_writeBytes_outside m a bs (b + i) ?_)
  have hi := List.mem_range.1 hi
  omega

@[simp] theorem natAt_putNat_same (m : Memory) (a n x : Nat) : natAt (putNat m a n x) a n = x % 2 ^ (8 * n) := by
  have read := bytesAt_writeBytes m a (leBytes n x)
  rw [leBytes_length] at read
  rw [natAt, putNat, read, leNat_leBytes]

theorem natAt_putNat_outside (m : Memory) (a n x b k : Nat) (h : b + k ≤ a ∨ a + n ≤ b) :
    natAt (putNat m a n x) b k = natAt m b k := by
  rw [natAt, putNat, bytesAt_writeBytes_outside m a _ b k (by rwa [leBytes_length]), natAt]

theorem tfind_eq_none_of_keys_ne {α : Type} (t : Table α) (k : Nat) (h : ∀ c ∈ t, c.1 ≠ k) : tfind t k = none := by
  induction t with
  | nil => rfl
  | cons c r ih =>
    obtain ⟨hc, hr⟩ := List.forall_mem_cons.1 h
    rw [tfind, if_neg hc, ih hr]

/-- A table whose keys rise holds an entry exactly where a search for its key finds it. -/
theorem mem_iff_tfind_of_rising {α : Type} (t : Table α) (h : t.Pairwise (fun x y => x.1 < y.1)) (c : Nat × α) :
    c ∈ t ↔ tfind t c.1 = some c.2 := by
  induction t with
  | nil => simp only [List.not_mem_nil, tfind, reduceCtorEq]
  | cons d r ih =>
    obtain ⟨hd, hr⟩ := List.pairwise_cons.1 h
    rw [List.mem_cons, ih hr, tfind]
    by_cases hk : d.1 = c.1
    · have absent : tfind r c.1 = none := tfind_eq_none_of_keys_ne r c.1 (fun e he => by have := hd e he; omega)
      simp only [Prod.ext_iff, hk, true_and, absent, reduceCtorEq, or_false, if_true, Option.some.injEq, eq_comm (a := d.2)]
    · simp only [Prod.ext_iff, Ne.symm hk, false_and, false_or, hk, if_false]

theorem nodup_of_rising {α : Type} (t : Table α) (h : t.Pairwise (fun x y => x.1 < y.1)) : t.Nodup :=
  h.imp (fun hlt heq => absurd (congrArg Prod.fst heq) (Nat.ne_of_lt hlt))

/-- The cells of a canonical memory are its bytes other than zero. -/
theorem mem_iff_byteAt_of_wf (m : Memory) (h : m.wf) (c : Host.Cell) : c ∈ m ↔ byteAt m c.1 = c.2 ∧ c.2 ≠ 0 := by
  obtain ⟨hrise, hzero⟩ := h
  have found := mem_iff_tfind_of_rising m hrise c
  constructor
  · intro hc
    exact ⟨by rw [byteAt, tget, found.1 hc, Option.getD_some], hzero c hc⟩
  · rintro ⟨hbyte, hne⟩
    rw [found]
    rw [byteAt, tget] at hbyte
    cases hf : tfind m c.1 with
    | none => rw [hf] at hbyte; exact absurd hbyte.symm hne
    | some b => rw [hf] at hbyte; exact congrArg some hbyte

/-- Canonical memories with the same bytes are the same data: they hold the same cells, in the order of the addresses. -/
theorem Memory.eq_of_byteAt_eq (m m' : Memory) (h : m.wf) (h' : m'.wf) (heq : ∀ a, byteAt m a = byteAt m' a) : m = m' := by
  have cells (c : Host.Cell) : c ∈ m ↔ c ∈ m' := by
    rw [mem_iff_byteAt_of_wf m h, mem_iff_byteAt_of_wf m' h', heq]
  have same := (List.perm_ext_iff_of_nodup (nodup_of_rising m h.1) (nodup_of_rising m' h'.1)).2 cells
  exact same.eq_of_pairwise (fun _ _ _ _ hlt hgt => absurd hgt (Nat.lt_asymm hlt)) h.1 h'.1

/-- Settles O47: a number written reads back, a run beside it reads as before, and canonical memory stays canonical and is determined by its bytes. -/
theorem memoryReadsWhatWasWritten : Obligations.MemoryReadsWhatWasWritten :=
  ⟨natAt_putNat_same, natAt_putNat_outside, putNat_wf, Memory.eq_of_byteAt_eq⟩

end Sys2Proof.Machine
end

section
/-! SUPPORT. The events of the board (R14, R404, R408 to R410, R430): what the scrubber does with a word, the halving of scores, the tests of
withdrawn units, and the samples of power and temperature. -/

namespace Sys2Proof.Machine

/-! ## What the errors and the starts of tasks leave to the units (R404, R410) -/

/-- What a die keeps about the units on it: the record of its last test, and their scores. -/
def Die.unitRecord (x : Die) : Word × Table Nat × Table Nat × Table Nat × Table Nat :=
  (x.testrec, x.pscore, x.cscore, x.gscore, x.lscore)

/-- Two states agree on memory, on the cores, and on what is recorded about units: scores, tests, withdrawals and reserve slots. -/
structure SameUnits (s t : State) : Prop where
  mem : t.mem = s.mem
  cores : t.cores = s.cores
  withdrawn : t.withdrawn = s.withdrawn
  reserve : t.reserve = s.reserve
  hscore : t.hscore = s.hscore
  fscore : t.fscore = s.fscore
  dies : ∀ d, (dieOf t d).unitRecord = (dieOf s d).unitRecord

theorem SameUnits.refl (s : State) : SameUnits s s := ⟨rfl, rfl, rfl, rfl, rfl, rfl, fun _ => rfl⟩

theorem SameUnits.trans {s t u : State} (h : SameUnits s t) (k : SameUnits t u) : SameUnits s u :=
  ⟨k.mem.trans h.mem, k.cores.trans h.cores, k.withdrawn.trans h.withdrawn, k.reserve.trans h.reserve, k.hscore.trans h.hscore,
    k.fscore.trans h.fscore, fun d => (k.dies d).trans (h.dies d)⟩

theorem SameUnits.testrec {s t : State} (h : SameUnits s t) (d : Nat) : (dieOf t d).testrec = (dieOf s d).testrec :=
  congrArg Prod.fst (h.dies d)

theorem SameUnits.scoreOf {s t : State} (h : SameUnits s t) (u : HwUnit) : scoreOf t u = scoreOf s u := by
  have tables (d : Nat) := h.dies d
  simp only [Die.unitRecord, Prod.mk.injEq] at tables
  cases u <;> simp only [Machine.scoreOf, tables, h.hscore, h.fscore]

/-- What a change leaves alone in the die it is made to, it leaves alone on every die. -/
theorem dieOf_onDie_field {α : Type} (g : Die → α) (s : State) (d : Nat) (f : Die → Die) (h : ∀ x, g (f x) = g x) (e : Nat) :
    g (dieOf (onDie s d f) e) = g (dieOf s e) := by
  by_cases hd : e = d
  · rw [hd, dieOf_onDie_same, h]
  · rw [dieOf_onDie_other s d e f hd]

theorem onDie_sameUnits (s : State) (d : Nat) (f : Die → Die) (h : ∀ x, (f x).unitRecord = x.unitRecord) : SameUnits s (onDie s d f) :=
  ⟨rfl, rfl, rfl, rfl, rfl, rfl, dieOf_onDie_field Die.unitRecord s d f h⟩

theorem hostEvent_sameUnits (s : State) (e : HostEvent) : SameUnits s (hostEvent s e) := by
  constructor <;> simp [dieOf]

theorem postEvent_sameUnits (s : State) (d code : Nat) : SameUnits s (postEvent s d code) := by
  unfold postEvent onCtl
  exact onDie_sameUnits s d _ (fun _ => rfl)

theorem onEntry_sameUnits (s : State) (d serial : Nat) (f : Entry → Entry) : SameUnits s (onEntry s d serial f) :=
  onDie_sameUnits s d _ (by intro; rfl)

theorem at'_sameUnits (s : State) (due : Nat) (i : Instr) : SameUnits s (at' s due i) := by
  constructor <;> simp

theorem logError_sameUnits (s : State) (d code cause : Nat) (u : ErrUnit) (info : Word) (score : Nat) :
    SameUnits s (logError s d code cause u info score) :=
  ((onDie_sameUnits s d _ (by intro; rfl)).trans (hostEvent_sameUnits _ _)).trans (postEvent_sameUnits _ d 2)

theorem tryStart_sameUnits (s : State) (d c : Nat) : SameUnits s (tryStart s d c) := by
  unfold tryStart
  split
  · exact .refl s
  · split
    · exact .refl s
    · split
      · exact .refl s
      · split
        · exact (onEntry_sameUnits s _ _ _).trans (at'_sameUnits _ _ _)
        · exact .refl s

theorem foldl_sameUnits {α : Type} (f : State → α → State) (h : ∀ s x, SameUnits s (f s x)) (l : List α) (s : State) :
    SameUnits s (l.foldl f s) := by
  induction l generalizing s with
  | nil => exact .refl s
  | cons x l ih => exact (h s x).trans (ih (f s x))

/-! ## The scrubber (R409, entry 142) -/

theorem exec_patrolScrub (pa : Nat) (found : Finding) (s : State) : exec (.patrolScrub pa found) s = execPatrolScrub pa found s := rfl

/-- While no withdrawn unit holds a reserve slot, every byte is kept, and served, at its own address (R410). -/
theorem keptPa_of_no_slot {s : State} (h : ∀ w ∈ s.withdrawn, w.slot = none) (pa : Nat) : keptPa s pa = pa := by
  unfold keptPa
  split
  next w found =>
    have in_slot := List.find?_some found
    simp [h w (List.mem_of_find?_eq_some found)] at in_slot
  next => rfl

theorem servedPa_of_no_slot {s : State} (h : ∀ w ∈ s.withdrawn, w.slot = none) (pa : Nat) : servedPa s pa = pa := by
  unfold servedPa
  split
  next w found =>
    have has_slot := List.find?_some found
    simp [h w (List.mem_of_find?_eq_some found)] at has_slot
  next => rfl

/-- Whether the scrubber finds nothing to read at an address: its unit is served from a reserve slot, and the address is in none. -/
abbrev scrubIdle (s : State) (pa : Nat) : Prop :=
  keptPa s (poisonUnit pa).1 = (poisonUnit pa).1 ∧ servedPa s (poisonUnit pa).1 ≠ (poisonUnit pa).1

/-- A word poisoned where the model keeps it, 128 bits at a time (R409). -/
def scrubSpoil (pa : Nat) (s : State) : State :=
  (List.range ((poisonUnit pa).2 / 16)).foldl (fun t i => poisonAt t (keptPa t ((poisonUnit pa).1 + 16 * i))) s

/-- A word that is not read takes only what the scrubber finds: no byte of it is poisoned (entry 142). -/
theorem execPatrolScrub_idle {s : State} {pa : Nat} (h : scrubIdle s pa) :
    execPatrolScrub pa .clean s = .next s ∧ execPatrolScrub pa .corrected s = .next (foundCorrected s (unitOfPa pa) pa) ∧
      execPatrolScrub pa .uncorrectable s = .next (foundUncorrectable s (unitOfPa pa) pa) := by
  obtain ⟨kept, served⟩ := h
  simp [execPatrolScrub, kept, served]

section
variable {s t : State} {pa : Nat} (awake : ¬ scrubIdle s pa)
include awake

theorem execPatrolScrub_clean (read : readErrors s (keptPa s (poisonUnit pa).1) (poisonUnit pa).2 = (.clean, t)) :
    execPatrolScrub pa .clean s = .next t ∧ execPatrolScrub pa .corrected s = .next (foundCorrected t (unitOfPa pa) pa) ∧
      execPatrolScrub pa .uncorrectable s = .next (foundUncorrectable (scrubSpoil pa t) (unitOfPa pa) pa) := by
  simp [execPatrolScrub, awake, read, scrubSpoil]

theorem execPatrolScrub_mended (found : Finding)
    (read : readErrors s (keptPa s (poisonUnit pa).1) (poisonUnit pa).2 = (.corrected, t) ∨
      readErrors s (keptPa s (poisonUnit pa).1) (poisonUnit pa).2 = (.rebuilt, t)) : execPatrolScrub pa found s = .next t := by
  rcases read with read | read <;> simp [execPatrolScrub, awake, read]

theorem execPatrolScrub_uncorrectable (found : Finding)
    (read : readErrors s (keptPa s (poisonUnit pa).1) (poisonUnit pa).2 = (.uncorrectable, t)) :
    execPatrolScrub pa found s = .next (if isPoisoned s (keptPa s (poisonUnit pa).1) (poisonUnit pa).2 then t else scrubSpoil pa t) := by
  simp [execPatrolScrub, awake, read, scrubSpoil]

end

/-! ## Scores halved (R410) -/

theorem tget_foldl_halve (t l : Table Nat) (h : Table Nat) (k : Nat) :
    tget (l.foldl (fun h p => tset h p.1 (tget t p.1 0 / 2) 0) h) k 0 = if (tfind l k).isSome then tget t k 0 / 2 else tget h k 0 := by
  induction l generalizing h with
  | nil => simp [tfind]
  | cons p l ih =>
    rw [List.foldl_cons, ih]
    by_cases hk : p.1 = k
    · subst hk
      simp [tfind]
    · simp [tfind, hk, tget_tset_other _ _ _ _ _ (Ne.symm hk)]

@[simp] theorem tget_halved (t : Table Nat) (k : Nat) : tget (halved t) k 0 = tget t k 0 / 2 := by
  rw [halved, tget_foldl_halve]
  split
  · rfl
  · rename_i absent
    simp [tget, Option.not_isSome_iff_eq_none.1 absent]

theorem tfind_map {α β : Type} (f : α → β) (t : Table α) (k : Nat) : tfind (t.map (fun p => (p.1, f p.2))) k = (tfind t k).map f := by
  induction t with
  | nil => rfl
  | cons p t ih => by_cases hk : p.1 = k <;> simp [tfind, hk, ih]

/-- A die with the scores of its units halved. -/
def Die.halveScores (x : Die) : Die :=
  { x with pscore := halved x.pscore, cscore := halved x.cscore, gscore := halved x.gscore, lscore := halved x.lscore }

/-- The state after SCORE_HALVE. -/
def halveScores (s : State) : State :=
  { s with hscore := halved s.hscore, fscore := halved s.fscore, dies := s.dies.map (fun p => (p.1, p.2.halveScores)) }

@[simp] theorem halveScores_hscore (s : State) : (halveScores s).hscore = halved s.hscore := rfl
@[simp] theorem halveScores_fscore (s : State) : (halveScores s).fscore = halved s.fscore := rfl

theorem exec_scoreHalve (s : State) : exec .scoreHalve s = .next (halveScores s) := rfl

/-- A die that is not listed has no scores, which halving leaves so. -/
theorem dieOf_halveScores (s : State) (d : Nat) : dieOf (halveScores s) d = (dieOf s d).halveScores := by
  rw [dieOf, tget, halveScores, tfind_map, dieOf, tget]
  cases tfind s.dies d <;> rfl

theorem scoreOf_halveScores (s : State) (u : HwUnit) : scoreOf (halveScores s) u = scoreOf s u / 2 := by
  cases u <;> simp only [scoreOf, dieOf_halveScores, Die.halveScores, halveScores_hscore, halveScores_fscore, tget_halved, Nat.zero_div]

theorem scrubAndScores : Statements.ScrubAndScores := by
  intro s
  refine ⟨fun pa => ⟨fun no_slot => ?_, execPatrolScrub_idle, fun awake => ?_⟩, ?_⟩
  · rw [keptPa_of_no_slot no_slot, servedPa_of_no_slot no_slot]
    exact ⟨rfl, fun idle => idle.2 rfl⟩
  · exact ⟨fun _ => execPatrolScrub_clean awake, fun _ found => execPatrolScrub_mended awake found,
      fun _ found => execPatrolScrub_uncorrectable awake found⟩
  · exact ⟨halveScores s, exec_scoreHalve s, scoreOf_halveScores s, rfl, rfl, rfl, fun d => by rw [dieOf_halveScores]; exact ⟨rfl, rfl⟩⟩

/-! ## Tests (R404, R410) -/

theorem exec_targetedTestStart (u : HwUnit) (s : State) : exec (.targetedTestStart u) s = execTargetedTestStart u s := rfl

theorem exec_targetedTestEnd (u : HwUnit) (bad : Bool) (s : State) : exec (.targetedTestEnd u bad) s = execTargetedTestEnd u bad s := rfl

theorem scoreOf_setScore_same (s : State) (u : HwUnit) : scoreOf (setScore s u 0) u = 0 := by
  cases u <;> simp [scoreOf, setScore]

theorem setScore_frame (s : State) (u : HwUnit) (n : Nat) :
    (setScore s u n).mem = s.mem ∧ (setScore s u n).cores = s.cores ∧ (setScore s u n).withdrawn = s.withdrawn ∧
      (setScore s u n).reserve = s.reserve := by
  cases u <;> exact ⟨rfl, rfl, rfl, rfl⟩

theorem setScore_testrec (s : State) (u : HwUnit) (n d : Nat) : (dieOf (setScore s u n) d).testrec = (dieOf s d).testrec := by
  cases u with
  | plot | core | poolGroup | link => exact dieOf_onDie_field Die.testrec s _ _ (by intro; rfl) d
  | pch | fport | bank | hport | pair => rfl

/-- TESTREC after the test of a unit, from the record before it (R404). -/
def testRecord (old : Word) (u : HwUnit) (w : Withdrawn) (fails : Bool) : Word :=
  fieldAt (min 255 (bits old 63 56 + 1)) 56 ||| testFields u ||| fieldAt (if fails then 1 else 0) 16 ||| fieldAt w.score 0

/-- The state with the result of a unit's test in TESTREC of its die. -/
def recordTest (s : State) (u : HwUnit) (w : Withdrawn) (fails : Bool) : State :=
  onDie s (unitDie u) (fun x => { x with testrec := testRecord x.testrec u w fails })

/-- The state with a unit fenced by its test (R410). -/
def fenceTested (s : State) (u : HwUnit) : State :=
  { s with withdrawn := s.withdrawn.map (fun y => if y.hw == u then { y with state := .fenced } else y) }

/-- The state with the bytes of a withdrawn unit back in it, where it had a slot. -/
def takeBack (s : State) (u : HwUnit) : Option Nat → State
  | some pa => leaveSlot s u pa
  | none => s

/-- The reserve without a unit's slot, where it had one. -/
def freeSlot (r : List (Nat × Nat)) : Option Nat → List (Nat × Nat)
  | some pa => r.filter (fun p => p.1 != pa)
  | none => r

/-- The state with a unit back in service: its bytes in it, its score clear, its slot free (R410). -/
def returnUnit (s : State) (u : HwUnit) (slot : Option Nat) : State :=
  let t := setScore (takeBack s u slot) u 0
  { t with withdrawn := t.withdrawn.filter (fun y => y.hw != u), reserve := freeSlot t.reserve slot }

theorem freeSlot_eq_filter (r : List (Nat × Nat)) (slot : Option Nat) :
    freeSlot r slot = r.filter (fun p => decide (slot ≠ some p.1)) := by
  cases slot with
  | none => exact (List.filter_eq_self.2 (fun _ _ => decide_eq_true nofun)).symm
  | some pa => exact List.filter_congr (fun p _ => by simp [bne, Bool.beq_eq_decide_eq, eq_comm (a := pa)])

/-- Beyond TESTREC, a failed test does no more to the units than to fence its own. -/
theorem endTest_failed_sameUnits (s : State) (u : HwUnit) (w : Withdrawn) :
    SameUnits (fenceTested (recordTest s u w true) u) (endTest s u w true) := by
  unfold endTest
  exact logError_sameUnits _ _ _ _ _ _ _

/-- Beyond TESTREC, a passed test does no more to the units than to return its own; the starts of tasks that follow touch none. -/
theorem endTest_passed_sameUnits (s : State) (u : HwUnit) (w : Withdrawn) :
    SameUnits (returnUnit (recordTest s u w false) u w.slot) (endTest s u w false) := by
  unfold endTest
  refine .trans ?_ (foldl_sameUnits _ (fun t p => tryStart_sameUnits t _ _) _ _)
  cases w.slot <;> exact logError_sameUnits _ _ _ _ _ _ _

theorem takeBack_frame (s : State) (u : HwUnit) (slot : Option Nat) :
    (takeBack s u slot).cores = s.cores ∧ (takeBack s u slot).withdrawn = s.withdrawn ∧ (takeBack s u slot).reserve = s.reserve ∧
      (takeBack s u slot).dies = s.dies := by
  cases slot <;> exact ⟨rfl, rfl, rfl, rfl⟩

/-- What returning a unit writes, and what it leaves as it was. -/
theorem returnUnit_frame (s : State) (u : HwUnit) (slot : Option Nat) :
    (returnUnit s u slot).mem = (takeBack s u slot).mem ∧ (returnUnit s u slot).cores = s.cores ∧
      (returnUnit s u slot).withdrawn = s.withdrawn.filter (fun y => y.hw != u) ∧ (returnUnit s u slot).reserve = freeSlot s.reserve slot ∧
      (∀ d, (dieOf (returnUnit s u slot) d).testrec = (dieOf s d).testrec) ∧ scoreOf (returnUnit s u slot) u = 0 := by
  obtain ⟨cores, withdrawn, reserve, dies⟩ := takeBack_frame s u slot
  obtain ⟨mem', cores', withdrawn', reserve'⟩ := setScore_frame (takeBack s u slot) u 0
  refine ⟨mem', cores'.trans cores, ?_, ?_, fun d => (setScore_testrec _ u 0 d).trans ?_, ?_⟩
  · rw [returnUnit, withdrawn', withdrawn]
  · rw [returnUnit, reserve', reserve]
  · rw [dieOf, dies, dieOf]
  · exact .trans (by cases u <;> rfl) (scoreOf_setScore_same (takeBack s u slot) u)

theorem endTest_testrec (s : State) (u : HwUnit) (w : Withdrawn) (fails : Bool) :
    (dieOf (endTest s u w fails) (unitDie u)).testrec = testRecord (dieOf s (unitDie u)).testrec u w fails := by
  have recorded : (dieOf (recordTest s u w fails) (unitDie u)).testrec = testRecord (dieOf s (unitDie u)).testrec u w fails := by
    rw [recordTest, dieOf_onDie_same]
  cases fails with
  | true => exact ((endTest_failed_sameUnits s u w).testrec _).trans recorded
  | false =>
    obtain ⟨-, -, -, -, testrec, -⟩ := returnUnit_frame (recordTest s u w false) u w.slot
    exact ((endTest_passed_sameUnits s u w).testrec _).trans ((testrec _).trans recorded)

theorem endTest_cores (s : State) (u : HwUnit) (w : Withdrawn) (fails : Bool) : (endTest s u w fails).cores = s.cores := by
  cases fails with
  | true => exact (endTest_failed_sameUnits s u w).cores
  | false =>
    obtain ⟨-, cores, -⟩ := returnUnit_frame (recordTest s u w false) u w.slot
    exact (endTest_passed_sameUnits s u w).cores.trans cores

/-- A passed test leaves memory as the way out of the slot does. -/
theorem endTest_passed_mem (s : State) (u : HwUnit) (w : Withdrawn) : (endTest s u w false).mem = (takeBack s u w.slot).mem := by
  obtain ⟨mem, -⟩ := returnUnit_frame (recordTest s u w false) u w.slot
  refine (endTest_passed_sameUnits s u w).mem.trans (mem.trans ?_)
  cases w.slot <;> rfl

theorem endTest_mem (s : State) (u : HwUnit) (w : Withdrawn) (fails : Bool) (h : fails = true ∨ w.slot = none) :
    (endTest s u w fails).mem = s.mem := by
  cases fails with
  | true => exact (endTest_failed_sameUnits s u w).mem
  | false =>
    have no_slot : w.slot = none := h.resolve_left Bool.false_ne_true
    rw [endTest_passed_mem, no_slot, takeBack]

theorem endTest_passed_units (s : State) (u : HwUnit) (w : Withdrawn) :
    (endTest s u w false).withdrawn = s.withdrawn.filter (fun y => y.hw != u) ∧ scoreOf (endTest s u w false) u = 0 ∧
      (endTest s u w false).reserve = s.reserve.filter (fun r => decide (w.slot ≠ some r.1)) := by
  obtain ⟨-, -, withdrawn, reserve, -, score⟩ := returnUnit_frame (recordTest s u w false) u w.slot
  have same := endTest_passed_sameUnits s u w
  exact ⟨same.withdrawn.trans withdrawn, (same.scoreOf u).trans score, (same.reserve.trans reserve).trans (freeSlot_eq_filter _ _)⟩

theorem targetedTests : Statements.TargetedTests := by
  intro s u
  refine ⟨fun due => ?_, fun early => ?_, fun bad absent => ?_, fun bad w found running => ?_, fun bad w found ended => ?_⟩
  · rw [exec_targetedTestStart, execTargetedTestStart, if_pos due]
  · rw [exec_targetedTestStart, execTargetedTestStart, early]
    rfl
  · rw [exec_targetedTestEnd, execTargetedTestEnd, absent]
  · simp only [exec_targetedTestEnd, execTargetedTestEnd, found, if_pos running]
  · intro fails
    refine ⟨endTest s u w fails, ?_, endTest_mem s u w fails, fun _ => endTest_cores s u w fails, fun passed pa slot => ?_,
      endTest_testrec s u w fails, fun failed => ?_, fun passed => ?_⟩
    · simp only [exec_targetedTestEnd, execTargetedTestEnd, found, if_neg (Nat.not_lt.2 ended), fails]
    · rw [passed, endTest_passed_mem, slot, takeBack]
    · have same := endTest_failed_sameUnits s u w
      rw [failed]
      exact ⟨same.withdrawn, same.reserve⟩
    · rw [passed]
      exact endTest_passed_units s u w

/-! ## Power and temperature (R14, R430) -/

theorem exec_powerReport (watts : Nat) (s : State) : exec (.powerReport watts) s = execPowerReport watts s := rfl

theorem exec_temperatureSample (die inlet : Nat) (s : State) : exec (.temperatureSample die inlet) s = execTemperatureSample die inlet s := rfl

/-- The hold of dispatch after a report of power, by the last ten reports. -/
def powerHoldAfter (log : List Nat) (held : Bool) : Bool :=
  if log.length = 10 && 35000 ≤ log.sum then true else if log.sum < 34000 then false else held

theorem lastTen_eq_drop (log : List Nat) : (log.reverse.take 10).reverse = log.drop (log.length - 10) := by
  rw [List.reverse_take, List.reverse_reverse, List.length_reverse]

/-- The state after a report of power: nothing but the log, the hold and the board's registers changes. -/
def afterPower (s : State) (watts : Nat) : State :=
  let log := ((s.powerLog ++ [watts]).reverse.take 10).reverse
  refreshBoard { s with powerLog := log, powerHold := powerHoldAfter log s.powerHold, board := { s.board with pwr := BitVec.ofNat 16 watts } }

theorem execPowerReport_eq (watts : Nat) (s : State) : execPowerReport watts s = .next (afterPower s watts) := by
  simp only [execPowerReport, afterPower, powerHoldAfter, lastTen_eq_drop, List.length_append, List.length_singleton, List.sum_eq_foldl]

theorem powerHoldAfter_full {log : List Nat} {held : Bool} (full : log.length = 10) (high : 35000 ≤ log.sum) :
    powerHoldAfter log held = true := by
  simp [powerHoldAfter, full, high]

theorem powerHoldAfter_low {log : List Nat} {held : Bool} (low : log.sum < 34000) : powerHoldAfter log held = false := by
  simp [powerHoldAfter, low, show ¬ 35000 ≤ log.sum by omega]

theorem powerHoldAfter_between {log : List Nat} {held : Bool} (above : 34000 ≤ log.sum) (below : log.length < 10 ∨ log.sum < 35000) :
    powerHoldAfter log held = held := by
  have not_full : ¬ (log.length = 10 ∧ 35000 ≤ log.sum) := by omega
  simp [powerHoldAfter, not_full, above]

/-- The count of samples in a row with a hot inlet (entry 106). -/
def hotInletAfter (s : State) (inlet : Nat) : Nat := if 500 < inlet then s.hotInlet + 1 else 0

/-- The state after a sample that does not power the module off. -/
def afterTemperature (s : State) (die inlet : Nat) : State :=
  refreshBoard { s with
    tempHold := if 1050 ≤ die then true else if die < 1000 then false else s.tempHold
    hotInlet := hotInletAfter s inlet
    board := { s.board with tdie := BitVec.ofNat 16 die, tin := BitVec.ofNat 16 inlet } }

/-- A count of hot samples passes ten seconds only when this one is hot and ten seconds were counted before it. -/
theorem hotInletAfter_gt_iff (s : State) (inlet : Nat) : 1000000 < hotInletAfter s inlet ↔ 500 < inlet ∧ 1000000 ≤ s.hotInlet := by
  unfold hotInletAfter
  split <;> omega

theorem execTemperatureSample_hot {s : State} {die inlet : Nat} (hot : 1150 ≤ die ∨ (500 < inlet ∧ 1000000 ≤ s.hotInlet)) :
    execTemperatureSample die inlet s = .next (powerOff s) := by
  rw [← hotInletAfter_gt_iff] at hot
  exact congrArg Host.Outcome.next (if_pos (by simpa [hotInletAfter] using hot))

theorem execTemperatureSample_cool {s : State} {die inlet : Nat} (cool : die < 1150) (mild : inlet ≤ 500 ∨ s.hotInlet < 1000000) :
    execTemperatureSample die inlet s = .next (afterTemperature s die inlet) := by
  have stays_on : ¬ (1150 ≤ die ∨ 1000000 < hotInletAfter s inlet) := by rw [hotInletAfter_gt_iff]; omega
  exact congrArg Host.Outcome.next (if_neg (by simpa [hotInletAfter] using stays_on))

theorem boardSamples : Statements.BoardSamples := by
  intro s
  refine ⟨fun watts => ?_, fun die inlet cool mild => ?_, fun die inlet hot => ?_⟩
  · exact ⟨afterPower s watts, (exec_powerReport watts s).trans (execPowerReport_eq watts s), rfl, rfl, rfl, rfl, rfl,
      powerHoldAfter_full, powerHoldAfter_low, powerHoldAfter_between⟩
  · refine ⟨afterTemperature s die inlet, (exec_temperatureSample die inlet s).trans (execTemperatureSample_cool cool mild), rfl, rfl, rfl,
      rfl, rfl, rfl, fun high => if_pos high, fun low => ?_, fun above below => ?_⟩
    · exact (if_neg (by omega)).trans (if_pos low)
    · exact (if_neg (by omega)).trans (if_neg (by omega))
  · exact (exec_temperatureSample die inlet s).trans (execTemperatureSample_hot hot)

/-- Settles O52: the scrubber and the scores, the tests of withdrawn units, and the samples of the board, each by the equation of its event. -/
theorem boardEvents : Obligations.BoardEvents := ⟨scrubAndScores, targetedTests, boardSamples⟩

end Sys2Proof.Machine
end

section
/-! SUPPORT. The checks of an instruction word in their order (R53), and the fates of the words that fail one (R55). -/

namespace Sys2Proof

/-- Steps 3 to 6 of R53, which are the same on every processor: the opcode is assigned, and the fields are those of its instruction. -/
noncomputable def checkFields (w : Word) : Except DecodeError Instr :=
  match decodeOp w with
  | none => .error .illegalOp
  | some i => if i.wf then .ok i else .error .reservedField

theorem checkFields_unassigned {w : Word} (h : decodeOp w = none) : checkFields w = .error .illegalOp := by
  rw [checkFields, h]

theorem checkFields_malformed {w : Word} {i : Instr} (op : decodeOp w = some i) (bad : i.wf = false) :
    checkFields w = .error .reservedField := by
  simp only [checkFields, op, bad, Bool.false_eq_true, if_false]

theorem wf_of_checkFields {w : Word} {i : Instr} (h : checkFields w = .ok i) : i.wf = true := by
  unfold checkFields at h
  split at h
  case h_1 => cases h
  case h_2 j _ =>
    split at h
    case isTrue good =>
      cases h
      exact good
    case isFalse => cases h

/-- The control core checks the tag, then S, then the fields. -/
theorem checkWord_cc (w : Word) :
    checkWord true w = if engOf w ≠ 7 then .error .illegalEng else if w.getLsbD 60 = false then .error .reservedField else checkFields w := by
  by_cases foreign : engOf w ≠ 7
  · have tag : (engOf w != 7) = true := bne_iff_ne.2 foreign
    rw [checkWord, tag, if_pos foreign]
    rfl
  · have tag : (engOf w != 7) = false := by rw [bne, Decidable.not_not.1 foreign]; rfl
    rw [checkWord, tag, if_neg foreign]
    cases w.getLsbD 60 <;> rfl

/-- A task core refuses the reserved tag and the control core's, then checks the fields. -/
theorem checkWord_task (w : Word) : checkWord false w = if 6 ≤ engOf w then .error .illegalEng else checkFields w := by
  have tag_lt : engOf w < 8 := (w.extractLsb' 61 3).isLt
  by_cases foreign : 6 ≤ engOf w
  · have tag : (engOf w == 6 || engOf w == 7) = true := by rw [Bool.or_eq_true, beq_iff_eq, beq_iff_eq]; omega
    rw [checkWord, tag, if_pos foreign]
    rfl
  · have tag : (engOf w == 6 || engOf w == 7) = false := by rw [Bool.or_eq_false_iff, beq_eq_false_iff_ne, beq_eq_false_iff_ne]; omega
    rw [checkWord, tag, if_neg foreign]
    rfl

theorem checkWord_cc_foreign {w : Word} (tag : engOf w ≠ 7) : checkWord true w = .error .illegalEng := by
  rw [checkWord_cc, if_pos tag]

theorem checkWord_cc_without_s {w : Word} (tag : engOf w = 7) (clear : w.getLsbD 60 = false) : checkWord true w = .error .reservedField := by
  rw [checkWord_cc, if_neg (Decidable.not_not.2 tag), if_pos clear]

theorem checkWord_cc_own {w : Word} (tag : engOf w = 7) (set : w.getLsbD 60 = true) : checkWord true w = checkFields w := by
  rw [checkWord_cc, if_neg (Decidable.not_not.2 tag), if_neg (by rw [set]; decide)]

theorem checkWord_task_foreign {w : Word} (tag : 6 ≤ engOf w) : checkWord false w = .error .illegalEng := by
  rw [checkWord_task, if_pos tag]

theorem checkWord_task_own {w : Word} (tag : engOf w < 6) : checkWord false w = checkFields w := by
  rw [checkWord_task, if_neg (Nat.not_le.2 tag)]

/-- A word that passes on either side has passed the check of its fields. -/
theorem wf_of_checkWord {cc : Bool} {w : Word} {i : Instr} (h : checkWord cc w = .ok i) : i.wf = true := by
  cases cc with
  | true =>
    rw [checkWord_cc] at h
    split at h
    case isTrue => cases h
    case isFalse =>
      split at h
      case isTrue => cases h
      case isFalse => exact wf_of_checkFields h
  | false =>
    rw [checkWord_task] at h
    split at h
    case isTrue => cases h
    case isFalse => exact wf_of_checkFields h

/-- Settles O4: the tag is checked before S, and both before the fields, whose check is one on every processor. -/
theorem notInstructions : Obligations.NotInstructions := by
  intro w
  refine ⟨fun tag cc => ?_, fun tag => checkWord_task_foreign (by omega), checkWord_cc_foreign, checkWord_cc_without_s,
    fun tag set op => ?_, fun tag set i op bad => ?_, fun tag op => ?_, fun tag i op bad => ?_, fun cc i => wf_of_checkWord⟩
  · cases cc with
    | true => exact checkWord_cc_foreign (by omega)
    | false => exact checkWord_task_foreign (by omega)
  · rw [checkWord_cc_own tag set, checkFields_unassigned op]
  · rw [checkWord_cc_own tag set, checkFields_malformed op bad]
  · rw [checkWord_task_own tag, checkFields_unassigned op]
  · rw [checkWord_task_own tag, checkFields_malformed op bad]

end Sys2Proof
end

section
/-! SUPPORT. The courier (R64, R158, R159): the fates of its words, what each word does to its registers, the COPY that it issues, and the flag
with which it ends. -/

namespace Sys2Proof

/-! ## Courier words that fail a check (R64) -/

theorem courierOpc_toNat (w : BitVec 32) : (w.extractLsb' 28 4).toNat = w.toNat / 2 ^ 28 := by
  rw [BitVec.extractLsb'_toNat, Nat.shiftRight_eq_div_pow]
  exact Nat.mod_eq_of_lt (by have := w.isLt; omega)

theorem courierChan_toNat (w : BitVec 32) : (w.extractLsb' 24 4).toNat = w.toNat / 2 ^ 24 % 2 ^ 4 := by
  rw [BitVec.extractLsb'_toNat, Nat.shiftRight_eq_div_pow]

theorem courierRest_toNat (w : BitVec 32) : (w.extractLsb' 0 28).toNat = w.toNat % 2 ^ 28 := by
  rw [BitVec.extractLsb'_toNat, Nat.shiftRight_zero]

theorem checkCourier_unassigned {w : BitVec 32} (opc : 6 ≤ w.toNat / 2 ^ 28) : checkCourier w = .error .illegalOp := by
  rw [← courierOpc_toNat] at opc
  unfold checkCourier
  generalize (w.extractLsb' 28 4).toNat = n at opc
  match n, opc with
  | k + 6, _ => rfl

theorem wf_cwCopy (ch : BitVec 4) (n : BitVec 24) : (Instr.cwCopy ch n).wf = decide (ch.toNat < 8) := rfl

theorem wf_cwWait (ch : BitVec 4) (n : BitVec 24) : (Instr.cwWait ch n).wf = decide (ch.toNat < 8) := rfl

theorem checkCourier_channel {w : BitVec 32} (opc : w.toNat / 2 ^ 28 < 2) (chan : 8 ≤ w.toNat / 2 ^ 24 % 2 ^ 4) :
    checkCourier w = .error .reservedField := by
  have refused : ¬ (w.extractLsb' 24 4).toNat < 8 := by rw [courierChan_toNat]; omega
  have either : (w.extractLsb' 28 4).toNat = 0 ∨ (w.extractLsb' 28 4).toNat = 1 := by rw [courierOpc_toNat]; omega
  rcases either with opc | opc <;> simp only [checkCourier, opc, wf_cwCopy, wf_cwWait, refused, decide_false, Bool.false_and, Bool.false_eq_true,
    if_false]

theorem checkCourier_fixed {w : BitVec 32} (least : 2 ≤ w.toNat / 2 ^ 28) (most : w.toNat / 2 ^ 28 < 5) (chan : w.toNat / 2 ^ 24 % 2 ^ 4 ≠ 0) :
    checkCourier w = .error .reservedField := by
  have refused : (w.extractLsb' 24 4 == 0) = false := beq_eq_false_iff_ne.2 (fun zero => chan (by rw [← courierChan_toNat, zero]; rfl))
  have each : (w.extractLsb' 28 4).toNat = 2 ∨ (w.extractLsb' 28 4).toNat = 3 ∨ (w.extractLsb' 28 4).toNat = 4 := by rw [courierOpc_toNat]; omega
  rcases each with opc | opc | opc <;> simp only [checkCourier, opc, refused, Bool.and_false, Bool.false_eq_true, if_false]

theorem checkCourier_end {w : BitVec 32} (opc : w.toNat / 2 ^ 28 = 5) (rest : w.toNat % 2 ^ 28 ≠ 0) :
    checkCourier w = .error .reservedField := by
  have refused : (w.extractLsb' 0 28 == 0) = false := beq_eq_false_iff_ne.2 (fun zero => rest (by rw [← courierRest_toNat, zero]; rfl))
  rw [← courierOpc_toNat] at opc
  simp only [checkCourier, opc, refused, Bool.and_false, Bool.false_eq_true, if_false]

end Sys2Proof

namespace Sys2Proof.Machine

open Sys2Proof.Statements

/-! ## Words made of fields -/

/-- A field above a number that lies below it. -/
theorem fieldAt_or_ofNat (x : Nat) {lo y : Nat} (below : y < 2 ^ lo) : fieldAt x lo ||| BitVec.ofNat 64 y = BitVec.ofNat 64 (x * 2 ^ lo + y) := by
  rw [fieldAt, ← BitVec.ofNat_or, Nat.mul_comm, Nat.two_pow_add_eq_or_of_lt below]

theorem Cause.code_lt (k : Cause) : k.code < 256 := by
  cases k <;> decide

/-- CW.FLAG's doubleword: STATE 1 and a value. -/
theorem flagWord (v : BitVec 24) : fieldAt 1 56 ||| fieldAt v.toNat 0 = BitVec.ofNat 64 (2 ^ 56 + v.toNat) := by
  have below : v.toNat * 2 ^ 0 < 2 ^ 56 := by have := v.isLt; omega
  rw [show fieldAt v.toNat 0 = BitVec.ofNat 64 (v.toNat * 2 ^ 0) from rfl, fieldAt_or_ofNat 1 below, Nat.one_mul, Nat.pow_zero, Nat.mul_one]

/-- The doubleword of a courier that stops: STATE 0x80, the cause, and the offset of the word in the program. -/
theorem courierFault_toNat (r : Courier) (pc : Nat) (k : Cause) :
    (courierFault r pc k.code).toNat = 0x80 * 2 ^ 56 + k.code * 2 ^ 48 + (pc + 2 ^ 56 - r.prog) % 2 ^ 24 * 2 ^ 24 := by
  have code := k.code_lt
  have off : (pc + 2 ^ 56 - r.prog) % 2 ^ 24 < 2 ^ 24 := Nat.mod_lt _ (by decide)
  unfold courierFault
  generalize (pc + 2 ^ 56 - r.prog) % 2 ^ 24 = x at *
  rw [BitVec.or_assoc, show fieldAt x 24 = BitVec.ofNat 64 (x * 2 ^ 24) from rfl, fieldAt_or_ofNat k.code (by omega),
    fieldAt_or_ofNat 0x80 (by omega), BitVec.toNat_ofNat]
  omega

/-! ## A core changed twice -/

theorem tput_tput_same {α : Type} (t : Table α) (k : Nat) (v w : α) : tput (tput t k v) k w = tput t k w := by
  induction t with
  | nil => simp [tput]
  | cons p r ih =>
    by_cases here : p.1 = k
    · simp [tput, here]
    · by_cases before : k < p.1 <;> simp [tput, here, before, ih]

/-- Two changes of one core are one. -/
theorem onCore_onCore (s : State) (d c : Nat) (f g : Core → Core) : onCore (onCore s d c f) d c g = onCore s d c (fun x => g (f x)) := by
  unfold onCore
  rw [coreOf_putCore_same]
  unfold putCore
  rw [tput_tput_same]

/-! ## The courier's registers -/

theorem onCourier_eq (s : State) (g : Courier → Courier) : s.onCourier g = courierBecomes s g := rfl

theorem courierAgain_eq (s : State) : courierAgain s = courierBecomes s (fun r => { r with waiting := true }) := rfl

theorem courierTo_eq (s : State) (pc : Nat) :
    courierTo s pc = courierBecomes s (fun r => { r with pc := pc % 2 ^ 56, waiting := false }) := rfl

theorem courierNext_eq (s : State) : courierNext s = courierBecomes s courierSteps := rfl

@[simp] theorem courierBecomes_focus (s : State) (g : Courier → Courier) : (courierBecomes s g).focus = s.focus := rfl

@[simp] theorem courierBecomes_core (s : State) (g : Courier → Courier) :
    (courierBecomes s g).core = { s.core with courier := g s.core.courier } := State.core_onCore s _

theorem courierBecomes_courier (s : State) (g : Courier → Courier) : (courierBecomes s g).courier = g s.core.courier := by
  rw [State.courier, courierBecomes_core]

theorem onCore_congr {s : State} {d c : Nat} {f g : Core → Core} (h : f (coreOf s d c) = g (coreOf s d c)) : onCore s d c f = onCore s d c g :=
  congrArg (putCore s d c) h

theorem courierBecomes_congr {s : State} {f g : Courier → Courier} (h : f s.core.courier = g s.core.courier) :
    courierBecomes s f = courierBecomes s g :=
  onCore_congr (congrArg (fun r => { s.core with courier := r }) h)

theorem courierBecomes_twice (s : State) (f g : Courier → Courier) :
    courierBecomes (courierBecomes s f) g = courierBecomes s (fun r => g (f r)) := onCore_onCore s _ _ _ _

/-! ## CW.WAIT, CW.LOOP, CW.ADD and CW.FLAG (R158) -/

section
variable {s t : State}

theorem exec_cwWait_reached {ch : BitVec 4} {n : BitVec 24}
    (reached : s.core.courier.wb.getD ch.toNat 0 + 256 * n.toNat ≤ s.core.wpBefore ch.toNat s.cycle) :
    exec (.cwWait ch n) s = .next (courierBecomes s courierSteps) :=
  congrArg Host.Outcome.next (if_pos reached)

theorem exec_cwWait_early {ch : BitVec 4} {n : BitVec 24}
    (early : s.core.wpBefore ch.toNat s.cycle < s.core.courier.wb.getD ch.toNat 0 + 256 * n.toNat) :
    exec (.cwWait ch n) s = .next (courierBecomes s (fun r => { r with waiting := true })) :=
  congrArg Host.Outcome.next (if_neg (Nat.not_le.2 early))

/-- LC after a CW.LOOP: it is loaded with the count where it is zero, and counts down. -/
def lcAfter (r : Courier) (cnt : BitVec 12) : Nat := (if r.lc = 0 then cnt.toNat else r.lc) - 1

/-- The courier after a CW.LOOP: back by a distance while LC is not zero, else at the next word. -/
def courierLoops (cnt back : BitVec 12) (r : Courier) : Courier :=
  { r with
    lc := lcAfter r cnt
    waiting := false
    pc := if lcAfter r cnt = 0 then (r.pc + 4) % 2 ^ 56 else (r.pc + 2 ^ 56 - 4 * back.toNat) % 2 ^ 56 }

theorem exec_cwLoop_counts {cnt back : BitVec 12} (count : cnt ≠ 0) (distance : back ≠ 0) :
    exec (.cwLoop cnt back) s = .next (courierBecomes s (courierLoops cnt back)) := by
  have legal : ¬ (decide (cnt = 0) || decide (back = 0)) = true := by
    rw [Bool.or_eq_true, decide_eq_true_iff, decide_eq_true_iff]
    exact not_or_intro count distance
  refine congrArg Host.Outcome.next ((if_neg legal).trans ?_)
  by_cases last : lcAfter s.core.courier cnt = 0
  · refine (if_neg (Decidable.not_not.2 last)).trans ?_
    rw [courierNext_eq, onCourier_eq, courierBecomes_twice]
    exact courierBecomes_congr (by rw [courierSteps, courierLoops, if_pos last]; rfl)
  · refine (if_pos last).trans ?_
    rw [courierTo_eq, onCourier_eq, courierBecomes_courier, courierBecomes_twice]
    exact courierBecomes_congr (by rw [courierLoops, if_neg last]; rfl)

/-- 64 times a signed number added to OFS, as a word. -/
theorem ofs_add (ofs : Nat) (x : BitVec 24) :
    (BitVec.ofNat 64 ofs + sext x * 64).toNat = (BitVec.ofInt 64 ((ofs : Int) + 64 * x.toInt)).toNat := by
  rw [sext, BitVec.signExtend, BitVec.ofInt_add, BitVec.ofInt_mul, BitVec.ofInt_natCast, BitVec.mul_comm]
  rfl

theorem exec_cwAdd (x : BitVec 24) : exec (.cwAdd x) s = .next (courierBecomes s (fun r =>
    { courierSteps r with ofs := (BitVec.ofInt 64 ((r.ofs : Int) + 64 * x.toInt)).toNat })) := by
  refine congrArg Host.Outcome.next ?_
  rw [courierNext_eq, onCourier_eq, courierBecomes_twice]
  exact courierBecomes_congr (by rw [← ofs_add]; rfl)

theorem exec_cwFlag {m : Cmd} {v : BitVec 24} {due : Nat} (cmd : courierCmd s = some m)
    (flag : writeFlag s s.focus.die s.focus.core m (BitVec.ofNat 64 (2 ^ 56 + v.toNat)) = (.ok due, t)) :
    exec (.cwFlag v) s = .next (courierBecomes t courierSteps) := by
  rw [← flagWord] at flag
  show execCwFlag v s = _
  simp only [execCwFlag, cmd, flag, courierNext_eq]

/-! ## CW.COPY (R158) -/

/-- The descriptor of a COPY with OFS added to its addresses. -/
def descriptor (s : State) (bs : List Byte) : List Word :=
  (bytesWords 5 bs).mapIdx (fun i w => if i < 2 then addOfs w s.core.courier.ofs else w)

theorem exec_cwCopy_full {m : Cmd} {ch : BitVec 4} {n : BitVec 24} (cmd : courierCmd s = some m)
    (full : s.core.queueFull (.chan ch.toNat) = true) :
    exec (.cwCopy ch n) s = .next (courierBecomes s (fun r => { r with waiting := true })) := by
  show execCwCopy ch n s = _
  simp only [execCwCopy, cmd, full, if_true, courierAgain_eq]

/-- The command that a CW.COPY issues: without tokens and bound, and known as the courier's, at its word. -/
def courierCopy (s : State) (ch : BitVec 4) (ps : List Word) : Cmd :=
  { Cmd.blank s.seq (.chan ch.toNat) .copy s.cycle with
    params := ps
    half := s.core.half
    chan := (ch.setWidth 3).toNat
    apc := s.core.ap.pc
    xpc := s.core.xp.pc
    fromCourier := true
    aux := [s.core.courier.pc] }

/-- The state in which the courier in focus has issued a COPY: the command is the core's last, and the courier is at its next word. -/
def copyIssued (s : State) (ch : BitVec 4) (ps : List Word) : State :=
  onCore { s with seq := s.seq + 1 } s.focus.die s.focus.core (fun x => { x with
    cmds := x.cmds ++ [courierCopy s ch ps]
    courier := { courierSteps x.courier with copies := x.courier.copies ++ [s.seq] } })

theorem map_fresh_cmd {ms : List Cmd} {k : Cmd} (f : Cmd → Cmd) (fresh : ∀ x ∈ ms, x.id < k.id) :
    (ms ++ [k]).map (fun m => if m.id == k.id then f m else m) = ms ++ [f k] := by
  have kept : ms.map (fun m => if m.id == k.id then f m else m) = ms :=
    (List.map_congr_left (fun m hm => if_neg (mt beq_iff_eq.1 (Nat.ne_of_lt (fresh m hm))))).trans ms.map_id'
  rw [List.map_append, kept, List.map_singleton, if_pos (beq_self_eq_true _)]

/-- A command that a courier's word places in a channel, marked as the courier's. -/
theorem onCmd_issueCmd_courierCopy (ch : BitVec 4) (ps : List Word) (fresh : ∀ x ∈ s.core.cmds, x.id < s.seq) :
    onCmd (issueCmd s s.focus.die s.focus.core (.chan ch.toNat) .copy ps
      { kp := 0, kc1 := 0, kc2 := 0, kc3 := 0, bnd := 0xFF, x := 0, ch := ch.setWidth 3 }) s.focus.die s.focus.core s.seq
      (fun y => { y with fromCourier := true, aux := [s.core.courier.pc] }) =
    onCore { s with seq := s.seq + 1 } s.focus.die s.focus.core (fun x => { x with cmds := x.cmds ++ [courierCopy s ch ps] }) := by
  rw [onCmd, issueCmd, onCore_onCore]
  exact onCore_congr (congrArg (fun ms => { s.core with cmds := ms })
    (map_fresh_cmd (k := { courierCopy s ch ps with fromCourier := false, aux := [] }) _ fresh))

theorem exec_cwCopy_issues {m : Cmd} {ch : BitVec 4} {n : BitVec 24} {bs : List Byte} (cmd : courierCmd s = some m)
    (room : s.core.queueFull (.chan ch.toNat) = false)
    (read : engineRead s s.focus.die s.focus.core m s.core.vt (s.core.courier.table + 40 * n.toNat) 40 false true = (.ok bs, t))
    (focus : t.focus = s.focus) (fresh : ∀ x ∈ t.core.cmds, x.id < t.seq) (legal : copyCheck t .copy t.core (descriptor t bs) = none) :
    exec (.cwCopy ch n) s = .next (copyIssued t ch (descriptor t bs)) := by
  show execCwCopy ch n s = _
  rw [← focus] at read
  unfold descriptor at legal ⊢
  simp only [execCwCopy, cmd, room, State.courier, ← focus, read, legal, Bool.false_eq_true, if_false]
  rw [onCmd_issueCmd_courierCopy ch _ fresh, courierNext_eq, onCourier_eq, courierBecomes_twice]
  exact congrArg Host.Outcome.next (onCore_onCore { t with seq := t.seq + 1 } _ _ _ _)

@[simp] theorem copyIssued_core (ch : BitVec 4) (ps : List Word) :
    (copyIssued s ch ps).core = { s.core with
      cmds := s.core.cmds ++ [courierCopy s ch ps]
      courier := { courierSteps s.core.courier with copies := s.core.courier.copies ++ [s.seq] } } :=
  coreOf_onCore_same { s with seq := s.seq + 1 } _ _ _

/-! ## How a courier ends (R64, R158, R159) -/

/-- The state in which a courier's last flag is written: the COURIER completes when the flag is visible. -/
def courierEnded (t : State) (d c id due : Nat) : State := doneCmd (onCmd t d c id (fun y => { y with unit := 2 })) d c id due

/-- The courier in focus ends with a flag that its COURIER command writes: the command's state, and the state in which the flag is on its way. -/
structure EndsWith (s : State) (k : Cmd) (flag due : Nat) (t : State) : Prop where
  cmd : (coreOf (courierEnding s flag) s.focus.die s.focus.core).cmdOf s.core.courier.cmd = some k
  last : k.unit = 1
  aux : k.aux = [flag]
  written : writeFlag (courierEnding s flag) s.focus.die s.focus.core k (BitVec.ofNat 64 flag) = (.ok due, t)

theorem courierEnding_cmd (flag : Nat) :
    (coreOf (courierEnding s flag) s.focus.die s.focus.core).courier.cmd = s.core.courier.cmd := by
  simp only [courierEnding, onCmd, courierBecomes, coreOf_onCore_same]
  rfl

/-- Ending a courier leaves its command with the flag to write. -/
theorem endCourier_eq (w : Word) :
    endCourier s s.focus.die s.focus.core w = finishCourier (courierEnding s w.toNat) s.focus.die s.focus.core := by
  simp only [endCourier, coreOf_onCore_same]
  rfl

theorem endCourier_ends {k : Cmd} {flag due : Nat} (w : Word) (word : w.toNat = flag) (ends : EndsWith s k flag due t) :
    endCourier s s.focus.die s.focus.core w = courierEnded t s.focus.die s.focus.core k.id due := by
  obtain ⟨cmd, last, aux, written⟩ := ends
  rw [endCourier_eq, word, finishCourier, courierEnding_cmd, cmd]
  simp only [last, aux, List.headD_cons, ne_eq, not_true_eq_false, if_false, written, courierEnded]

theorem exec_cwEnd_waits (busy : s.core.cmds.any (fun x => s.core.courier.copies.contains x.id) = true) :
    exec .cwEnd s = .next (courierBecomes s (fun r => { r with waiting := true })) :=
  congrArg Host.Outcome.next (if_pos busy)

theorem exec_cwEnd_ends {k : Cmd} {due : Nat} (idle : s.core.cmds.any (fun x => s.core.courier.copies.contains x.id) = false)
    (ends : EndsWith s k (2 * 2 ^ 56) due t) : exec .cwEnd s = .next (courierEnded t s.focus.die s.focus.core k.id due) :=
  congrArg Host.Outcome.next ((if_neg (by rw [State.courier, idle]; decide)).trans (endCourier_ends (fieldAt 2 56) (by decide) ends))

/-- The flag of a courier that stops at its word. -/
abbrev stopFlag (r : Courier) (k : Cause) : Nat := 0x80 * 2 ^ 56 + k.code * 2 ^ 48 + (r.pc + 2 ^ 56 - r.prog) % 2 ^ 24 * 2 ^ 24

theorem stopCourier_ends {why : Cause} {k : Cmd} {due : Nat} (ends : EndsWith s k (stopFlag s.core.courier why) due t) :
    stopCourier s why = courierEnded t s.focus.die s.focus.core k.id due :=
  endCourier_ends _ (courierFault_toNat s.core.courier s.core.courier.pc why) ends

theorem exec_courierIllegalWord (w : BitVec 32) : exec (.courierIllegalWord w) s = .next (stopCourier s .illegalOp) := rfl

theorem exec_encodingNotInstruction_courier (d c : Nat) :
    exec (.encodingNotInstruction (.courier d c) .reservedField) s = .next (stopCourier s .reservedField) := rfl

theorem exec_cwLoop_stops {cnt back : BitVec 12} (zero : cnt = 0 ∨ back = 0) :
    exec (.cwLoop cnt back) s = .next (stopCourier s .reservedField) :=
  congrArg Host.Outcome.next (if_pos (by rwa [Bool.or_eq_true, decide_eq_true_iff, decide_eq_true_iff]))

end

/-- Settles O43: each word by the equation of its meaning, the ends of a courier by the flag that its command is left to write. -/
theorem courierWords : Obligations.CourierWords := by
  intro s t m
  refine ⟨fun ch n => ⟨exec_cwWait_reached, exec_cwWait_early, exec_cwCopy_full, ?_⟩, fun v cmd due => exec_cwFlag cmd,
    fun cnt back => exec_cwLoop_counts, exec_cwAdd, exec_cwEnd_waits, fun _ k due => ⟨?_, ?_, ?_⟩, fun w => ?_⟩
  · intro bs cmd room read focus fresh ps legal
    refine ⟨copyIssued t ch ps, courierCopy t ch ps, exec_cwCopy_issues cmd room read focus fresh legal, rfl, ?_, rfl, rfl, rfl, rfl, rfl, rfl,
      rfl, rfl, ?_⟩ <;> rw [copyIssued_core]
  · rintro idle ⟨cmd, last, aux, written⟩
    exact exec_cwEnd_ends idle ⟨cmd, last, aux, written⟩
  · rintro w ⟨cmd, last, aux, written⟩
    rw [exec_courierIllegalWord, stopCourier_ends ⟨cmd, last, aux, written⟩]
    rfl
  · rintro ⟨cmd, last, aux, written⟩
    have stops : stopCourier s .reservedField = courierEnded t s.focus.die s.focus.core k.id due :=
      stopCourier_ends ⟨cmd, last, aux, written⟩
    refine ⟨?_, fun cnt back zero => ?_⟩
    · rw [exec_encodingNotInstruction_courier, stops]
      rfl
    · rw [exec_cwLoop_stops zero, stops]
      rfl
  · exact ⟨checkCourier_unassigned, checkCourier_channel, checkCourier_fixed, checkCourier_end⟩

end Sys2Proof.Machine
end

section
/-! SUPPORT. Data and translations that land, waits that end, and cells (R54, R136, R137, R148, R292, R295, R303 to R306, R378): for each event
what its step does. The last section shows where O48 says otherwise, of two entries of one number; what it says of every other event is a theorem
here. -/

namespace Sys2Proof.Machine

/-! ## Queue entries (R136, R137) -/

/-- An entry with its data, decoded by its own form. -/
def AqEntry.fill (bs : List Byte) (k : AqEntry) : AqEntry := { k with data := entryBytes k.form bs, landed := true, pieces := [] }

section
variable {s t : State} {d c q id : Nat} {e : AqEntry} {bs : List Byte}
  (there : ((coreOf s d c).aqOf q).find? (fun y => y.id == id) = some e)
include there

theorem exec_aqEntryLand_held (held : s.cycle < cellHold s e.reads) :
    exec (.aqEntryLand d c q id) s = .next (at' s (cellHold s e.reads) (.aqEntryLand d c q id)) := by
  show execAqEntryLand d c q id s = _
  simp only [execAqEntryLand, there, if_pos held]

variable (ready : cellHold s e.reads ≤ s.cycle) (read : readPieces s (apOf s d c) d c e.seq e.pieces = (bs, false, t))
include ready read

theorem exec_aqEntryLand_rebuilt (rebuilt : rebuilds s e.reads = true) :
    exec (.aqEntryLand d c q id) s = .next (at' t (s.cycle + 3) (.aqEntryLand d c q id)) := by
  show execAqEntryLand d c q id s = _
  simp only [execAqEntryLand, there, if_neg (Nat.not_lt.2 ready), read, rebuilt, if_true, rebuildDelay]

/-- The data lands in every entry of its number, in each by that entry's form, and the bits of the absent granules a cycle later. -/
theorem exec_aqEntryLand_fills (direct : rebuilds s e.reads = false) (free : barrierHold s d e.reads ≤ s.cycle) :
    let u := onCore t d c (fun y => y.aqUpdate q id (AqEntry.fill bs))
    exec (.aqEntryLand d c q id) s =
      .next (if q = 0 ∨ e.absent = 0 then u else land u (.core d c) (s.cycle + 1) [.apMaskOr q e.absent]) := by
  show execAqEntryLand d c q id s = _
  simp only [execAqEntryLand, there, if_neg (Nat.not_lt.2 ready), read, direct, Bool.false_eq_true, if_false, if_neg (Nat.not_lt.2 free)]
  have same : (decide (q = 0) || decide (e.absent = 0)) = true ↔ q = 0 ∨ e.absent = 0 := by
    rw [Bool.or_eq_true, decide_eq_true_iff, decide_eq_true_iff]
  by_cases last : q = 0 ∨ e.absent = 0
  · rw [if_pos last]
    exact congrArg Host.Outcome.next (if_pos (same.2 last))
  · rw [if_neg last]
    exact congrArg Host.Outcome.next (if_neg (mt same.1 last))

end

/-- Where the entries of a number have one form, as they do when it is one entry's, the data is decoded by that form. -/
theorem aqUpdate_fill_of_form {x : Core} {q id : Nat} {bs : List Byte} {form : EntryForm} (same : ∀ k ∈ x.aqOf q, k.id = id → k.form = form) :
    x.aqUpdate q id (AqEntry.fill bs) = { x with aq := tput x.aq q ((x.aqOf q).map (fun k =>
      if k.id == id then { k with data := entryBytes form bs, landed := true, pieces := [] } else k)) } := by
  have filled : (x.aqOf q).map (fun k => if k.id == id then AqEntry.fill bs k else k) = (x.aqOf q).map (fun k =>
      if k.id == id then { k with data := entryBytes form bs, landed := true, pieces := [] } else k) := by
    refine List.map_congr_left (fun k mem => ?_)
    by_cases number : k.id = id
    · rw [AqEntry.fill, same k mem number]
    · rw [if_neg (by simpa using number), if_neg (by simpa using number)]
  rw [Core.aqUpdate, filled]

/-! ## Waits (R148, R378) -/

theorem le_foldl_of_grows {α : Type} (f : Nat → α → Nat) (grows : ∀ n x, n ≤ f n x) (l : List α) (n : Nat) : n ≤ l.foldl f n := by
  induction l generalizing n with
  | nil => exact Nat.le_refl n
  | cons x l ih => exact Nat.le_trans (grows n x) (ih (f n x))

/-- A read lands no earlier than its path and its translations allow. -/
theorem partsLat_le_readDue (s : State) (a : AgentId) (d c : Nat) (ps : List Part) : s.cycle + partsLat s d ps ≤ readDue s a d c ps := by
  unfold readDue
  refine Nat.le_trans (le_foldl_of_grows _ (fun n p => ?_) ps _) (le_foldl_of_grows _ (fun n g => Nat.le_max_left _ _) _ _)
  dsimp only
  split
  · exact Nat.le_refl n
  · exact Nat.le_max_left _ _

theorem condKind_eq (w : Word) : condKind w = w.toNat / 2 ^ 60 := by
  have := w.isLt
  unfold condKind bits
  omega

theorem condAddress_eq (w : Word) : bits w 55 0 = w.toNat % 2 ^ 56 := by
  unfold bits
  omega

/-- What a re-read of a memory condition asks of a page. -/
abbrev rereadNeed : Need := { write := false, raw := true, ordered := false, hostTrap := false }

section
variable {s t : State} {d c : Nat}

/-- A re-read whose pages are there sets its condition's value to land. -/
theorem rereadCond_lands {start i : Nat} {w : Word} {ps : List Part} (mem : isMemCond w = true) (waits : (coreOf s d c).ap.onConds = true)
    (split : splitAccess d (some c) (coreOf s d c).asid (coreOf s d c).vt rereadNeed (bits w 55 0) 8 s = (ps, none, t)) :
    rereadCond (.ap d c) start s i w = land { t with seq := t.seq + 1 } (.core d c) (acquireDue t (apOf s d c) (readDue t (apOf s d c) d c ps))
      [.cond (.ap d c) i (decide (condKind w = 4)) (runsOf ps) (apOf s d c) t.seq start] := by
  unfold rereadCond
  simp only [mem, procOf, waits, Bool.not_true, Bool.or_self, Bool.false_eq_true, if_false, procAt, split, nextSeq]

theorem exec_waitReread_lone {all : Bool} {w : Word} {pd start : Nat} {dl : Option Nat} {seen : List (Nat × Bool)} {ps : List Part}
    (waits : (coreOf s d c).ap.wait = .conds all [w] pd dl seen start) (kind : w.toNat / 2 ^ 60 = 3 ∨ w.toNat / 2 ^ 60 = 4)
    (split : splitAccess d (some c) (coreOf s d c).asid (coreOf s d c).vt rereadNeed (w.toNat % 2 ^ 56) 8 s = (ps, none, t)) :
    ∃ due, t.cycle + partsLat t d ps ≤ due ∧ exec (.waitReread (.ap d c)) s = .next
      (let u := land { t with seq := t.seq + 1 } (.core d c) due
        [.cond (.ap d c) 0 (w.toNat / 2 ^ 60 = 4) (runsOf ps) (apOf s d c) t.seq start]
       at' u (t.cycle + 64) (.waitReread (.ap d c))) := by
  rw [← condAddress_eq] at split
  simp only [← condKind_eq] at kind ⊢
  have mem : isMemCond w = true := by simpa [isMemCond] using kind
  have onConds : (coreOf s d c).ap.onConds = true := by rw [ProcState.onConds, waits]
  refine ⟨acquireDue t (apOf s d c) (readDue t (apOf s d c) d c ps), Nat.le_trans (partsLat_le_readDue t _ d c ps) (Nat.le_max_left _ _), ?_⟩
  show Host.Outcome.next (rereadAll s (.ap d c)) = _
  simp only [rereadAll, procOf, waits, List.length_singleton, List.range_one, List.zip_cons_cons, List.zip_nil_left, List.foldl_cons,
    List.foldl_nil, List.any_cons, mem, Bool.true_or, if_true, rereadCond_lands mem onConds split, land_cycle]

theorem tryWait_unmet {all : Bool} {ws : List Word} {pd start : Nat} {dl : Option Nat} {seen : List (Nat × Bool)}
    (waits : (coreOf s d c).ap.wait = .conds all ws pd dl seen start) (unmet : waitHolds (coreOf s d c) s.cycle all ws seen = false) :
    tryWait s (.ap d c) = s := by
  simp only [tryWait, procOf, waits, procAt, unmet, Bool.false_eq_true, if_false]

theorem exec_waitTimeout_unmet {all : Bool} {ws : List Word} {pd dl start : Nat} {seen : List (Nat × Bool)}
    (waits : (coreOf s d c).ap.wait = .conds all ws pd (some dl) seen start) (reached : dl ≤ s.cycle)
    (unmet : waitHolds (coreOf s d c) s.cycle all ws seen = false) :
    exec (.waitTimeout (.ap d c)) s = .next (endWait s (.ap d c) pd false) := by
  show execWaitTimeout (.ap d c) s = _
  simp only [execWaitTimeout, tryWait_unmet waits unmet, procOf, waits, if_pos reached]

/-! ## Translations (R292) -/

theorem mem_tlbCore (l : List TlbEntry) (e : TlbEntry) : e ∈ tlbCore l e := by
  rw [tlbCore, tlbUse, List.take_succ_cons]
  exact List.mem_cons_self

theorem mem_tlbDie (l : List TlbEntry) (e : TlbEntry) : e ∈ tlbDie l e := by
  rw [tlbDie, tlbUse, keepWays, if_neg (Decidable.not_not.2 rfl)]
  exact List.mem_cons_self

theorem tlbInstall_die (s : State) (d : Nat) (core : Option Nat) (e : TlbEntry) : e ∈ (dieOf (tlbInstall s d core e) d).tlb := by
  have installed : e ∈ (dieOf (onDie s d (fun x => { x with tlb := tlbDie x.tlb e })) d).tlb := by
    rw [dieOf_onDie_same]
    exact mem_tlbDie _ e
  cases core <;> exact installed

theorem tlbInstall_core (s : State) (d c : Nat) (e : TlbEntry) : e ∈ (coreOf (tlbInstall s d (some c) e) d c).tlb := by
  simp only [tlbInstall, coreOf_onCore_same]
  exact mem_tlbCore _ e

theorem tlbInstall_mem (s : State) (d : Nat) (core : Option Nat) (e : TlbEntry) : (tlbInstall s d core e).mem = s.mem := by
  cases core <;> rfl

/-- Whether a walk's translation is installed: its page is resident here, is not on its way to the host, and no shootdown removes it. -/
abbrev walkInstalls (s : State) (asid vint : Nat) (l : Leaf) : Prop :=
  l.res = true ∧ l.home = 0 ∧ leaving s asid l = false ∧ ∀ k ∈ s.shoots, k.covers asid vint l = false

theorem walkRefused_eq_false_iff (s : State) (asid vint : Nat) (l : Leaf) :
    (!l.res || l.home ≠ 0 || leaving s asid l || s.shoots.any (fun x => x.covers asid vint l)) = false ↔ walkInstalls s asid vint l := by
  simp only [Bool.or_eq_false_iff, Bool.not_eq_false', decide_eq_false_iff_not, Decidable.not_not, List.any_eq_false, Bool.not_eq_true, and_assoc]

theorem exec_tlbWalkComplete_refused {asid vint va : Nat} {l : Leaf} (found : walk s asid va = .ok l) (refused : ¬ walkInstalls s asid vint l) :
    exec (.tlbWalkComplete d c asid vint va) s = .next s := by
  rw [← walkRefused_eq_false_iff, Bool.not_eq_false] at refused
  show execTlbWalkComplete d c asid vint va s = _
  simp only [execTlbWalkComplete, found, refused, if_true]

/-- A walk's translation enters its die's TLB, and its core's where a core asked. -/
theorem exec_tlbWalkComplete_installs {asid vint va : Nat} {l : Leaf} (found : walk s asid va = .ok l) (installs : walkInstalls s asid vint l) :
    ∃ t, exec (.tlbWalkComplete d c asid vint va) s = .next t ∧ tlbEntryOf s asid vint va l ∈ (dieOf t d).tlb ∧
      (c < 32 → tlbEntryOf s asid vint va l ∈ (coreOf t d c).tlb) ∧ t.mem = s.mem := by
  rw [← walkRefused_eq_false_iff] at installs
  refine ⟨tlbInstall s d (if c < 32 then some c else none) (tlbEntryOf s asid vint va l), ?_, tlbInstall_die _ _ _ _, fun core => ?_,
    tlbInstall_mem _ _ _ _⟩
  · show execTlbWalkComplete d c asid vint va s = _
    simp only [execTlbWalkComplete, found, installs, Bool.false_eq_true, if_false]
  · rw [if_pos core]
    exact tlbInstall_core _ _ _ _

/-! ## Shootdowns (R295) -/

/-- Dropping translations leaves everything else of a core. -/
theorem coreOf_dropTlbs (s : State) (f : TlbEntry → Bool) (d c : Nat) :
    coreOf (dropTlbs s f) d c = { coreOf s d c with tlb := (coreOf s d c).tlb.filter (fun e => !f e) } := by
  simp only [coreOf, tget, dropTlbs, tfind_map (fun x : Core => { x with tlb := x.tlb.filter (fun e => !f e) })]
  cases tfind s.cores (coreKey d c) <;> rfl

theorem apResume_wait (s : State) (d c : Nat) : (coreOf (apResume s d c) d c).ap.wait = .none := by
  simp only [apResume, coreOf, later_cores]
  exact congrArg (fun x : Core => x.ap.wait) (coreOf_onCore_same s d c _)

theorem exec_shootdownComplete_held {id : Nat} {k : Shootdown} (found : s.shoots.find? (fun y => y.id == id) = some k)
    (held : s.cycle < pinsFree s id k.held) :
    exec (.shootdownComplete id) s = .next (at' s (pinsFree s id k.held) (.shootdownComplete id)) := by
  show execShootdownComplete id s = _
  simp only [execShootdownComplete, found, if_pos held]

/-- The state after a shootdown: it is over, and no translation of its range is left. -/
def shootdownOver (s : State) (k : Shootdown) : State :=
  dropTlbs { s with shoots := s.shoots.filter (fun y => y.id != k.id) } (fun e => e.inRange k.asid k.vint k.va k.len)

@[simp] theorem apResume_mem (s : State) (d c : Nat) : (apResume s d c).mem = s.mem := by simp [apResume]

@[simp] theorem apResume_shoots (s : State) (d c : Nat) : (apResume s d c).shoots = s.shoots := by simp [apResume]

/-- Once no access through the old translations is under way, the AP that waits at its SEAL goes on. -/
theorem exec_shootdownComplete_seal {id : Nat} {k : Shootdown} (found : s.shoots.find? (fun y => y.id == id) = some k)
    (done : k.done = .seal d c) (waits : (coreOf s d c).ap.wait = .seal id) (free : pinsFree s id k.held ≤ s.cycle) :
    ∃ t, exec (.shootdownComplete id) s = .next t ∧ (coreOf t d c).ap.wait = .none ∧ t.shoots = s.shoots.filter (fun y => y.id != id) ∧
      t.mem = s.mem := by
  have same : k.id = id := by simpa using List.find?_some found
  have still : ((coreOf (shootdownOver s k) d c).ap.wait == .seal id) = true := by
    rw [shootdownOver, coreOf_dropTlbs]
    exact beq_iff_eq.2 waits
  refine ⟨apResume (shootdownOver s k) d c, ?_, apResume_wait _ _ _, ?_, apResume_mem _ _ _⟩
  · show execShootdownComplete id s = _
    rw [shootdownOver, same] at still ⊢
    simp only [execShootdownComplete, found, done, if_neg (Nat.not_lt.2 free), still, if_true]
  · rw [apResume_shoots, shootdownOver, same]
    rfl

/-! ## Cells (R303 to R306) -/

theorem exec_cellReady_early {id : Nat} {m : Materialise} (found : s.making.find? (fun y => y.id == id) = some m) (early : s.cycle < m.readyAt) :
    exec (.cellReady id) s = .next s := by
  show execCellReady id s = _
  simp only [execCellReady, found, if_pos early]

theorem exec_cellReady_pinned {id : Nat} {m : Materialise} (found : s.making.find? (fun y => y.id == id) = some m) (ready : m.readyAt ≤ s.cycle)
    (pinned : s.cycle < oldPins s m) :
    exec (.cellReady id) s = .next (at' { s with
      making := s.making.map (fun y => if y.id == id then { y with readyAt := oldPins s m } else y) } (oldPins s m) (.cellReady id)) := by
  show execCellReady id s = _
  simp only [execCellReady, found, if_neg (Nat.not_lt.2 ready), if_pos pinned]

/-- The bytes of a new cell: zeros, or its base's. -/
def cellBytes (s : State) (m : Materialise) : List Byte := if m.fresh then List.replicate m.size 0 else bytesAt s.mem m.base m.size

theorem cellBytes_length (s : State) (m : Materialise) : (cellBytes s m).length = m.size := by
  unfold cellBytes
  split
  · exact List.length_replicate
  · rw [bytesAt_eq, List.length_map, List.length_range]

theorem cellBytes_getD (s : State) (m : Materialise) {i : Nat} (inside : i < m.size) :
    (cellBytes s m).getD i 0 = if m.fresh then 0 else byteAt s.mem (m.base + i) := by
  unfold cellBytes
  split
  · rw [List.getD_eq_getElem?_getD, List.getElem?_replicate_of_lt inside, Option.getD_some]
  · rw [bytesAt_eq, List.getD_eq_getElem?_getD, List.getElem?_map, List.getElem?_range inside, Option.map_some, Option.getD_some]

/-- Poison touches nothing but its own list. -/
theorem foldl_poisonAt_eq (s : State) (l : List Nat) : ∃ p, l.foldl poisonAt s = { s with poison := p } := by
  induction l generalizing s with
  | nil => exact ⟨s.poison, rfl⟩
  | cons pa l ih =>
    obtain ⟨p, hp⟩ := ih (poisonAt s pa)
    refine ⟨p, hp.trans ?_⟩
    simp only [poisonAt]
    split <;> rfl

/-- The cell that a materialisation makes, in a slot of the directory. -/
def newCell (m : Materialise) (slot : Nat) : Cell := { slot := slot, asid := m.asid, vint := m.vint, va := m.va, frame := m.frame, size := m.size }

theorem fillCell_frame (s : State) (m : Materialise) :
    (fillCell s m).mem = writeBytes s.mem m.frame (cellBytes s m) ∧ (fillCell s m).making = s.making.filter (fun y => y.id != m.id) ∧
      ∃ slot, (fillCell s m).cells = s.cells ++ [newCell m slot] := by
  unfold fillCell
  obtain ⟨p, hp⟩ := foldl_poisonAt_eq (storeBytes s m.frame (cellBytes s m))
    (if m.fresh then [] else (s.poison.filter (fun p => m.base ≤ p && p < m.base + m.size)).map (fun p => p - m.base + m.frame))
  unfold cellBytes at hp ⊢
  simp only [hp]
  exact ⟨rfl, rfl, _, rfl⟩

theorem byteAt_fillCell (s : State) (m : Materialise) (a : Nat) :
    byteAt (fillCell s m).mem a = if m.frame ≤ a ∧ a < m.frame + m.size then (if m.fresh then 0 else byteAt s.mem (m.base + (a - m.frame)))
      else byteAt s.mem a := by
  rw [(fillCell_frame s m).1, byteAt_writeBytes, cellBytes_length]
  split
  next inside => exact cellBytes_getD s m (by omega)
  next => rfl

/-- The cell enters the directory with its base's bytes, or with zeros; no other byte changes. -/
theorem exec_cellReady_fills {id : Nat} {m : Materialise} (found : s.making.find? (fun y => y.id == id) = some m) (ready : m.readyAt ≤ s.cycle)
    (free : oldPins s m ≤ s.cycle) (clean : fillErrors s m = (.clean, [], s)) :
    ∃ t slot, exec (.cellReady id) s = .next t ∧ t.making = s.making.filter (fun y => y.id != m.id) ∧ t.cells = s.cells ++ [newCell m slot] ∧
      ∀ a, byteAt t.mem a = if m.frame ≤ a ∧ a < m.frame + m.size then (if m.fresh then 0 else byteAt s.mem (m.base + (a - m.frame)))
        else byteAt s.mem a := by
  obtain ⟨-, making, slot, cells⟩ := fillCell_frame s m
  refine ⟨fillCell s m, slot, ?_, making, cells, byteAt_fillCell s m⟩
  show execCellReady id s = _
  simp only [execCellReady, found, if_neg (Nat.not_lt.2 ready), if_neg (Nat.not_lt.2 free), clean, List.foldl_nil]
  rfl

theorem exec_cellWaitTimeout_ap {id : Nat} {w : CellWait} (found : s.cellWaits.find? (fun y => y.id == id) = some w) (who : w.waiter = .ap d c)
    (waits : (coreOf s d c).ap.wait = .cell id) :
    exec (.cellWaitTimeout id) s = .next (coreTrap { s with cellWaits := s.cellWaits.filter (fun y => y.id != id) } d c 3 (trapOf .vintageSpace)
      (coreOf s d c).ap.word (coreOf s d c).xp.pc) := by
  have still : ((coreOf s d c).ap.wait == .cell id) = true := beq_iff_eq.2 waits
  show execCellWaitTimeout id s = _
  simp only [execCellWaitTimeout, found, who]
  exact congrArg _ (if_pos still)

/-! ## Vintages freed (R280, R306) -/

/-- The cells of a vintage, and those being made for it, gone from the state, with its deposits. -/
def vintageEmptied (s : State) (asid v : Nat) : State :=
  { s with
    cells := s.cells.filter (fun y => !(decide (y.asid = asid) && decide (y.vint = v)))
    making := s.making.filter (fun y => !(decide (y.asid = asid) && decide (y.vint = v)))
    cellWaits := s.cellWaits.filter (fun y => !(decide (y.asid = asid) && decide (y.vint = v)))
    poste := s.poste.filter (fun p => !(p.asid = asid && p.vint = v
      && (match mappedLeaf s asid p.va with | some l => l.vintaged | none => false))) }

/-- The runs of memory that the cells of a vintage hold. -/
def vintageHeld (s : State) (asid v : Nat) : List (Nat × Nat) :=
  (s.cells.filter (fun y => decide (y.asid = asid) && decide (y.vint = v))).map (fun y => (y.frame, y.size)) ++
    (s.making.filter (fun y => decide (y.asid = asid) && decide (y.vint = v))).map (fun y => (y.frame, y.size))

/-- A cell's frame given back to its die's rename area, where it came from one. -/
def freeFrame (s : State) (frame : Nat) : State :=
  match poolDie frame with
  | some d => onDie s d (fun x => { x with renameUsed := x.renameUsed.filter (fun u => u.1 != frame - poolBase d) })
  | none => s

/-- Frames given back change nothing but the dies. -/
theorem foldl_freeFrame_eq (s : State) (l : List Nat) : ∃ ds, l.foldl freeFrame s = { s with dies := ds } := by
  induction l generalizing s with
  | nil => exact ⟨s.dies, rfl⟩
  | cons frame l ih =>
    obtain ⟨ds, h⟩ := ih (freeFrame s frame)
    refine ⟨ds, h.trans ?_⟩
    unfold freeFrame
    split <;> rfl

/-- The state after a vintage's cells are freed and its shootdown has started. -/
def vintageFreed (s : State) (asid v : Nat) : State :=
  startShootdown (((vintageHeld s asid v).map (fun r => r.1)).foldl freeFrame (vintageEmptied s asid v)) asid (some v) 0 (2 ^ 56)
    (some (vintageHeld s asid v)) (.free asid v)

theorem exec_vintageFree {asid v : Nat} (dead : liveRecords s asid v = 0)
    (ends : (spaceOf s asid).stateOf v = .retiring ∨ (spaceOf s asid).stateOf v = .folding) :
    exec (.vintageFree asid v) s = .next (vintageFreed s asid v) := by
  have goes : ¬ (liveRecords s asid v ≠ 0 || !((spaceOf s asid).stateOf v == .retiring || (spaceOf s asid).stateOf v == .folding)) = true := by
    rcases ends with ends | ends <;> simp [dead, ends]
  exact congrArg Host.Outcome.next (if_neg goes)

/-- What starting a shootdown leaves, and the shootdown that it adds. -/
theorem startShootdown_frame (s : State) (asid : Nat) (v : Option Nat) (va len : Nat) (held : Option (List (Nat × Nat))) (done : Waiter) :
    (startShootdown s asid v va len held done).mem = s.mem ∧ (startShootdown s asid v va len held done).cells = s.cells ∧
      (startShootdown s asid v va len held done).making = s.making ∧ (startShootdown s asid v va len held done).cellWaits = s.cellWaits ∧
      (startShootdown s asid v va len held done).shoots =
        s.shoots ++ [{ id := s.seq, asid := asid, vint := v, va := va, len := len, held := held, done := done }] := by
  simp only [startShootdown, at'_mem, at'_cells, at'_making, at'_cellWaits, at'_shoots]
  exact ⟨rfl, rfl, rfl, rfl, rfl⟩

theorem vintageFreed_frame (s : State) (asid v : Nat) :
    (vintageFreed s asid v).mem = s.mem ∧ (vintageFreed s asid v).cells = (vintageEmptied s asid v).cells ∧
      (vintageFreed s asid v).making = (vintageEmptied s asid v).making ∧ (vintageFreed s asid v).cellWaits = (vintageEmptied s asid v).cellWaits ∧
      (vintageFreed s asid v).shoots = s.shoots ++
        [{ id := s.seq, asid := asid, vint := some v, va := 0, len := 2 ^ 56, held := some (vintageHeld s asid v), done := .free asid v }] := by
  obtain ⟨ds, h⟩ := foldl_freeFrame_eq (vintageEmptied s asid v) ((vintageHeld s asid v).map (fun r => r.1))
  rw [vintageFreed, h]
  exact startShootdown_frame _ _ _ _ _ _ _

theorem exec_encodingNotInstruction_cc (d : Nat) (why : DecodeError) (s : State) :
    exec (.encodingNotInstruction (.cc d) why) s = .next (ccTrap s d s.focus.pc (DecodeError.cause why) 0) := rfl

theorem exec_encodingNotInstruction_ap (d c : Nat) (why : DecodeError) (s : State) :
    exec (.encodingNotInstruction (.ap d c) why) s = .next (apTrap s (trapOf (DecodeError.cause why))) := rfl

theorem exec_encodingNotInstruction_xp (d c : Nat) (why : DecodeError) (s : State) :
    exec (.encodingNotInstruction (.xp d c) why) s = .next (xpTrap s (trapOf (DecodeError.cause why))) := rfl

end

/-! ## Two entries of one number -/

/-- An entry of number 0 that holds its byte already. -/
def twin (form : EntryForm) : AqEntry :=
  { id := 0, data := 0, landed := false, due := 0, pieces := [.bytes [1]], form := form, absent := 0, seq := 0, pc := 0, gone := none }

/-- The form of a load of raw bytes. -/
def rawForm : EntryForm := { fmt := 0, geom := 0, sz := 0, scale := 0 }

/-- The form of a load of no element of a block-scaled page. -/
def blockForm : EntryForm := { fmt := 11, geom := 0, sz := 0, scale := 0 }

/-- A core whose queue 0 holds two entries of one number and different forms. -/
def twinEntries : State := onCore .reset 0 0 (fun x => { x with aq := [(0, [twin rawForm, twin blockForm])] })

/-- The data of the entries of queue 0. -/
def aqData : Out → List Vec
  | .next t => ((coreOf t 0 0).aqOf 0).map (fun k => k.data)
  | _ => []

theorem entryBytes_rawForm : entryBytes rawForm [1] = 1 := rfl

theorem entryBytes_blockForm : entryBytes blockForm [1] = 0 := rfl

theorem twinEntries_landed :
    exec (.aqEntryLand 0 0 0 0) twinEntries = .next (onCore twinEntries 0 0 (fun y => y.aqUpdate 0 0 (AqEntry.fill [1]))) :=
  exec_aqEntryLand_fills (e := twin rawForm) rfl (by decide) rfl rfl (by decide)

/-- Refutes O48: a landing fills every entry of its number, each by its own form; the statement decodes all of them by the form of the first. It
names no more than that entry, so that a queue may hold another of its number: here a block-scaled one of no element, whose data is 0 in the
model and the raw byte 1 in the statement. -/
theorem not_accessEvents : ¬ Obligations.AccessEvents := by
  intro h
  obtain ⟨landing, -⟩ := h twinEntries 0 0
  obtain ⟨-, -, fills⟩ := landing 0 0 (twin rawForm) [1] twinEntries rfl rfl
  have said := fills (by decide) rfl (by decide)
  have data := congrArg aqData (twinEntries_landed.symm.trans said)
  have second : entryBytes blockForm [1] = entryBytes rawForm [1] := congrArg (fun l => l.getD 1 0) data
  rw [entryBytes_rawForm, entryBytes_blockForm] at second
  simp at second

end Sys2Proof.Machine
end
